-- ==== Sys2Proof/Word.lean ====
section
/-! DEFINITION. The word types of the Fetre 900: code words and scalar registers are 64 bits, a vector lane is 32 bits,
memory is addressed in bytes (R6). -/

namespace Sys2Proof

/-- An instruction word, a scalar register or a 64-bit address (R294, R127). -/
abbrev Word := BitVec 64

/-- One element of a vector register (R6: lane i occupies bits 32i + 31 : 32i). -/
abbrev Lane := BitVec 32

/-- One byte of memory. -/
abbrev Byte := BitVec 8

/-- A 32-bit mask of lanes, bit i for lane i. -/
abbrev Mask := BitVec 32

/-- A code or virtual address of 57 bits (R52). -/
abbrev Addr := BitVec 57

end Sys2Proof
end

