-- ==== Sys2Proof/Syntax.lean ====
section
/-! DEFINITION. The abstract syntax: one constructor of `Instr` for each row of spec/opcode_table.json. A word's operand
fields have exactly the width its encoding gives them; codes that select an operation are enumerations. Rows that are
events of the device, which no word encodes, carry what the event names. -/

namespace Sys2Proof

/-- The timing, guard and negation fields of every word's header (R294). -/
structure Hdr where
  /-- CLASS, bits 57:56: 0 F, 1 N, 2 S, 3 X. -/
  cls : BitVec 2
  /-- GUARD, bits 55:52. -/
  guard : BitVec 4
  /-- GNEG, bit 51. -/
  gneg : BitVec 1
  deriving DecidableEq, Repr, Inhabited

/-- A 10-bit vector operand field (R297). -/
structure VOp where
  idx : BitVec 2
  base : BitVec 8
  deriving DecidableEq, Repr, Inhabited

/-- The type suffixes of R306. -/
inductive Ty where
  | none | f32 | b16 | h16 | s32 | z32 | s64 | z64
  | pi2 | pi3 | pi4 | pi5 | pi6 | pi7 | pi8 | b32
  deriving DecidableEq, Repr, Inhabited

/-- The spaces of R126. -/
inductive Space where
  | g | c | s | k | w
  deriving DecidableEq, Repr, Inhabited

/-- The orders of R167. -/
inductive Order where
  | rlx | acq | rel | ar | sc
  deriving DecidableEq, Repr, Inhabited

/-- The scopes of R166. -/
inductive Scope where
  | group | team | clus | dev | part | sys
  deriving DecidableEq, Repr, Inhabited

/-- The rounding modes of R100. -/
inductive RMode where
  | rne | rz | rdn | rup
  deriving DecidableEq, Repr, Inhabited

/-- The conditions of SCMP (R301) and VCMP (R424). -/
inductive Cond where
  | eq | ne | lt | le | gt | ge | un
  deriving DecidableEq, Repr, Inhabited

/-- The activations of VACT and VGATE (R236). -/
inductive Act where
  | relu | sigm | tanh | silu | gelu | softplus
  deriving DecidableEq, Repr, Inhabited

/-- The operations of VRED and VSCAN (R441). -/
inductive RedOp where
  | add | and | or | xor | max | min
  deriving DecidableEq, Repr, Inhabited

/-- The in-flight paths of R151. -/
inductive Path where
  | ld | st | cp | sg | mx
  deriving DecidableEq, Repr, Inhabited

/-- The second source of a format S word: a register or an immediate (R301). -/
inductive SSrc where
  | reg (sb : BitVec 6)
  | imm (v : BitVec 20)
  deriving DecidableEq, Repr, Inhabited

/-- The forms of SMOV (R396). -/
inductive SMovForm where
  | ss (sd sa : BitVec 6)
  | sx (xd : BitVec 2) (sa : BitVec 6)
  | xs (sd : BitVec 6) (xa : BitVec 2)
  deriving DecidableEq, Repr, Inhabited

/-- Value and return operands of an atomic: the scalar or the vector form (R334). -/
inductive AtomOpnd where
  | scal (sv sx : BitVec 6)
  | vec (vv vx : VOp)
  deriving DecidableEq, Repr, Inhabited

/-- The operands of an atomic (R335). -/
structure AtomF where
  ty : Ty
  space : Space
  order : Order
  scope : Scope
  sb : BitVec 6
  opnd : AtomOpnd
  off : BitVec 8
  deriving DecidableEq, Repr, Inhabited

/-- Space, order, scope and base of a format M word (R300). -/
structure MemF where
  space : Space
  order : Order
  scope : Scope
  sb : BitVec 6
  deriving DecidableEq, Repr, Inhabited

/-- The forms of VCVT (R425). `narrow` has two sources, `widen` selects a half. -/
inductive CvtForm where
  | narrow (dt : Ty) (va vb : VOp)
  | widen (st : Ty) (va : VOp) (half : BitVec 1)
  | cross (st dt : Ty) (va : VOp)
  | toInt (dt : Ty) (va : VOp)
  | fromInt (st : Ty) (va : VOp)
  deriving DecidableEq, Repr, Inhabited

/-- The four feed registers of XV and XVN: bases and the common index (R229). -/
structure Feeds where
  fix : BitVec 2
  f0 : BitVec 5
  f1 : BitVec 5
  f2 : BitVec 5
  f3 : BitVec 5
  deriving DecidableEq, Repr, Inhabited

/-- An export field of a trailer (R305). -/
inductive Export where
  | vec (n : BitVec 8)
  | scal (n : BitVec 6)
  | pred (n : BitVec 4)
  deriving DecidableEq, Repr, Inhabited

/-- SEMWAIT comparisons (R275). -/
inductive SemCmp where
  | eq | ne | ge | gt | le | lt | any
  deriving DecidableEq, Repr, Inhabited

/-- SEMSIG operations (R275). -/
inductive SemOp where
  | set | add | or
  deriving DecidableEq, Repr, Inhabited

/-- The special registers of R307; TEAMID names its component. -/
inductive Spr where
  | laneid | groupid | teamid (comp : BitVec 2) | clusterid | gridid | coreid | strokes | elapsed | retired | walltime
  | flags | trapen | passes | preq | pdeadline | lfs | lsp | epc | ecause | einfo | allot | spbase | spsize | detmode
  | tenant | rngseed
  deriving DecidableEq, Repr, Inhabited

/-- Destination of SRD: a vector register for LANEID, else a scalar register (R302). -/
inductive SrdDst where
  | vec (d : VOp)
  | scal (d : BitVec 6)
  deriving DecidableEq, Repr, Inhabited

/-- What an access that arrives from the host or a peer does (R289, R340): `lock` is an atomic step of R334. -/
inductive PeerOp where
  | load
  | store (v : List Byte)
  | add (n : Nat) (v : Word)
  | xch (n : Nat) (v : Word)
  | cas (n : Nat) (old new : Word)
  deriving DecidableEq, Repr, Inhabited

/-- Where an outside agent's access lands: a local physical address of a partition, host memory, or a page of a peer. -/
inductive PeerTarget where
  | loc (part : Nat) (addr : Nat)
  | host (addr : Nat)
  | peer (dest : Nat) (addr : Nat)
  deriving DecidableEq, Repr, Inhabited

/-- What an upset strikes (R268, R269). -/
inductive Upset where
  | vreg (core slot reg lane : Nat)
  | sreg (core slot reg : Nat) (hi : Bool)
  | temp (core slot t lane : Nat)
  | stack (core slot lane entry : Nat)
  | accum (core ctx tile elt : Nat)
  | scratch (core unit : Nat)
  | table (core bank entry : Nat)
  | cistern (sector : Nat)
  | hbm (sector : Nat)
  | l1 (core line : Nat)
  | control (core slot : Nat)
  | portPass (core slot pass : Nat)
  | engineCheck (core ctx : Nat)
  | engineData
  deriving DecidableEq, Repr, Inhabited

/-- What the management firmware assigns to a partition (R284, R140, R142, R285, R289). -/
structure Assignment where
  ident : BitVec 32
  tenant : BitVec 32
  cores : List Nat
  channels : List Nat
  cacheSlices : List Nat
  bufSlices : List Nat
  pumps : BitVec 32
  ports : List Nat
  dests : List Nat
  /-- Peer entry number, and 32 × device address + local number (R289). -/
  peers : List (Nat × Nat)
  streams : List Nat
  deriving DecidableEq, Repr, Inhabited

/-- The instructions and the events of the device, one constructor per row of spec/opcode_table.json. -/
inductive Instr where
  -- atomics (R334)
  | aadd (h : Hdr) (a : AtomF)
  | aand (h : Hdr) (a : AtomF)
  | aor (h : Hdr) (a : AtomF)
  | axor (h : Hdr) (a : AtomF)
  | amax (h : Hdr) (a : AtomF)
  | amin (h : Hdr) (a : AtomF)
  | axch (h : Hdr) (a : AtomF)
  | acas (h : Hdr) (a : AtomF)
  -- barriers (R341, R352)
  | bar (h : Hdr) (b : BitVec 4)
  | bara (h : Hdr) (sc : Scope) (b : BitVec 4)
  | barw (h : Hdr) (sc : Scope) (b : BitVec 4)
  | cbar (h : Hdr) (b : BitVec 2)
  | barrierComplete (team b : Nat) (cluster : Bool)
  -- branches and control (R346 to R365)
  | bra (h : Hdr) (off : BitVec 26) (join : BitVec 16)
  | brx (h : Hdr) (sr : BitVec 6) (join : BitVec 16)
  | brk (h : Hdr)
  | call (h : Hdr) (off : BitVec 26)
  | callx (h : Hdr) (sr : BitVec 6)
  | end_ (h : Hdr)
  | fence (h : Hdr) (ord : Order) (sc : Scope)
  -- factor tile (R213)
  | ftinit (h : Hdr) (acc : BitVec 3) (dim : BitVec 5) (sk : BitVec 6)
  | ftupd (h : Hdr) (acc : BitVec 3) (va : VOp)
  | ftdnd (h : Hdr) (acc : BitVec 3) (va : VOp)
  | ftsolv (h : Hdr) (acc : BitVec 3) (va : VOp) (bwd : BitVec 1)
  | ftldet (h : Hdr) (acc : BitVec 3) (va : VOp)
  | ftld (h : Hdr) (acc : BitVec 3) (sp : Space) (sb : BitVec 6) (dim : BitVec 5) (off : BitVec 26)
  | ftst (h : Hdr) (acc : BitVec 3) (sp : Space) (sb : BitVec 6) (off : BitVec 26)
  | icinv (h : Hdr)
  | launch (h : Hdr) (sd sr : BitVec 6)
  | launchat (h : Hdr) (sd sr st : BitVec 6)
  | timedLaunchRelease (lid : Nat)
  | lexit (h : Hdr) (id : BitVec 6)
  | loopC (h : Hdr) (id cnt : BitVec 6) (max : BitVec 16) (end_ : BitVec 15)
  | loopW (h : Hdr) (id : BitVec 6) (pk : BitVec 4) (max : BitVec 16) (end_ : BitVec 15)
  -- matrix engine (R210)
  | mcomp (h : Hdr) (ty : Ty) (vd vm vs : VOp)
  | merge (h : Hdr) (mask : BitVec 8)
  | mfence (h : Hdr) (sd : BitVec 6)
  | mfree (h : Hdr)
  | mlda (h : Hdr) (acc : BitVec 3) (sp : Space) (sb : BitVec 6) (off : BitVec 31)
  | msta (h : Hdr) (acc : BitVec 3) (sp : Space) (sb : BitVec 6) (off : BitVec 31)
  | mlease (h : Hdr) (sd : BitVec 6) (cnt : BitVec 8) (tiles : BitVec 3)
  | mma (h : Hdr) (ty : Ty) (acc : BitVec 3) (va vb : VOp) (fb : BitVec 6)
  | mmas (h : Hdr) (ty : Ty) (acc : BitVec 3) (va vm vb : VOp) (fb : BitVec 6)
  | mmova (h : Hdr) (acc : BitVec 3) (va : VOp) (qtr : BitVec 2) (dir : BitVec 1)
  | mwait (h : Hdr) (sk : BitVec 6)
  | mzero (h : Hdr) (acc : BitVec 3)
  | engineOpRun (core : Nat)
  | engineMemoryReturn (core ctx : Nat)
  | batchCommit (core ctx : Nat)
  -- system and engines
  | nop (h : Hdr)
  | ovtld (h : Hdr) (sk : BitVec 6)
  | pcanc (h : Hdr) (st : BitVec 6)
  | pcpy (h : Hdr) (st sd sa sl : BitVec 6) (dsp ssp : Space) (sc : Scope)
  | pfill (h : Hdr) (st sd sl sp : BitVec 6) (dsp : Space) (sc : Scope)
  | pumpPieceDone (core slot idx piece : Nat)
  | pstat (h : Hdr) (sd st : BitVec 6)
  | regang (h : Hdr) (mask : BitVec 8)
  | ret (h : Hdr)
  | rsst (h : Hdr) (sp : Space) (sc : Scope) (sb : BitVec 6) (what : BitVec 7) (off : BitVec 16)
  | runend (cls : BitVec 2) (exports : List Export)
  -- scalar words (R393 to R397, R325)
  | sadd (h : Hdr) (ty : Ty) (sd sa : BitVec 6) (b : SSrc)
  | ssub (h : Hdr) (ty : Ty) (sd sa : BitVec 6) (b : SSrc)
  | sand (h : Hdr) (ty : Ty) (sd sa : BitVec 6) (b : SSrc)
  | sor (h : Hdr) (ty : Ty) (sd sa : BitVec 6) (b : SSrc)
  | sxor (h : Hdr) (ty : Ty) (sd sa : BitVec 6) (b : SSrc)
  | sshl (h : Hdr) (ty : Ty) (sd sa : BitVec 6) (b : SSrc)
  | sshr (h : Hdr) (ty : Ty) (sd sa : BitVec 6) (b : SSrc)
  | ssra (h : Hdr) (ty : Ty) (sd sa : BitVec 6) (b : SSrc)
  | smax (h : Hdr) (ty : Ty) (sd sa : BitVec 6) (b : SSrc)
  | smin (h : Hdr) (ty : Ty) (sd sa : BitVec 6) (b : SSrc)
  | scmp (h : Hdr) (ty : Ty) (c : Cond) (sd sa : BitVec 6) (b : SSrc)
  | ssel (h : Hdr) (ty : Ty) (sd sa sb sc : BitVec 6)
  | smul (h : Hdr) (ty : Ty) (sd sa : BitVec 6) (b : SSrc)
  | smulh (h : Hdr) (ty : Ty) (sd sa : BitVec 6) (b : SSrc)
  | sdiv (h : Hdr) (ty : Ty) (sd sa : BitVec 6) (b : SSrc)
  | smov (h : Hdr) (f : SMovForm)
  | smovi (h : Hdr) (sd : BitVec 6) (imm : BitVec 20)
  | shi (h : Hdr) (sd sa : BitVec 6) (imm : BitVec 16) (q : BitVec 2)
  | slea (h : Hdr) (sd sa : BitVec 6) (b : SSrc) (sc : BitVec 4)
  | sclz (h : Hdr) (sd sa : BitVec 6)
  | spopc (h : Hdr) (sd sa : BitVec 6)
  -- semaphores, Siphon
  | semwait (h : Hdr) (op : SemCmp) (sa sv : BitVec 6)
  | semwaitRecheck (k : Nat)
  | semsig (h : Hdr) (op : SemOp) (sa sv : BitVec 6)
  | siph (h : Hdr) (st : BitVec 6) (vi : VOp) (sb sp : BitVec 6) (dst src : Space)
  | siphonGatherDone (core slot idx : Nat)
  -- scalar memory, special registers
  | sld (h : Hdr) (ty : Ty) (m : MemF) (sd : BitVec 6) (off : BitVec 16)
  | sst (h : Hdr) (ty : Ty) (m : MemF) (sv : BitVec 6) (off : BitVec 16)
  | srd (h : Hdr) (dst : SrdDst) (spr : Spr)
  | swr (h : Hdr) (sa : BitVec 6) (spr : Spr)
  | svst (h : Hdr) (sp : Space) (sc : Scope) (sb : BitVec 6) (what : BitVec 7) (off : BitVec 16)
  | tblld (h : Hdr) (sp : Space) (sb : BitVec 6) (off : BitVec 16)
  | tblldSwitch (core : Nat)
  | tfence (h : Hdr)
  | trap (h : Hdr) (imm : BitVec 20)
  | tret (h : Hdr)
  -- vector words
  | vabs (h : Hdr) (ty : Ty) (vd va : VOp) (rm : RMode)
  | vneg (h : Hdr) (ty : Ty) (vd va : VOp) (rm : RMode)
  | vmov (h : Hdr) (vd va : VOp) (rm : RMode)
  | vbcast (h : Hdr) (vd : VOp) (sa : BitVec 6) (rm : RMode)
  | vact (h : Hdr) (mode : Act) (vd va : VOp) (rm : RMode)
  | vgate (h : Hdr) (mode : Act) (vd vx vy : VOp) (rm : RMode)
  | vadd (h : Hdr) (ty : Ty) (vd va vb : VOp) (rm : RMode)
  | vsub (h : Hdr) (ty : Ty) (vd va vb : VOp) (rm : RMode)
  | vmul (h : Hdr) (ty : Ty) (vd va vb : VOp) (rm : RMode)
  | vmax (h : Hdr) (ty : Ty) (vd va vb : VOp) (rm : RMode)
  | vmin (h : Hdr) (ty : Ty) (vd va vb : VOp) (rm : RMode)
  | vand (h : Hdr) (vd va vb : VOp) (rm : RMode)
  | vor (h : Hdr) (vd va vb : VOp) (rm : RMode)
  | vxor (h : Hdr) (vd va vb : VOp) (rm : RMode)
  | vshl (h : Hdr) (vd va vb : VOp) (rm : RMode)
  | vshr (h : Hdr) (vd va vb : VOp) (rm : RMode)
  | vsra (h : Hdr) (vd va vb : VOp) (rm : RMode)
  | vcmp (h : Hdr) (c : Cond) (ty : Ty) (pd : BitVec 4) (va vb : VOp) (rm : RMode)
  | vcvt (h : Hdr) (vd : VOp) (f : CvtForm) (rm : RMode)
  | vexpE (h : Hdr) (vd va : VOp) (rm : RMode)
  | vexp2 (h : Hdr) (vd va : VOp) (rm : RMode)
  | vlog (h : Hdr) (vd va : VOp) (rm : RMode)
  | vrcp (h : Hdr) (vd va : VOp) (rm : RMode)
  | vrsq (h : Hdr) (vd va : VOp) (rm : RMode)
  | vsqrt (h : Hdr) (vd va : VOp) (rm : RMode)
  | vfma (h : Hdr) (ty : Ty) (vd va vb vc : VOp) (rm : RMode)
  | vsel (h : Hdr) (vd va vb : VOp) (pc : BitVec 4) (rm : RMode)
  | vld (h : Hdr) (ty : Ty) (m : MemF) (vd : VOp) (off : BitVec 16)
  | vst (h : Hdr) (ty : Ty) (m : MemF) (vr : VOp) (rm : RMode) (off : BitVec 16)
  | vgth (h : Hdr) (ty : Ty) (m : MemF) (vd vi : VOp) (off : BitVec 8)
  | vsct (h : Hdr) (ty : Ty) (m : MemF) (vr vi : VOp) (off : BitVec 8)
  | vldt (h : Hdr) (ty : Ty) (vd : VOp) (sk so : BitVec 6)
  | vstt (h : Hdr) (ty : Ty) (vr : VOp) (sk so : BitVec 6)
  | vlut (h : Hdr) (ty : Ty) (vd va : VOp) (rm : RMode)
  | vmoms (h : Hdr) (sd : BitVec 6) (va : VOp) (pm : BitVec 4) (sk : BitVec 6) (rm : RMode)
  | vpkn (h : Hdr) (ty : Ty) (vd va vs : VOp) (rm : RMode)
  | vupn (h : Hdr) (ty : Ty) (vd va vs : VOp) (rm : RMode)
  | vshfl (h : Hdr) (vd va vi : VOp) (sk : BitVec 6) (rm : RMode)
  | vvote (h : Hdr) (sd : BitVec 6) (pa : BitVec 4) (sk : BitVec 6) (rm : RMode)
  | vrank (h : Hdr) (vd : VOp) (sa sk : BitVec 6) (rm : RMode)
  | vred (h : Hdr) (op : RedOp) (ty : Ty) (sd : BitVec 6) (va : VOp) (sk : BitVec 6) (rm : RMode)
  | vscan (h : Hdr) (op : RedOp) (ty : Ty) (vd va : VOp) (sk : BitVec 6) (rm : RMode)
  | vrng (h : Hdr) (ty : Ty) (w : BitVec 2) (vd : VOp) (sc : BitVec 6) (rm : RMode)
  | vsmax (h : Hdr) (sd : BitVec 6) (va : VOp) (pm : BitVec 4) (sk : BitVec 6) (rm : RMode)
  | vsexp (h : Hdr) (vd va : VOp) (ss sm sk : BitVec 6) (pm : BitVec 4)
  | vsdiv (h : Hdr) (vd va : VOp) (ss : BitVec 6) (pm : BitVec 4) (rm : RMode)
  -- waits and lane code
  | wait (h : Hdr) (ld st cp sg mx : BitVec 8)
  | waitp (h : Hdr) (path : Path) (sk : BitVec 6)
  | xclr (h : Hdr) (what : BitVec 2)
  | xlfs (h : Hdr) (vd : VOp)
  | xlsp (h : Hdr) (vd : VOp)
  | xv (h : Hdr) (vd vw : VOp) (f : Feeds)
  | xvn (h : Hdr) (n : BitVec 4) (vd vw : VOp) (f : Feeds)
  | yield (h : Hdr)
  -- events of the device
  | runFetch (core slot cand : Nat)
  | runStart (core port : Nat)
  | spillFillReturn (core slot slice : Nat)
  | linkageReturn (core slot : Nat)
  | loadReturn (core slot idx : Nat) (sectors : List Nat)
  | storePerformed (core slot idx piece : Nat)
  | accessResolve (core slot idx : Nat)
  | scaleReadReturn (core ctx idx : Nat)
  | groupLoadDone (core slot : Nat)
  | groupFree (core slot : Nat)
  | teamEnd (team : Nat)
  | launchComplete (lid : Nat)
  | dispatchBatch (lid : Nat)
  | teamPlace (q : Nat)
  | clusterPlace (q : Nat)
  | powerWake (pc : Nat)
  | activityEstimate (pc : Nat) (counts : List Nat)
  | arbiterInterval (q : Nat) (sensed : List Nat)
  | preemptRequest (part d : Nat)
  | preemptWithdraw (part : Nat)
  | drainDeadline (cl : Nat)
  | windowExpiry (cl : Nat)
  | clusterParked (cl : Nat)
  | teamSave (team : Nat)
  | teamDiscard (team : Nat)
  | sumpResume (team : Nat)
  | sumpKill (team : Nat)
  | streamStart (k : Nat) (v : Word)
  | partitionReset (part : Nat)
  | partitionResetDone (part : Nat)
  | xlinv (v : Word)
  | tseed (v : Word)
  | timeLock (tai : Word)
  | acttime (link : Nat) (v : Word)
  | slotTableSwitch (link : Nat)
  | linkDownTimeout (link : Nat)
  | errorLogClear (n : Nat)
  | rewriterStart (v : Word)
  | rewriterDone
  | coldStart (sigOk : Bool) (stepping : BitVec 8)
  | warmStart (sigOk : Bool)
  | registerWrite (addr n : Nat) (v : Word)
  | scFenceGrant (core slot : Nat)
  | l1DirtyWriteback (core line : Nat) (evict : Bool)
  | runBufferEviction (core : Nat) (start : Addr)
  | peerAccess (t : PeerTarget) (op : PeerOp)
  | unassignedEncoding (w : Word)
  | linkDown (link : Nat)
  | linkUp (link : Nat)
  | linkFlitResend (link : Nat)
  | slotBoundary (link : Nat)
  | ieee1588EventMessage (slew : Int)
  | timeLockLoss
  | softError (u : Upset) (corrected : Bool)
  | tenantCreate (t : BitVec 32)
  | tenantTeardown (t : BitVec 32)
  | firmwareResourceAssign (part : Nat) (a : Assignment)
  | attestationQuote (nonce : List Byte)
  deriving DecidableEq, Repr, Inhabited

end Sys2Proof
end

