-- ==== Sys2Proof/WellFormed.lean ====
section
/-! DEFINITION. Which terms of the syntax are instructions of the machine: the types, codes and operand kinds the reference
lists for each word, and the ranges of what an event names. A word outside them is an encoding that raises UNDEF (R313). -/

namespace Sys2Proof

/-- A vector operand field that names a run temporary t0 to t7 (R297). -/
def VOp.isTemp (v : VOp) : Bool := v.idx == 3 && v.base.extractLsb' 3 5 == 31

/-- A field of a position that allows no temporary (R297). -/
def VOp.noTemp (v : VOp) : Bool := !v.isTemp

/-- The k of a plane-integer type (R306), 0 for the others. -/
def Ty.pik : Ty → Nat
  | .pi2 => 2 | .pi3 => 3 | .pi4 => 4 | .pi5 => 5 | .pi6 => 6 | .pi7 => 7 | .pi8 => 8
  | .none | .f32 | .b16 | .h16 | .s32 | .z32 | .s64 | .z64 | .b32 => 0

/-- The types of major 0x18 and 0x19 (R393, R397). -/
def Ty.isScalarInt (t : Ty) : Bool := t == .s64 || t == .z64 || t == .s32 || t == .z32

/-- The types of major 0x01 (R422). -/
def Ty.isVecArith (t : Ty) : Bool := t == .f32 || t == .b16 || t == .s32 || t == .z32

/-- The types of VCMP (R424). -/
def Ty.isVecCmp (t : Ty) : Bool := t == .f32 || t == .s32 || t == .z32

/-- The 16-bit floating types that VLD and VST move (R322) and MMA takes. -/
def Ty.isHalf (t : Ty) : Bool := t == .b16 || t == .h16

/-- The 4-byte lane types of the vector memory words (R428). -/
def Ty.isLane32 (t : Ty) : Bool := t == .f32 || t == .s32 || t == .z32 || t == .b32

/-- The types of SLD and SST (R401, R408). -/
def Ty.isScalarMem (t : Ty) : Bool :=
  t == .pi8 || t.isHalf || t.isLane32 || t == .s64 || t == .z64

/-- The types of VRED and VSCAN for each operation (R441). -/
def RedOp.takes : RedOp → Ty → Bool
  | .add, t | .max, t | .min, t => t == .f32 || t == .s32 || t == .z32
  | .and, t | .or, t | .xor, t => t == .s32 || t == .z32 || t == .b32

/-- The integer types of an atomic form: 64-bit ones in the scalar form only (R334). -/
def AtomF.intTy (a : AtomF) : Bool :=
  match a.opnd with
  | .scal _ _ => a.ty == .s32 || a.ty == .z32 || a.ty == .s64 || a.ty == .z64
  | .vec _ _ => a.ty == .s32 || a.ty == .z32

/-- Atomics act on G, S and K (R129). -/
def AtomF.base (a : AtomF) : Bool := a.space == .g || a.space == .s || a.space == .k

/-- ACAS reads two registers: no temporary and no s63 as the first (R336). -/
def AtomF.pairOk (a : AtomF) : Bool :=
  match a.opnd with
  | .scal sv _ => sv != 63
  | .vec vv _ => vv.noTemp

/-- Spaces G, C and S (R203, R329, R414). -/
def Space.isGCS (x : Space) : Bool := x == .g || x == .c || x == .s

/-- Orders of a load (R167). -/
def Order.isLoad (o : Order) : Bool := o == .rlx || o == .acq || o == .sc

/-- Orders of a store (R167). -/
def Order.isStore (o : Order) : Bool := o == .rlx || o == .rel || o == .sc

/-- The VCVT pairs of R425. -/
def CvtForm.wf : CvtForm → Bool
  | .narrow dt _ _ => dt.isHalf
  | .widen st _ _ => st.isHalf
  | .cross st dt _ => st.isHalf && dt.isHalf && st != dt
  | .toInt dt _ => dt == .s32 || dt == .z32
  | .fromInt st _ => st == .s32 || st == .z32

/-- The MMA types (R374) and their sparse ones. -/
def Ty.isSparse (t : Ty) : Bool := t.isHalf || t.pik != 0

def Spr.wf : Spr → Bool
  | .teamid c => c != 3
  | _ => true

/-- LOOP's limits (R364, R365): MAX at least 1, END at least 2 words forward. -/
def loopWf (max : BitVec 16) (e : BitVec 15) : Bool := max != 0 && (2 : Int) ≤ e.toInt

/-- Whether a number pair names an address queue: a core with a slot, or 384 (the Wellhead) with a stream (R273). -/
def isQueue (c k : Nat) : Bool := (c < 384 && k < 64) || (c == 384 && k < 128)

/-- Whether a term is an instruction or event of the machine. -/
def Instr.wf : Instr → Bool
  | .aadd _ a => a.base && (a.intTy || a.ty == .f32)
  | .aand _ a | .aor _ a | .axor _ a => a.base && (a.intTy || a.ty == .b32)
  | .amax _ a | .amin _ a => a.base && a.intTy
  | .axch _ a => a.base && (a.intTy || a.ty == .b32 || a.ty == .f32)
  | .acas _ a => a.base && (a.intTy || a.ty == .b32 || a.ty == .f32) && a.pairOk
  | .bar _ _ | .bara _ _ _ | .barw _ _ _ | .cbar _ _ => true
  | .barrierComplete _ b cl => if cl then b < 4 else b < 16
  | .bra _ _ _ | .brx _ _ _ | .brk _ | .call _ _ | .callx _ _ | .end_ _ => true
  | .fence _ o _ => o != .rlx
  | .ftinit _ _ _ _ => true
  | .ftupd _ _ v | .ftdnd _ _ v | .ftsolv _ _ v _ | .ftldet _ _ v => v.noTemp
  | .ftld _ _ sp _ _ _ | .ftst _ _ sp _ _ => sp.isGCS
  | .icinv _ | .launch _ _ _ | .launchat _ _ _ _ | .timedLaunchRelease _ | .lexit _ _ => true
  | .loopC _ _ _ m e | .loopW _ _ _ m e => loopWf m e
  | .mcomp _ t vd vm vs => t.isSparse && vd.noTemp && vm.noTemp && vs.noTemp
  | .merge _ _ | .mfence _ _ | .mfree _ => true
  | .mlda _ _ sp _ _ | .msta _ _ sp _ _ => sp.isGCS
  | .mlease _ _ _ _ => true
  | .mma _ t _ va vb fb => (t == .f32 || t.isSparse) && va.noTemp && vb.noTemp && fb.toNat ≤ 60
  | .mmas _ t _ va vm vb fb => t.isSparse && va.noTemp && vm.noTemp && vb.noTemp && fb.toNat ≤ 60
  | .mmova _ _ v _ _ => v.noTemp
  | .mwait _ _ | .mzero _ _ => true
  | .engineOpRun c => c < 384
  | .engineMemoryReturn c x | .batchCommit c x => c < 384 && x < 4
  | .nop _ | .ovtld _ _ | .pcanc _ _ => true
  | .pcpy _ _ _ _ _ _ ss _ => ss != .w
  | .pfill _ _ _ _ _ _ _ => true
  | .pumpPieceDone c k _ _ => c < 384 && k < 64
  | .pstat _ _ _ | .regang _ _ | .ret _ => true
  | .rsst _ sp _ _ w _ | .svst _ sp _ _ w _ => sp.isGCS && w != 0
  | .runend _ es => es.length ≤ 4
  | .sadd _ t _ _ _ | .ssub _ t _ _ _ | .sand _ t _ _ _ | .sor _ t _ _ _ | .sxor _ t _ _ _ | .sshl _ t _ _ _
  | .sshr _ t _ _ _ | .ssra _ t _ _ _ | .smax _ t _ _ _ | .smin _ t _ _ _ => t.isScalarInt
  | .scmp _ t c _ _ _ => t.isScalarInt && c != .un
  | .ssel _ t _ _ _ _ => t.isScalarInt
  | .smul _ t _ _ _ | .smulh _ t _ _ _ | .sdiv _ t _ _ _ => t.isScalarInt
  | .smov _ (.ss _ _) => true
  | .smov _ (.sx xd _) => xd != 0
  | .smov _ (.xs _ xa) => xa != 0
  | .smovi _ _ _ | .shi _ _ _ _ _ | .slea _ _ _ _ _ | .sclz _ _ _ | .spopc _ _ _ => true
  | .semwait _ _ _ _ | .semsig _ _ _ _ => true
  | .semwaitRecheck k => k < 128
  | .siph _ _ vi _ _ ds ss => vi.noTemp && (ds == .s || ds == .k) && (ss == .g || ss == .c)
  | .siphonGatherDone c k _ => c < 384 && k < 64
  | .sld _ t m _ _ => t.isScalarMem && m.order.isLoad
  | .sst _ t m _ _ => t.isScalarMem && m.order.isStore
  | .srd _ (.vec d) spr => spr == .laneid && d.noTemp
  | .srd _ (.scal _) spr => spr != .laneid && spr.wf
  | .swr _ _ spr => spr == .teamid 0 || (match spr with | .teamid _ => false | _ => true)
  | .tblld _ sp _ _ => sp.isGCS
  | .tblldSwitch c => c < 384
  | .tfence _ | .trap _ _ | .tret _ => true
  | .vabs _ t _ _ _ | .vneg _ t _ _ _ => t == .f32 || t == .b16
  | .vmov _ _ _ _ | .vbcast _ _ _ _ | .vact _ _ _ _ _ | .vgate _ _ _ _ _ _ => true
  | .vadd _ t _ _ _ _ | .vsub _ t _ _ _ _ | .vmul _ t _ _ _ _ | .vmax _ t _ _ _ _ | .vmin _ t _ _ _ _ => t.isVecArith
  | .vand _ _ _ _ _ | .vor _ _ _ _ _ | .vxor _ _ _ _ _ | .vshl _ _ _ _ _ | .vshr _ _ _ _ _ | .vsra _ _ _ _ _ => true
  | .vcmp _ c t _ _ _ _ => t.isVecCmp && (c != .un || t == .f32)
  | .vcvt _ _ f _ => f.wf
  | .vexpE _ _ _ _ | .vexp2 _ _ _ _ | .vlog _ _ _ _ | .vrcp _ _ _ _ | .vrsq _ _ _ _ | .vsqrt _ _ _ _ => true
  | .vfma _ t _ _ _ _ _ => t == .f32 || t == .b16
  | .vsel _ _ _ _ _ _ => true
  | .vld _ t m _ _ => (t.isHalf || t.isLane32) && m.order.isLoad
  | .vst _ t m _ rm _ => (t.isHalf || t.isLane32) && m.order.isStore && (rm == .rne || t.isHalf)
  | .vgth _ t m _ _ _ => t.isLane32 && m.order.isLoad
  | .vsct _ t m _ _ _ => t.isLane32 && m.order.isStore
  | .vldt _ t _ sk _ | .vstt _ t _ sk _ => t.isLane32 && sk != 0 && sk.toNat ≤ 61
  | .vlut _ t _ _ _ => t == .f32 || t == .z32
  | .vmoms _ _ _ _ _ _ => true
  | .vpkn _ t _ _ _ _ | .vupn _ t _ _ _ _ => t.pik != 0
  | .vshfl _ _ _ _ _ _ | .vvote _ _ _ _ _ | .vrank _ _ _ _ _ => true
  | .vred _ op t _ _ _ _ => op.takes t
  | .vscan _ op t _ _ _ _ => op.takes t
  | .vrng _ t _ _ _ _ => t == .f32 || t == .b32
  | .vsmax _ _ _ _ _ _ | .vsexp _ _ _ _ _ _ _ | .vsdiv _ _ _ _ _ _ => true
  | .wait _ _ _ _ _ _ | .waitp _ _ _ => true
  | .xclr _ w => w != 0
  | .xlfs _ v | .xlsp _ v => v.noTemp
  | .xv _ vd vw _ => vd.noTemp && vw.noTemp
  | .xvn _ _ vd vw _ => vd.noTemp && vw.noTemp
  | .yield _ => true
  | .runFetch c k sl => isQueue c k && sl < 8
  | .runStart c p => (c < 384 && p < 4) || (c == 384 && p < 128)
  | .spillFillReturn c k sl => isQueue c k && sl < 8
  | .groupLoadDone c k | .groupFree c k => c < 384 && k < 64
  | .linkageReturn c k | .scFenceGrant c k | .loadReturn c k _ _ | .storePerformed c k _ _ | .accessResolve c k _ => isQueue c k
  | .scaleReadReturn c x _ => c < 384 && x < 4
  | .teamEnd _ | .launchComplete _ | .dispatchBatch _ => true
  | .teamPlace q | .clusterPlace q | .arbiterInterval q _ => q < 4
  | .powerWake p | .activityEstimate p _ => p < 64
  | .preemptRequest p _ | .preemptWithdraw p | .partitionReset p | .partitionResetDone p => p < 32
  | .drainDeadline _ | .windowExpiry _ | .clusterParked _ | .teamSave _ | .teamDiscard _ | .sumpResume _ | .sumpKill _ => true
  | .streamStart k _ => k < 128
  | .xlinv _ | .tseed _ | .timeLock _ => true
  | .acttime l _ | .slotTableSwitch l | .linkDownTimeout l | .linkDown l | .linkUp l | .linkFlitResend l | .slotBoundary l => l < 23
  | .errorLogClear n => n < 128
  | .rewriterStart _ | .rewriterDone | .coldStart _ _ | .warmStart _ => true
  | .registerWrite a n _ => a < 2 ^ 40 && (n == 1 || n == 2 || n == 4 || n == 8)
  | .l1DirtyWriteback c _ _ | .runBufferEviction c _ => c < 384
  | .peerAccess _ _ | .unassignedEncoding _ => true
  | .ieee1588EventMessage _ | .timeLockLoss | .softError _ _ => true
  | .tenantCreate _ | .tenantTeardown _ => true
  | .firmwareResourceAssign p _ => p < 32
  | .attestationQuote n => n.length == 32

end Sys2Proof
end

