-- ==== Sys2Proof/Machine/State.lean ====
section
/-! DEFINITION. The state of the device as plain data: memories, cores, group slots, launches, teams, partitions, streams,
links, power and time, with the state right after a cold start. A `Store` lists only entries that differ from the default. -/

namespace Sys2Proof.Machine

open Sys2Proof

/-- A sparse map from numbers to values: keys strictly rising, no entry equal to what an unlisted key reads as. -/
abbrev Store (α : Type) := List (Nat × α)

/-- Byte memory, a list of `Host.Cell`s in the canonical form of `Store`. -/
abbrev Memory := Store Byte

/-- A 32-bit element with its poison mark (R268). -/
structure Elt where
  bits : Lane := 0
  poison : Bool := false
  deriving DecidableEq, Repr, Inhabited

/-- A scalar register with the poison of its low and its high half (R268). -/
structure SReg where
  bits : Word := 0
  lo : Bool := false
  hi : Bool := false
  deriving DecidableEq, Repr, Inhabited

/-- Trap causes (R241). -/
inductive Cause where
  | undef | undefmaj | runbad | priv | regbound | fetch | pcwrap | loopmax | brkpt | swtrap
  | memxlate | memperm | spbound | valve | align | poison | detxatom | member | lanefault
  | arith | deflost | batcherr | preempt
  deriving DecidableEq, Repr, Inhabited

/-- How a team ended (R243), and that it retired. -/
inductive EndStatus where
  | retired | trap | double | tretbad | sumpbad | killed | ctlerr | sumpfull | sumpfault
  deriving DecidableEq, Repr, Inhabited

/-- A divergence entry (R55). -/
structure DivEntry where
  prior : BitVec 4
  phase : Bool
  join : Addr
  taken : BitVec 4
  target : Addr
  deriving DecidableEq, Repr, Inhabited

/-- An open loop (R66, R330). `counted` tells a LOOP.c; `limit` is its count, or the maximum of a LOOP.w. -/
structure LoopEntry where
  id : BitVec 6
  counted : Bool
  pk : BitVec 4
  start : Addr
  stop : Addr
  limit : Nat
  trips : Nat
  dormant : BitVec 4
  depth : Nat
  deriving DecidableEq, Repr, Inhabited

/-- A slice: counter, masks, stacks with the newest entry first, entries written to the spill area (R55 to R66). `moved` says
that the run being issued has already set the counter that follows the run. -/
structure Slice where
  pc : Addr := 0
  active : BitVec 4 := 0
  exited : BitVec 4 := 0
  div : List DivEntry := []
  divSpill : Nat := 0
  ret : List Addr := []
  retSpill : Nat := 0
  /-- The return address that a RET has read back from the spill area and that is on its way (R65, R390). -/
  retIn : Option Addr := none
  loops : List LoopEntry := []
  moved : Bool := false
  deriving DecidableEq, Repr, Inhabited

/-- A run held in a run buffer: its words without the trailer, the trailer's class and exports, the position of the next word,
and, after a TRET from LANEFAULT, the lanes to which that word is restricted (R38, R227, R308). -/
structure Run where
  start : Addr := 0
  words : List Word := []
  trailer : Word := 0
  pos : Nat := 0
  resume : Option Mask := none
  /-- The program-order numbers of its own words that write registers after they have issued (R311). -/
  own : List Nat := []
  /-- PASSES as they stood when it started (R38, R87). -/
  passes : Nat := 4
  deriving DecidableEq, Repr, Inhabited

/-- What holds a candidate (R33, R60, R70, R256). -/
inductive Hold where
  | none
  /-- Waiting for team barrier b after a BAR or at a BARW (R343); the scope of the acquire that follows. -/
  | barrier (b : Nat) (acq : Option Scope)
  /-- Waiting for cluster barrier b (R352). -/
  | cbar (b : Nat)
  /-- Held at a REGANG until the named slices arrive (R61). -/
  | regang (mask : BitVec 8)
  /-- Suspended at a word that needs every slice holding one of these lanes that has not exited (R60, R68, R197). -/
  | convergent (named : Mask)
  /-- Waiting for a stack fill to return (R57). -/
  | fill
  /-- Waiting at a CALLX for the entry it reads: its executing lanes, its place in program order, the address (R351). -/
  | linkage (lanes : Mask) (seq : Nat) (addr : Word)
  /-- Parked at a YIELD (R263). -/
  | parked
  /-- Its run is suspended after a deterministic switch point (R38). -/
  | suspended
  /-- Held at an MLEASE with DETMODE 1 (R49). -/
  | mlease
  /-- Waiting at a word until an entry leaves the Valve table of a core, named by its owner and its command (R242). -/
  | valve (core owner seq : Nat)
  deriving DecidableEq, Repr, Inhabited

/-- A candidate: a set of slices that share a program counter (R34, R58). -/
structure Cand where
  slices : BitVec 8 := 0
  run : Option Run := none
  /-- The run has started (R38). -/
  started : Bool := false
  /-- Reconvergence and loop-end tests of its run start are made (R56, R66). -/
  settled : Bool := false
  hold : Hold := .none
  /-- The stroke at which it last became ready (R39). -/
  readyAt : Option Nat := none
  /-- A deterministic switch has been taken at the word it stands at (R48). -/
  switched : Bool := false
  /-- A YIELD of its run takes effect at the run's end (R455). -/
  yielding : Bool := false
  /-- The fence half of the sc word in S at which it stands is complete (R135). -/
  fenced : Bool := false
  deriving DecidableEq, Repr, Inhabited

/-- The part of a group that the checkpoint journal restores (R250): registers, predicates, lane stacks, flags, slices and
the places of its candidates. `pend` lists the destinations that issued loads have still to write (R403, R429), `exports` the exported registers that may be
pending, by the number of the access or operation that writes them (R311). -/
structure Arch where
  vregs : Store Elt := []
  temps : Store Elt := []
  sregs : Store SReg := []
  xregs : Store (BitVec 8) := []
  preds : Store Mask := []
  stk : Store Elt := []
  sps : Store (BitVec 4) := []
  lfs : Store (BitVec 8) := []
  flags : BitVec 10 := 0
  retired : Word := 0
  slices : Store Slice := []
  cands : List Cand := []
  pend : List (Nat × Nat) := []
  exports : List (Nat × Nat) := []
  ticket : Nat := 1
  ringIdx : Nat := 0
  deriving DecidableEq, Repr, Inhabited

/-- The read-modify-write of an atomic (R334). -/
inductive AtomicOp where
  | add | and | or | xor | max | min | xch | cas
  deriving DecidableEq, Repr, Inhabited

/-- What an access in the address queue does. -/
inductive AccKind where
  | load | store | atomic (op : AtomicOp)
  /-- A FENCE, or the fence half of an sc access (R170, R355). -/
  | fence
  /-- A TBLLD (R414). -/
  | tblld
  deriving DecidableEq, Repr, Inhabited

/-- Where loaded data goes. -/
inductive Dst where
  | none
  | scal (r : Nat)
  | vec (r : Nat)
  | temp (t : Nat)
  | table
  /-- The scale values of an MMA or MMAS (R108). -/
  | scale
  deriving DecidableEq, Repr, Inhabited

/-- One location of an access: the lane, the address in its space, the width, the place it resolved to, the data. -/
structure Piece where
  lane : Nat := 0
  addr : Word := 0
  n : Nat := 0
  place : Nat := 0
  nc : Bool := false
  val : Word := 0
  val2 : Word := 0
  poison : Bool := false
  done : Bool := false
  /-- A store at CLUSTER scope or wider that a narrower release has made visible in the L1, and that has still to reach home (R171). -/
  inL1 : Bool := false
  deriving DecidableEq, Repr, Inhabited

/-- An access of a group in its address queue, in issue order (R176, R250). `epc` is its word, `who` the slices it is ordered
with, `ckpt` the journaled state as it stood when the word began to issue. -/
structure Access where
  seq : Nat := 0
  /-- The program-order number at which its word began. -/
  word : Nat := 0
  epc : Addr := 0
  cand : Nat := 0
  who : BitVec 8 := 0
  kind : AccKind := .load
  ty : Ty := .none
  space : Space := .g
  order : Order := .rlx
  scope : Scope := .group
  privd : Bool := false
  save : Bool := false
  dst : Dst := .none
  pieces : List Piece := []
  resolved : Bool := false
  granted : Bool := false
  done : Bool := false
  /-- It uses a translation that an XLINV has removed (R150). -/
  stale : Bool := false
  /-- It is the release of an ICINV, which then discards the core's text (R360). -/
  icinv : Bool := false
  ckpt : Arch := {}
  deriving DecidableEq, Repr, Inhabited

/-- A report of an engine command or a batch, raised at a wait (R161, R206, R220, R449). -/
structure Report where
  path : Path := .cp
  cause : Cause := .memxlate
  ticket : Nat := 0
  space : Space := .g
  einfo : Word := 0
  /-- Program-order number of the command or of the batch's close. -/
  seq : Nat := 0
  /-- The operations of its path that were issued after it, by number (R151). -/
  younger : List Nat := []
  deriving DecidableEq, Repr, Inhabited

/-- State of a Pump command (R159). -/
inductive CmdState where
  | queued | running | done | cancelled | faulted
  deriving DecidableEq, Repr, Inhabited

/-- Kind of an engine command. -/
inductive CmdKind where
  | pcpy | pfill | siph
  deriving DecidableEq, Repr, Inhabited

/-- An entry of the ticket ring (R388). -/
structure RingEntry where
  state : CmdState := .queued
  ticket : Nat := 0
  done : Nat := 0
  seq : Nat := 0
  /-- A wait of the group has been satisfied with the command retired (R159). -/
  seen : Bool := false
  deriving DecidableEq, Repr, Inhabited

/-- A Valve entry (R154): bytes [lo, hi) of a space: virtual ones in G, of the partition's buffer in C, physical scratchpad ones in S. `owner` is the issuing core and slot, `seq` its
command. -/
structure ValveEntry where
  tenant : BitVec 32 := 0
  space : Space := .g
  lo : Nat := 0
  hi : Nat := 0
  write : Bool := false
  owner : Nat := 0
  seq : Nat := 0
  deriving DecidableEq, Repr, Inhabited

/-- A Pump command or a Siphon gather in flight (R158, R162). `left` lists the pieces (rows) still to run; `buf` holds the whole
source where source and destination overlap; `fail` is the failing byte so far (R385). -/
structure Cmd where
  seq : Nat := 0
  ticket : Nat := 0
  kind : CmdKind := .pcpy
  dsp : Space := .g
  ssp : Space := .g
  scope : Scope := .dev
  dst : Word := 0
  src : Word := 0
  len : Nat := 0
  pat : Lane := 0
  pitch : Nat := 0
  rows : List (Nat × Word) := []
  privd : Bool := false
  left : List Nat := []
  written : Nat := 0
  cancel : Bool := false
  buf : Option (List Elt) := none
  fail : Option (Nat × Bool × Cause × Word) := none
  state : CmdState := .queued
  /-- Its place in the ticket ring and what stood there before it. -/
  ringAt : Nat := 0
  before : RingEntry := {}
  /-- The entries, with their cores, that it had in the Valve tables, once it has ended before an older command of cp (R386). -/
  past : List (Nat × ValveEntry) := []
  deriving DecidableEq, Repr, Inhabited

/-- Handler mode (R244, R245, R227): privilege, the candidate in it, the shadow, depths and EPC at entry. -/
structure Handler where
  privd : Bool := false
  cand : Nat := 0
  slices : BitVec 8 := 0
  cause : Cause := .undef
  epc : Word := 0
  run : Option Run := none
  /-- The interrupted run had started: PREEMPT is taken at a run start (R265). -/
  started : Bool := false
  shadow : Store Elt := []
  depths : List (Nat × Nat × Nat) := []
  execs : Mask := 0
  /-- The interrupted candidate had switched at its word, and had a YIELD in its run (R48, R455). -/
  switched : Bool := false
  yielding : Bool := false
  deriving DecidableEq, Repr, Inhabited

/-- States of a group slot (R33); READY, ISSUING and BLOCKED are told apart by its candidates, SAVING by its team's state. -/
inductive GroupState where
  | free | loading | resident | done
  deriving DecidableEq, Repr, Inhabited

/-- A group slot (R32, R256). -/
structure Group where
  st : GroupState := .free
  team : Nat := 0
  index : Nat := 0
  allot : Nat := 0
  /-- The physical blocks of eight registers that hold its vector registers, in order (R28, R130). -/
  blocks : List Nat := []
  arch : Arch := {}
  trapen : BitVec 18 := 0
  ovt : BitVec 6 := 0x05
  seed : Word := 0
  epc : Word := 0
  ecause : Word := 0
  einfo : Word := 0
  handler : Option Handler := none
  /-- The program-order number that its next access, command or engine operation takes; 0 stands for none. -/
  seq : Nat := 1
  aq : List Access := []
  cmds : List Cmd := []
  reports : List Report := []
  ring : Store RingEntry := []
  lease : Option Nat := none
  /-- Cluster barriers at which the group has arrived, bit b (R352). -/
  cbars : BitVec 4 := 0
  /-- Records the address of the word at which its last lane exited (R35). -/
  endPc : Addr := 0
  deriving DecidableEq, Repr, Inhabited

/-- Mode of an accumulator tile (R211, R212). -/
inductive TileMode where
  | matrix
  | factor (n : Nat)
  | lost (n col kind : Nat)
  deriving DecidableEq, Repr, Inhabited

/-- An accumulator tile: element (m, n) at key 32m + n (R194). -/
structure Tile where
  mode : TileMode := .matrix
  elts : Store Elt := []
  deriving DecidableEq, Repr, Inhabited

/-- Element formats of matrix operands (R109). -/
inductive Fmt where
  | f32 | b16 | h16 | pi (k : Nat)
  deriving DecidableEq, Repr, Inhabited

/-- Where the scales of an operand lie (R108, R109): base address, element offset of its first element, log2 of its pitch, shift. -/
structure ScaleAt where
  base : Word
  org : Nat
  pitch : Nat
  shift : Nat
  deriving DecidableEq, Repr

/-- An operand fragment that an operation retains (R200): its raw elements, element (row, k) at row × K + k. `kept` tells the elements of
a sparse fragment that its metadata selects. -/
structure Frag where
  fmt : Fmt := .f32
  elts : List Lane := []
  kept : Option (List Bool) := none
  scale : Option ScaleAt := none
  deriving DecidableEq, Repr, Inhabited

/-- What an engine operation does (R200, R203, R214). Register operands are retained (R200). -/
inductive MOpKind where
  | mzero
  | mma (k : Nat) (a b : Frag) (ty : Ty) (sparse : Bool)
  | mlda (sp : Space) (addr : Word)
  | msta (sp : Space) (addr : Word)
  | toVec (base q : Nat)
  | fromVec (q : Nat) (rows : List Lane)
  | ftinit (n : Nat) (delta : Lane)
  | ftupd (neg : Bool) (w : List Lane)
  | ftsolv (base : Nat) (bwd : Bool) (v : List Lane)
  | ftldet (base : Nat)
  | ftld (n : Nat) (sp : Space) (addr : Word)
  | ftst (sp : Space) (addr : Word)
  deriving DecidableEq, Repr, Inhabited

/-- An operation in a context's queue (R194): its tile, the batch that closed it, how far it has come. -/
structure MOp where
  seq : Nat := 0
  acc : Nat := 0
  kind : MOpKind := .mzero
  /-- The batch's close, as a program-order number; none while the batch is open. -/
  batch : Option Nat := none
  places : List Nat := []
  /-- The number of its scale reads in the group's address queue, 0 for none; whether they have still to return; what they read, by
  address, with its poison (R108). -/
  scaleSeq : Nat := 0
  scaleWait : Bool := false
  scales : List (Nat × BitVec 16 × Bool) := []
  loaded : Option (List Elt) := none
  ran : Bool := false
  /-- It uses a translation that XLINV has removed since (R150). -/
  stale : Bool := false
  deriving DecidableEq, Repr, Inhabited

/-- A closed batch that has not committed or failed (R205). -/
structure Batch where
  num : BitVec 32 := 0
  close : Nat := 0
  deriving DecidableEq, Repr, Inhabited

/-- The results of the batch that is running, kept until it commits: tiles, lanes of registers, memory, flags, the first loss, operations
run, the attempt; attempt 4 stands for a batch that has failed (R204, R205). -/
structure Working where
  tiles : Store Tile := []
  regs : List (Nat × Nat × Nat × Elt) := []
  mem : List (Nat × Elt) := []
  flags : BitVec 5 := 0
  loss : Option Word := none
  count : Nat := 0
  attempt : Nat := 1
  deriving DecidableEq, Repr, Inhabited

/-- The partial batch of R458. -/
structure Partial where
  count : Nat := 0
  flags : BitVec 5 := 0
  loss : Option Word := none
  failed : Bool := false
  /-- The position of the operation whose check failed on the third attempt (R206). -/
  opidx : Nat := 0
  deriving DecidableEq, Repr, Inhabited

/-- A lease context (R194). -/
structure Ctx where
  holder : Option Nat := none
  freed : Bool := false
  reserved : Option Nat := none
  count : Nat := 0
  ntiles : Nat := 0
  last : BitVec 32 := 0
  tiles : Store Tile := []
  ops : List MOp := []
  batches : List Batch := []
  work : Working := {}
  /-- A batch of the lease has failed, so every later one fails (R205). -/
  failedOpen : Bool := false
  part : Partial := {}
  /-- The residue check of the operation that ran last has failed (R205). -/
  checkFail : Bool := false
  deriving DecidableEq, Repr, Inhabited

/-- A cached translation (R149): the partition, first virtual byte, size, and leaf entry. -/
structure TlbEntry where
  part : Nat := 0
  tenant : BitVec 32 := 0
  base : Nat := 0
  size : Nat := 0
  leaf : Word := 0
  deriving DecidableEq, Repr, Inhabited

/-- A byte of an L1 line: its value, and the slots of the core whose narrow stores to it have not reached home (R171). -/
structure L1Byte where
  val : Byte := 0
  dirty : BitVec 64 := 0
  deriving DecidableEq, Repr, Inhabited

/-- An execute window in force (R77, R231): class, strokes left, the lookup bank it holds. -/
structure Window where
  cls : Nat := 0
  wait : Nat := 0
  left : Nat := 0
  bank : Option Bool := none
  /-- The port that issued the word. -/
  port : Nat := 0
  deriving DecidableEq, Repr, Inhabited

/-- An issue port (R37, R38): class of the run it last issued, strokes it is still held, the class of the word that takes them as
strokes of issue (R91), the slot and lowest slice of the candidate in the middle of a run, the PASSES value of that run. -/
structure Port where
  cls : BitVec 2 := 0
  busy : Nat := 0
  word : Option Nat := none
  /-- The pass of that word whose residue check has failed, and how often (R272). -/
  misses : Nat × Nat := (0, 0)
  /-- The activity events that the word counts, with their numbers, once its last pass has issued (R91). -/
  work : List (Nat × Nat) := []
  /-- The executing lanes of the word (R272). -/
  lanes : Mask := 0
  /-- The lane-stack slots that the word has written, as 8 × lane + slot (R272). -/
  slots : List Nat := []
  cur : Option (Nat × Nat) := none
  passes : Nat := 4
  deriving DecidableEq, Repr, Inhabited

/-- A run's text held in a run or loop buffer of a core, its trailer included (R290, R360). After an ICINV only the slices of the
trips that were under way still use it: `keepers` lists them as 8 × slot + slice. -/
structure TextBuf where
  part : Nat := 0
  start : Addr := 0
  words : List Word := []
  keepers : Option (List Nat) := none
  deriving DecidableEq, Repr, Inhabited

/-- The lookup table of a core (R231): entry i of bank g at key 256g + i. -/
structure Lut where
  elts : Store Elt := []
  cur : Bool := false
  /-- TBLLDs in issue order: slot, program-order number, and the core's stroke count at the issue (R232). -/
  queue : List (Nat × Nat × Word) := []
  deriving DecidableEq, Repr, Inhabited

/-- A core (R2, R130). -/
structure Core where
  strokes : Word := 0
  elapsed : Word := 0
  windows : List Window := []
  ports : Store Port := []
  lut : Lut := {}
  stopAll : Bool := false
  valve : List ValveEntry := []
  l1 : List (Nat × L1Byte) := []
  tlb : List TlbEntry := []
  text : List TextBuf := []
  ctxs : Store Ctx := []
  engCur : Nat := 0
  engCount : Nat := 0
  /-- Operation strokes the engine still owes (R201), and their class. -/
  engBusy : Nat := 0
  engCls : Nat := 0
  /-- The activity event that counts those strokes (R91). -/
  engEvent : Option Nat := none
  /-- Activity of the current 128 strokes, by event, and their number; counts of earlier ones that no estimate has taken (R91). -/
  activity : Store Nat := []
  since : Nat := 0
  tally : Store Nat := []
  due : Bool := false
  /-- Logical index of the current group of a deterministic core (R47). -/
  current : Option Nat := none
  /-- That group has switched away and none could be made current yet (R48). -/
  idle : Bool := false
  /-- The vector registers that no resident group owns, as space W sees them (R130). -/
  wregs : Store Elt := []
  deriving DecidableEq, Repr, Inhabited

/-- A barrier: the groups that are no longer members, those that have arrived (R342), arrivals whose release half is pending. -/
structure Barrier where
  left : BitVec 32 := 0
  arrived : BitVec 32 := 0
  pending : List (Nat × Nat) := []
  deriving DecidableEq, Repr, Inhabited

/-- States of a team (R42). -/
inductive TeamState where
  | pending | queued | placing | resident | saving | saved | discarding | discarded | ended
  deriving DecidableEq, Repr, Inhabited

/-- A team (R42, R255). -/
structure Team where
  launch : Nat := 0
  cluster : Nat := 0
  rank : Nat := 0
  x : Nat := 0
  y : Nat := 0
  z : Nat := 0
  seq : Option Word := none
  st : TeamState := .pending
  core : Nat := 0
  spGranule : Nat := 0
  priv : Option Nat := none
  slots : List Nat := []
  barriers : Store Barrier := []
  /-- The last TBLLD of the team: its space, address, and whether it ran privileged (R233). -/
  tblld : Option (Space × Word × Bool) := none
  used : Nat := 0
  /-- Sump record address while saving or saved (R254), its KIND, and the fault fields. -/
  record : Option Word := none
  kind : Nat := 0
  fault : Option (Nat × Word × Word × Word) := none
  /-- Logical index of the current group kept across a save (R50). -/
  current : Option Nat := none
  idle : Bool := false
  requeued : Bool := false
  /-- Whether the Wellhead has still to write RESUME to the record (R257). -/
  resumeDue : Bool := false
  ending : Option (EndStatus × Word × Word × Word) := none
  status : EndStatus := .retired
  replay : Bool := false
  /-- What the hardware keeps of each saved group beside its record, and its lease (R254, R256). -/
  saved : List (Group × Option Ctx) := []
  /-- The 8-byte units of its saved scratchpad allocation that were poisoned, by number (R270). -/
  spPoison : List Nat := []
  /-- The groups whose slots have become FREE, as they left them, by index, for a later save (R327). -/
  gone : List (Nat × Group) := []
  /-- The nanosecond at which its power cluster has woken, while it waits for that (R93). -/
  wakeUntil : Option Nat := none
  deriving DecidableEq, Repr, Inhabited

/-- A work cluster, or a team outside any cluster as a cluster of one (R22, R259). -/
structure Cluster where
  launch : Nat := 0
  teams : List Nat := []
  cw : Nat := 1
  ch : Nat := 1
  bound : Bool := false
  barriers : Store Barrier := []
  decision : Option Nat := none
  deadline : Nat := 0
  pdeadline : BitVec 32 := 0
  request : Nat := 0
  yielded : Bool := false
  kind : Nat := 0
  deriving DecidableEq, Repr, Inhabited

/-- The fields of a launch record (R277). -/
structure LaunchRec where
  entry : Addr := 0
  args : Word := 0
  tbase : Addr := 0
  gx : Nat := 1
  gy : Nat := 1
  gz : Nat := 1
  spGranules : Nat := 0
  allot : Nat := 8
  threads : Nat := 1
  cw : Nat := 0
  ch : Nat := 0
  prio : Nat := 0
  det : Bool := false
  restart : Bool := false
  shareDraw : Bool := false
  hpriv : Bool := false
  ovt : BitVec 6 := 0x05
  trapen : BitVec 18 := 0
  cBase : Nat := 0
  cSize : Nat := 0
  pbase : Word := 0
  privs : Nat := 1
  budget : Word := 0
  seed : Word := 0
  drawBase : Nat := 0
  drawLen : Nat := 0
  record : Word := 0
  sema : Word := 0
  deriving DecidableEq, Repr, Inhabited

/-- A launch (R276 to R280): teams handed out so far, teams not yet ended, first end status. -/
structure Launch where
  part : Nat := 0
  info : LaunchRec := {}
  seq : BitVec 48 := 0
  time : Word := 0
  timed : Bool := false
  held : Bool := false
  next : Nat := 0
  live : Nat := 0
  first : Option (EndStatus × Word × Word × Word) := none
  complete : Bool := false
  deriving DecidableEq, Repr, Inhabited

/-- A local partition (R284, R285). -/
structure Partition where
  ident : BitVec 32 := 0
  tenant : BitVec 32 := 0
  cores : List Nat := []
  channels : List Nat := []
  cacheSlices : List Nat := []
  bufSlices : List Nat := []
  pumps : BitVec 32 := 0
  aqPorts : List Nat := []
  dests : List Nat := []
  peers : List (Nat × Nat) := []
  nextSeq : Word := 0
  nextLaunch : BitVec 48 := 0
  requests : List (Nat × List Nat) := []
  prqCores : BitVec 384 := 0
  resetting : Bool := false
  sumpBase : Word := 0
  sumpSize : Word := 0
  sumpLog : Word := 0
  sumpHead : BitVec 9 := 0
  sumpUsed : List (Nat × Nat) := []
  timedCores : BitVec 384 := 0
  xlroot : Word := 0
  draws : List (Nat × Nat × Nat × Bool) := []
  deriving DecidableEq, Repr, Inhabited

/-- What holds a stream (R278, R281, R283). -/
inductive StreamHold where
  | none
  | sem (op : SemCmp) (addr v : Word)
  /-- At a LAUNCH or LAUNCHAT: the record it read, the time it names, its status register (R278, R283). -/
  | launch (info : LaunchRec) (time : Option Word) (sd : BitVec 6)
  deriving DecidableEq, Repr, Inhabited

/-- A stream slot (R273, R274). -/
structure Stream where
  start : Word := 0
  state : BitVec 2 := 0
  part : Option Nat := none
  cause : BitVec 8 := 0
  hold : StreamHold := .none
  grp : Group := {}
  deriving DecidableEq, Repr, Inhabited

/-- A link (R287, R288). Tables list entries that differ from 0xFFFF. -/
structure Link where
  table : Store (BitVec 16) := []
  shadow : Store (BitVec 16) := []
  offset : BitVec 16 := 0
  offsetNext : Option (BitVec 16) := none
  acttime : Word := 0
  armed : Bool := false
  up : Bool := true
  /-- The nanosecond at which it went down. -/
  downSince : Option Nat := none
  /-- Down for 1 ms: accesses over it complete without data (R289). -/
  dead : Bool := false
  deriving DecidableEq, Repr, Inhabited

/-- A power cluster (R88, R91 to R94). -/
structure PowerCluster where
  passes : Nat := 4
  gated : Bool := false
  waking : Bool := false
  /-- Sum of Q over the current arbiter interval, in 2^-4 pC (R91). -/
  charge : Nat := 0
  /-- The interval that just ended exceeded its grant (R94). -/
  exceeded : Bool := false
  /-- A core of the cluster ran in the current interval (R93). -/
  ran : Bool := false
  /-- The weights that still count up to its next 128-stroke boundary, where PWT registers have been written since the last (R91). -/
  late : Option (Store (BitVec 16)) := none
  /-- The nanosecond at which it woke (R94). -/
  woke : Nat := 0
  deriving DecidableEq, Repr, Inhabited

/-- The power block (R89 to R94, R130). -/
structure Power where
  clusters : Store PowerCluster := []
  estimate : BitVec 4 := 0xF
  ovld : BitVec 4 := 0
  budget : Store (BitVec 16) := []
  weights : Store (BitVec 16) := []
  /-- Nanoseconds since the start, and the one at which the current arbiter interval of a domain began (R92). -/
  nanos : Nat := 0
  began : Store Nat := []
  deriving DecidableEq, Repr, Inhabited

/-- The device time base (R85, R286). -/
structure Time where
  wall : Word := 0
  lock : Bool := false
  set : Bool := false
  /-- Nanoseconds the time base has still to be slewed by. -/
  slew : Int := 0
  /-- Nanoseconds since the last one that a slew added or left out, up to 9,999. -/
  since : Nat := 0
  deriving DecidableEq, Repr, Inhabited

/-- Translation control (R130, R150). -/
structure Xlate where
  xlten : BitVec 32 := 0
  xlinv : Word := 0
  deriving DecidableEq, Repr, Inhabited

/-- The load-path rewriter (R291). -/
structure Rewriter where
  descr : Word := 0
  status : Nat := 1
  deriving DecidableEq, Repr, Inhabited

/-- What the fuses hold: fused-off units by number (R3, R4), the weights that PWT0 to PWT47 start with (R91). -/
structure Fuses where
  weights : Store (BitVec 16) := []
  noCores : List Nat := []
  noChannels : List Nat := []
  noPumps : List Nat := []
  noPorts : List Nat := []
  stepping : BitVec 8 := 0
  deriving DecidableEq, Repr, Inhabited

/-- An entry of a quadrant queue (R24, R25): the team, and its place among restored and discarded ones. -/
structure QEntry where
  team : Nat := 0
  prio : Nat := 0
  deriving DecidableEq, Repr, Inhabited

/-- An attestation quote: the measurement log, the partition configuration, the host's nonce, and the signature over them (R292). -/
structure Quote where
  log : List Nat := []
  config : List (Nat × Assignment) := []
  nonce : List Byte := []
  signature : Nat := 0
  deriving DecidableEq, Repr, Inhabited

/-- Counters of the model's own names for launches, teams and clusters, and the dispatcher's rotation (R24). -/
structure Names where
  launch : Nat := 0
  team : Nat := 0
  cluster : Nat := 0
  request : Nat := 0
  rotate : Nat := 0
  deriving DecidableEq, Repr, Inhabited

/-- Which agent's word issues: a candidate of a group by its lowest slice, or a stream. -/
inductive Agent where
  | group (core slot cand : Nat)
  | stream (k : Nat)
  deriving DecidableEq, Repr, Inhabited

/-- What happens next, as the timing and the outside world decide: a port or a stream issues its next word, an event of the
device takes place, a stroke of a core or a nanosecond of the time base passes, a core drops a cached translation (R149). -/
inductive Move where
  | issue (core port : Nat)
  | stream (k : Nat)
  | event (i : Instr)
  | stroke (core : Nat)
  | time
  | dropTranslation (core idx : Nat)
  deriving DecidableEq, Repr, Inhabited

/-- The device. `agenda`, `agent` and `fresh` are the model's own fields: the moves that come next, the agent whose word issues,
and the number of free values drawn. -/
structure State where
  mem : Memory := []
  poison : Store Bool := []
  cores : Store Core := []
  groups : Store Group := []
  parts : Store Partition := []
  launches : Store Launch := []
  teams : Store Team := []
  clusters : Store Cluster := []
  queues : Store (List QEntry) := []
  streams : Store Stream := []
  links : Store Link := []
  power : Power := {}
  time : Time := {}
  xlate : Xlate := {}
  rewriter : Rewriter := {}
  errors : Store Word := []
  tenants : List (BitVec 32) := []
  fuses : Fuses := {}
  measured : List Nat := []
  quotes : List Quote := []
  names : Names := {}
  agent : Agent := .group 0 0 0
  agenda : List Move := []
  fresh : Nat := 0
  deriving DecidableEq, Repr, Inhabited

/-- Why the machine stops with a fault. -/
inductive Fault where
  /-- Raised by a cold or a warm start whose firmware image fails its signature: the device halts (R292). Safe: no step follows. -/
  | firmwareHalt
  deriving DecidableEq, Repr

/-- Why an instruction has no meaning. -/
inductive Refusal where
  /-- Raised by the dispatch for an instruction the model does not give a meaning. Safe: nothing is claimed of it. -/
  | notModelled (mnemonic : String)
  deriving DecidableEq, Repr

/-- The device as a cold start of a full part leaves it: every field at its default above, which is the value the spec gives, or
the one the assumption log names where it gives none (logs 2 to 14). -/
def State.reset : State := {}

end Sys2Proof.Machine
end

