-- ==== Sys2Proof/Machine/Store.lean ====
section
/-! DEFINITION. Sparse maps, byte memory with its canonical form, and helpers on lists and bits. -/

namespace Sys2Proof.Machine

open Sys2Proof

/-- What key k holds; an unlisted key holds the default. -/
def Store.get {α : Type} [Inhabited α] (m : Store α) (k : Nat) : α :=
  match m with
  | [] => default
  | (j, v) :: r => if j = k then v else Store.get r k

/-- m with an entry v at key k, before the first greater key. -/
def Store.insert {α : Type} (m : Store α) (k : Nat) (v : α) : Store α :=
  match m with
  | [] => [(k, v)]
  | (j, w) :: r =>
    if k < j then (k, v) :: (j, w) :: r
    else if k = j then (k, v) :: r
    else (j, w) :: Store.insert r k v

/-- m with v at key k, in canonical form: the default takes no entry. -/
def Store.put {α : Type} [Inhabited α] [DecidableEq α] (m : Store α) (k : Nat) (v : α) : Store α :=
  if v = default then m.filter fun e => e.1 != k else Store.insert m k v

/-- m with several entries written in turn. -/
def Store.putAll {α : Type} [Inhabited α] [DecidableEq α] (m : Store α) (es : List (Nat × α)) : Store α :=
  es.foldl (fun acc e => Store.put acc e.1 e.2) m

/-- Whether the keys of a map rise strictly above b and no entry is the default. -/
def Store.wfFrom {α : Type} [Inhabited α] [DecidableEq α] (b : Nat) (m : Store α) : Bool :=
  match m with
  | [] => true
  | (j, v) :: r => decide (b ≤ j) && decide (v ≠ default) && Store.wfFrom (j + 1) r

/-- The canonical form of a sparse map. -/
def Store.wf {α : Type} [Inhabited α] [DecidableEq α] (m : Store α) : Bool := Store.wfFrom 0 m

/-- The canonical form of memory: addresses rise strictly, no byte equals what an unlisted address reads as. -/
def Memory.wf (m : Memory) : Bool := Store.wf m

/-- What an unlisted address of any memory reads as (log 2). -/
def Memory.unlisted : Byte := default

/-- The byte at an address. -/
def Memory.read (m : Memory) (a : Nat) : Byte := Store.get m a

/-- m with byte b at address a. -/
def Memory.write (m : Memory) (a : Nat) (b : Byte) : Memory := Store.put m a b

/-- The first entry of an association list under key k. -/
def assoc {α : Type} (l : List (Nat × α)) (k : Nat) : Option α :=
  match l with
  | [] => none
  | (j, v) :: r => if j = k then some v else assoc r k

/-- An association list with v under key k. -/
def assocPut {α : Type} (l : List (Nat × α)) (k : Nat) (v : α) : List (Nat × α) :=
  match l with
  | [] => [(k, v)]
  | (j, w) :: r => if k < j then (k, v) :: (j, w) :: r else if k = j then (k, v) :: r else (j, w) :: assocPut r k v

/-- An association list without key k. -/
def assocDel {α : Type} (l : List (Nat × α)) (k : Nat) : List (Nat × α) := l.filter fun e => e.1 != k

/-- The list with f applied to its element n. -/
def modNth {α : Type} (l : List α) (n : Nat) (f : α → α) : List α :=
  match l, n with
  | [], _ => []
  | a :: r, 0 => f a :: r
  | a :: r, n + 1 => a :: modNth r n f

/-- Byte i of a value, the lowest first (R6). -/
def byteOf {w : Nat} (v : BitVec w) (i : Nat) : Byte := v.extractLsb' (8 * i) 8

/-- The n low bytes of a value, the lowest first (R6). -/
def bytesOf {w : Nat} (v : BitVec w) (n : Nat) : List Byte := (List.range n).map (byteOf v)

/-- A value of w bits from its bytes, the lowest first (R6). -/
def ofBytes (w : Nat) (bs : List Byte) : BitVec w :=
  match bs with
  | [] => 0
  | b :: r => b.setWidth w ||| (ofBytes w r <<< 8)

/-- A bit as a Boolean. -/
def bit {w : Nat} (v : BitVec w) (i : Nat) : Bool := v.getLsbD i

/-- 2^n as a one-bit mask. -/
def onehot (w n : Nat) : BitVec w := BitVec.twoPow w n

/-- The numbers below n whose bit is set. -/
def bitsOf {w : Nat} (v : BitVec w) : List Nat := (List.range w).filter fun i => v.getLsbD i

/-- The mask of a list of numbers. -/
def maskOf (w : Nat) (l : List Nat) : BitVec w := l.foldl (fun m i => m ||| onehot w i) 0

/-- How many bits are set. -/
def popcount {w : Nat} (v : BitVec w) : Nat := (bitsOf v).length

/-- The smallest key of a non-empty list, by a measure. -/
def minBy {α : Type} (f : α → Nat) (l : List α) : Option α :=
  match l with
  | [] => none
  | a :: r =>
    match minBy f r with
    | none => some a
    | some b => if f b < f a then some b else some a

/-- Insertion by a key; equal keys keep their order. -/
def insertBy {α : Type} (f : α → Nat) (a : α) (l : List α) : List α :=
  match l with
  | [] => [a]
  | b :: r => if f a ≤ f b then a :: b :: r else b :: insertBy f a r

/-- A list sorted by a key. -/
def sortBy {α : Type} (f : α → Nat) (l : List α) : List α := l.foldr (insertBy f) []

/-- The largest of a list, 0 when it is empty. -/
def maxOf (l : List Nat) : Nat := l.foldl max 0

/-- The sum of a list. -/
def sumOf (l : List Nat) : Nat := l.foldl (· + ·) 0

/-- Division rounding up. -/
def ceilDiv (a b : Nat) : Nat := (a + b - 1) / b

end Sys2Proof.Machine
end

