-- ==== Sys2Proof/Machine/Access.lean ====
section
/-! DEFINITION. Where each piece of state is read and written: cores, group slots, the current agent, teams and launches, and the
layout of the one byte memory that holds HBM, Cistern buffers, scratchpads, host memory and peer pages. -/

namespace Sys2Proof.Machine

open Sys2Proof

/-! Cores and group slots. -/

def State.core (s : State) (n : Nat) : Core := Store.get s.cores n
def State.setCore (s : State) (n : Nat) (c : Core) : State := { s with cores := Store.put s.cores n c }
def State.modCore (s : State) (n : Nat) (f : Core → Core) : State := s.setCore n (f (s.core n))

/-- Group slot k of core n (R30). -/
def groupKey (n k : Nat) : Nat := 64 * n + k
def State.group (s : State) (n k : Nat) : Group := Store.get s.groups (groupKey n k)
def State.setGroup (s : State) (n k : Nat) (g : Group) : State := { s with groups := Store.put s.groups (groupKey n k) g }
def State.modGroup (s : State) (n k : Nat) (f : Group → Group) : State := s.setGroup n k (f (s.group n k))

def State.stream (s : State) (k : Nat) : Stream := Store.get s.streams k
def State.setStream (s : State) (k : Nat) (v : Stream) : State := { s with streams := Store.put s.streams k v }
def State.modStream (s : State) (k : Nat) (f : Stream → Stream) : State := s.setStream k (f (s.stream k))

def State.team (s : State) (t : Nat) : Team := Store.get s.teams t
def State.setTeam (s : State) (t : Nat) (v : Team) : State := { s with teams := Store.put s.teams t v }
def State.modTeam (s : State) (t : Nat) (f : Team → Team) : State := s.setTeam t (f (s.team t))

def State.cluster (s : State) (c : Nat) : Cluster := Store.get s.clusters c
def State.setCluster (s : State) (c : Nat) (v : Cluster) : State := { s with clusters := Store.put s.clusters c v }
def State.modCluster (s : State) (c : Nat) (f : Cluster → Cluster) : State := s.setCluster c (f (s.cluster c))

def State.launch (s : State) (l : Nat) : Launch := Store.get s.launches l
def State.setLaunch (s : State) (l : Nat) (v : Launch) : State := { s with launches := Store.put s.launches l v }
def State.modLaunch (s : State) (l : Nat) (f : Launch → Launch) : State := s.setLaunch l (f (s.launch l))

def State.part (s : State) (p : Nat) : Partition := Store.get s.parts p
def State.setPart (s : State) (p : Nat) (v : Partition) : State := { s with parts := Store.put s.parts p v }
def State.modPart (s : State) (p : Nat) (f : Partition → Partition) : State := s.setPart p (f (s.part p))

def State.link (s : State) (k : Nat) : Link := Store.get s.links k
def State.setLink (s : State) (k : Nat) (v : Link) : State := { s with links := Store.put s.links k v }
def State.modLink (s : State) (k : Nat) (f : Link → Link) : State := s.setLink k (f (s.link k))

/-- One more event of an error-log counter (R457). -/
def State.logError (s : State) (n : Nat) : State := { s with errors := Store.put s.errors n (Store.get s.errors n + 1) }

def Core.port (c : Core) (p : Nat) : Port := Store.get c.ports p
def Core.setPort (c : Core) (p : Nat) (v : Port) : Core := { c with ports := Store.put c.ports p v }
def Core.ctx (c : Core) (x : Nat) : Ctx := Store.get c.ctxs x
def Core.setCtx (c : Core) (x : Nat) (v : Ctx) : Core := { c with ctxs := Store.put c.ctxs x v }
def State.ctx (s : State) (n x : Nat) : Ctx := (s.core n).ctx x
def State.modCtx (s : State) (n x : Nat) (f : Ctx → Ctx) : State := s.modCore n fun c => c.setCtx x (f (c.ctx x))

/-- The next free value's number, and the state with it drawn (log 7). -/
def State.draw (s : State) : Nat × State := (s.fresh, { s with fresh := s.fresh + 1 })

/-! The agent whose word issues. -/

/-- The group record of the current agent. -/
def State.cur (s : State) : Group :=
  match s.agent with
  | .group c k _ => s.group c k
  | .stream k => (s.stream k).grp

def State.setCur (s : State) (g : Group) : State :=
  match s.agent with
  | .group c k _ => s.setGroup c k g
  | .stream k => s.modStream k fun v => { v with grp := g }

def State.modCur (s : State) (f : Group → Group) : State := s.setCur (f s.cur)
def State.modArch (s : State) (f : Arch → Arch) : State := s.modCur fun g => { g with arch := f g.arch }

/-- The core the current agent runs on; a stream runs on none (the Wellhead), for which core 384 stands. -/
def State.curCore (s : State) : Nat :=
  match s.agent with
  | .group c _ _ => c
  | .stream _ => 384

def State.curSlot (s : State) : Nat :=
  match s.agent with
  | .group _ k _ => k
  | .stream k => k

/-- The lowest slice of the current candidate. -/
def State.curLow (s : State) : Nat :=
  match s.agent with
  | .group _ _ l => l
  | .stream _ => 0

def State.inStream (s : State) : Bool :=
  match s.agent with
  | .group _ _ _ => false
  | .stream _ => true

def Group.curTeam (s : State) (g : Group) : Team := s.team g.team
def State.curTeam (s : State) : Team := s.team s.cur.team
def State.curLaunch (s : State) : Launch := s.launch s.curTeam.launch

/-- The local partition whose resources the current agent uses. -/
def State.curPart (s : State) : Nat :=
  match s.agent with
  | .group _ _ _ => s.curLaunch.part
  | .stream k => (s.stream k).part.getD 0

/-- Whether the current agent's launch is deterministic. -/
def State.det (s : State) : Bool := !s.inStream && s.curLaunch.info.det

/-- Whether the current agent runs in privileged mode (R244, R274). -/
def State.privd (s : State) : Bool :=
  match s.agent with
  | .group c k _ => ((s.group c k).handler.map (·.privd)).getD false
  | .stream _ => true

/-! Candidates and slices. -/

def Cand.has (c : Cand) (sl : Nat) : Bool := bit c.slices sl

/-- The lowest slice of a candidate. -/
def Cand.low (c : Cand) : Nat := (bitsOf c.slices).headD 0

/-- The candidate of a group that holds slice sl. -/
def Arch.cand (a : Arch) (sl : Nat) : Cand := (a.cands.find? fun c => c.has sl).getD default

def Arch.setCand (a : Arch) (sl : Nat) (f : Cand → Cand) : Arch :=
  { a with cands := a.cands.map fun c => if c.has sl then f c else c }

def State.curCand (s : State) : Cand := s.cur.arch.cand s.curLow
def State.modCand (s : State) (f : Cand → Cand) : State := s.modArch fun a => a.setCand s.curLow f

def Arch.slice (a : Arch) (sl : Nat) : Slice := Store.get a.slices sl
def Arch.setSlice (a : Arch) (sl : Nat) (v : Slice) : Arch := { a with slices := Store.put a.slices sl v }
def Arch.modSlice (a : Arch) (sl : Nat) (f : Slice → Slice) : Arch := a.setSlice sl (f (a.slice sl))

/-- The active lanes of a set of slices (R16). -/
def Arch.activeOf (a : Arch) (set : BitVec 8) : Mask :=
  (bitsOf set).foldl (fun m sl => m ||| ((a.slice sl).active.setWidth 32 <<< (4 * sl))) 0

/-- The lanes of a group that have exited. -/
def Arch.exitedMask (a : Arch) : Mask :=
  (List.range 8).foldl (fun m sl => m ||| ((a.slice sl).exited.setWidth 32 <<< (4 * sl))) 0

/-- The slices that have a lane not exited. -/
def Arch.liveSlices (a : Arch) : BitVec 8 := maskOf 8 ((List.range 8).filter fun sl => (a.slice sl).exited != 0xF)

/-- The four bits of slice sl in a lane mask. -/
def sliceBits (m : Mask) (sl : Nat) : BitVec 4 := m.extractLsb' (4 * sl) 4

/-- The slices that have a lane in a mask. -/
def slicesWith (m : Mask) : BitVec 8 := maskOf 8 ((List.range 8).filter fun sl => sliceBits m sl != 0)

/-- The lanes of a set of slices, whatever their state. -/
def lanesOfSlices (set : BitVec 8) : Mask := (bitsOf set).foldl (fun m sl => m ||| ((0xF : Mask) <<< (4 * sl))) 0

/-- The run the current candidate issues. -/
def State.curRun (s : State) : Run := s.curCand.run.getD default

/-- The word being issued and its address. -/
def State.curWord (s : State) : Word := (s.curRun.words ++ [s.curRun.trailer]).getD s.curRun.pos 0
def Run.addrOf (r : Run) (i : Nat) : Addr := r.start + BitVec.ofNat 57 (8 * i)
def State.pc (s : State) : Addr := s.curRun.addrOf s.curRun.pos

/-- The address of the run's trailer, and of the word after it. -/
def Run.trailerAddr (r : Run) : Addr := r.addrOf r.words.length

/-! The places of the one byte memory (R2, R130, R133, R140, R142, R289). Every kind of storage has a range of its own. -/

/-- Bytes of an HBM channel, 1.5 GB (R2). -/
def channelBytes : Nat := 0x60000000
def hbmPlace (chan off : Nat) : Nat := chan * channelBytes + off
def cisternBase : Nat := 2 ^ 41
/-- Byte off of Cistern slice n = 64 q + i (R140). -/
def cisternPlace (slice off : Nat) : Nat := cisternBase + slice * 0x800000 + off
def scratchBase : Nat := 2 ^ 42
/-- Physical scratchpad byte b of core n (R133). -/
def scratchPlace (core b : Nat) : Nat := scratchBase + core * 0x100000 + b
def hostBase : Nat := 2 ^ 60
def hostPlace (a : Nat) : Nat := hostBase + a
/-- Byte a of the memory of local partition p on peer device d (R289). -/
def peerPlace (d p a : Nat) : Nat := 2 ^ 64 + (d * 32 + p) * 2 ^ 52 + a

def isScratch (place : Nat) : Bool := scratchBase ≤ place && place < hostBase
def isHost (place : Nat) : Bool := hostBase ≤ place && place < 2 ^ 64
def isPeer (place : Nat) : Bool := 2 ^ 64 ≤ place

/-- The unit that holds one poison mark: 8 bytes of a scratchpad, 32 bytes elsewhere (R268). -/
def poisonUnit (place : Nat) : Nat := if isScratch place then place / 8 * 8 else place / 32 * 32

def State.poisoned (s : State) (place : Nat) : Bool := Store.get s.poison (poisonUnit place)
def State.setPoison (s : State) (place : Nat) (b : Bool) : State :=
  { s with poison := Store.put s.poison (poisonUnit place) b }

/-- The byte at a place, at home. -/
def State.byteAt (s : State) (place : Nat) : Byte := Memory.read s.mem place
def State.setByte (s : State) (place : Nat) (b : Byte) : State := { s with mem := Memory.write s.mem place b }

/-- n bytes from a place, little-endian (R6). -/
def State.homeBytes (s : State) (place n : Nat) : List Byte := (List.range n).map fun i => s.byteAt (place + i)
def State.setHomeBytes (s : State) (place : Nat) (bs : List Byte) : State :=
  (bs.zipIdx).foldl (fun t p => t.setByte (place + p.2) p.1) s

/-- Whether a core owns its number on this part and is not fused off (R3). -/
def State.coreEnabled (s : State) (n : Nat) : Bool := n < 384 && !(s.fuses.noCores.contains n)

end Sys2Proof.Machine
end

