-- ==== Sys2Proof/Machine/Turns.lean ====
section
/-! DEFINITION. The rotation of deterministic cores (R47 to R51, R233). -/

namespace Sys2Proof.Machine

open Sys2Proof

/-- The logical group index (R47). -/
def State.logical (s : State) (g : Group) : Nat :=
  let t := s.team g.team
  let r := (s.launch t.launch).info
  (t.x + r.gx * (t.y + r.gy * t.z)) * ceilDiv r.threads 32 + g.index

/-! The groups of a team, and which of them have arrived at a barrier. -/

/-- The groups of a team as core, slot and record, in group order; a group whose slot has become FREE stands as a free one. -/
def State.groupsOf (s : State) (t : Nat) : List (Nat × Nat × Group) :=
  let tm := s.team t
  tm.slots.zipIdx.map fun p =>
    let g := s.group tm.core p.1
    (tm.core, p.1, if g.team = t ∧ g.st ≠ .free then g else { st := .free, team := t, index := p.2 })

/-- Those of its groups that still hold their slots. -/
def State.heldGroups (s : State) (t : Nat) : List (Nat × Nat × Group) := (s.groupsOf t).filter fun g => g.2.2.st != .free

/-- Whether a team is still a member of its cluster's barriers (R352). -/
def Team.inCluster (t : Team) : Bool := t.st != .ended

/-- Whether a group counts for its team's arrival at a cluster barrier (R352). -/
def Group.counts (g : Group) : Bool := g.st != .done && g.st != .free

/-- The ranks that have arrived at cluster barrier b: those whose groups that are not DONE have all arrived (R352). -/
def State.ranksArrived (s : State) (c b : Nat) : List Nat :=
  (s.cluster c).teams.filter fun t =>
    let v := s.team t
    v.inCluster && !v.slots.isEmpty && (s.groupsOf t).all fun g => !g.2.2.counts || bit g.2.2.cbars b

/-- Whether every member of team barrier b has arrived (R342). -/
def State.teamArrived (s : State) (t b : Nat) : Bool :=
  let r := Store.get (s.team t).barriers b
  maskOf 32 ((List.range (s.team t).slots.length).filter fun j => !bit r.left j) &&& ~~~r.arrived == (0 : BitVec 32)

/-- Whether every member of cluster barrier b has arrived (R352). -/
def State.clusterArrived (s : State) (c b : Nat) : Bool :=
  ((s.cluster c).teams.filter fun t => (s.team t).inCluster).all (s.ranksArrived c b).contains

/-- Whether a candidate of a team waits for a barrier at which a member has still to arrive. Release halves that are still pending do
not count: which groups the rotation skips follows from the program alone (R48, log 84). -/
def State.atBarrier (s : State) (t : Nat) (c : Cand) : Bool :=
  match c.hold with
  | .barrier b _ => !s.teamArrived t b
  | .cbar b => !s.clusterArrived (s.team t).cluster b
  | _ => false

/-- Groups that the rotation skips: in DONE, held at a barrier that is not complete, or at an MLEASE; one that is LOADING is not (R48,
R49). -/
def State.skipped (s : State) (g : Group) : Bool :=
  g.st == .free || g.st == .done || g.arch.cands.any fun c => s.atBarrier g.team c || c.hold == .mlease

/-- Logical indices of the groups of a core that may be made current. -/
def State.rotation (s : State) (n : Nat) : List Nat :=
  (List.range 64).filterMap fun k =>
    let g := s.group n k
    if s.skipped g then none else some (s.logical g)

/-- The index after j in the rotation, wrapping round; j itself where the rotation is empty. -/
def nextIndex (l : List Nat) (j : Nat) : Nat :=
  match minBy id (l.filter fun i => j < i) with
  | some i => i
  | none => (minBy id l).getD j

/-- The index of the current group of a core: the one made current, or the next of the rotation while that one is skipped or has
switched away (R48). -/
def State.currentOf (s : State) (n : Nat) : Option Nat :=
  (s.core n).current.bind fun j =>
    let l := s.rotation n
    if l.isEmpty then none
    else if l.contains j && !(s.core n).idle then some j else some (nextIndex l j)

/-- Whether no port of core n is in its issue strokes but that of slot k. -/
def State.othersQuiet (s : State) (n k : Nat) : Bool := (List.range 4).all fun p => p == k % 4 || ((s.core n).port p).busy == 0

/-- With DETMODE 1 only the current group of the core issues, and none while a TBLLD is under way (R47, R233). After a switch the next
group waits for the last issue stroke of the word that switched: at each stroke one group issues. -/
def State.turn (s : State) (n k : Nat) : Bool :=
  let g := s.group n k
  if (s.launch (s.team g.team).launch).info.det then
    s.currentOf n == some (s.logical g) && (s.core n).lut.queue.isEmpty && s.othersQuiet n k
  else true

/-- The current agent's group switches: the next of the rotation is made current, or will be once one may (R48). -/
def State.switchPoint (s : State) : State :=
  if !s.det then s else
  let n := s.curCore
  let j := s.logical s.cur
  let l := s.rotation n
  s.modCore n fun c => if l.isEmpty then { c with current := some j, idle := true }
    else { c with current := some (nextIndex l j), idle := false }

/-- A core whose rotation stood still goes on with the group that may now be made current. -/
def State.wakeCore (s : State) (n : Nat) : State :=
  match (s.core n).idle, s.currentOf n with
  | true, some j => s.modCore n fun c => { c with current := some j, idle := false }
  | _, _ => s

/-- Whether the next word of the run is its trailer. -/
def State.atLastWord (s : State) : Bool := s.curRun.pos + 1 == s.curRun.words.length

end Sys2Proof.Machine
end

