-- ==== Sys2Proof/Machine/Flags.lean ====
section
/-! DEFINITION. The sticky flags of FLAGS (R252) as the values that words OR into it. -/

namespace Sys2Proof.Machine

open Sys2Proof

/-- FLAGS bits 9:0 (R252). -/
abbrev Flags := BitVec 10

def fNone : Flags := 0
def fInv : Flags := 0x001
def fDz : Flags := 0x002
def fOvf : Flags := 0x004
def fUnf : Flags := 0x008
def fInx : Flags := 0x010
def fNarrow : Flags := 0x020
def fEmptyrow : Flags := 0x040
def fMemberx : Flags := 0x080
def fDeflost : Flags := 0x100
def fBatcherr : Flags := 0x200

/-- A flag when a condition holds. -/
def flagIf (c : Bool) (f : Flags) : Flags := if c then f else fNone

/-- The flags raised in any of several places (R102). -/
def orFlags (l : List Flags) : Flags := l.foldl (· ||| ·) fNone

/-- FLAGS with more flags set; flags are sticky (R102). -/
def Arch.raise (a : Arch) (f : Flags) : Arch := { a with flags := a.flags ||| f }

end Sys2Proof.Machine
end

