-- ==== Sys2Proof/Machine/Fp.lean ====
section
/-! DEFINITION. Floating-point formats, exact values, and the one rounding of every operation (R95 to R103, R111, R112). A finite value
is a sign and a natural number times a power of two; operations are exact and rounded once. -/

namespace Sys2Proof.Machine

open Sys2Proof

/-- Exponent and fraction widths of a format (R95). -/
structure FFmt where
  ew : Nat
  fw : Nat
  deriving DecidableEq, Repr

def fmtF32 : FFmt := ⟨8, 23⟩
def fmtB16 : FFmt := ⟨8, 7⟩
def fmtH16 : FFmt := ⟨5, 10⟩

def FFmt.bias (f : FFmt) : Nat := 2 ^ (f.ew - 1) - 1
def FFmt.emax (f : FFmt) : Nat := 2 ^ f.ew - 1
/-- The bits of +∞, of the largest finite value and of the default quiet NaN; the sign bit (R96). -/
def FFmt.inf (f : FFmt) : Nat := f.emax * 2 ^ f.fw
def FFmt.big (f : FFmt) : Nat := f.inf - 1
def FFmt.nan (f : FFmt) : Nat := f.inf + 2 ^ (f.fw - 1)
def FFmt.sign (f : FFmt) : Nat := 2 ^ (f.ew + f.fw)

/-- A decoded value: finite values are (−1)^neg × m × 2^e. -/
inductive FVal where
  | nan (sig : Bool)
  | inf (neg : Bool)
  | fin (neg : Bool) (m : Nat) (e : Int)
  deriving DecidableEq, Repr

/-- The value of an encoding (R95, R97). -/
def unpack (f : FFmt) (b : Nat) : FVal :=
  let neg := b / f.sign % 2 = 1
  let e := b / 2 ^ f.fw % 2 ^ f.ew
  let m := b % 2 ^ f.fw
  if e = f.emax then (if m = 0 then .inf neg else .nan (m < 2 ^ (f.fw - 1)))
  else if e = 0 then .fin neg m (1 - (f.bias : Int) - f.fw)
  else .fin neg (m + 2 ^ f.fw) ((e : Int) - f.bias - f.fw)

def FVal.isNan : FVal → Bool
  | .nan _ => true
  | _ => false

def FVal.isSig : FVal → Bool
  | .nan b => b
  | _ => false

/-- An encoding with the flags its forming raises. -/
structure FRes where
  bits : Nat
  flags : Flags
  deriving DecidableEq, Repr

def signBit (f : FFmt) (neg : Bool) : Nat := if neg then f.sign else 0
def nanRes (f : FFmt) (fl : Flags) : FRes := ⟨f.nan, fl⟩
def infRes (f : FFmt) (neg : Bool) (fl : Flags) : FRes := ⟨signBit f neg + f.inf, fl⟩
def zeroRes (f : FFmt) (neg : Bool) : FRes := ⟨signBit f neg, fNone⟩

/-- The number of bits of a natural number. -/
def bitLen (n : Nat) : Nat := if n = 0 then 0 else n.log2 + 1

/-- Whether a magnitude with quotient q, remainder r of a divisor d is rounded up (R100). -/
def roundsUp (rm : RMode) (neg : Bool) (q r d : Nat) : Bool :=
  match rm with
  | .rne => d < 2 * r || (2 * r == d && q % 2 == 1)
  | .rz => false
  | .rdn => neg && r != 0
  | .rup => !neg && r != 0

/-- m × 2^sh rounded to an integer, and whether that is inexact. -/
def roundInt (rm : RMode) (neg : Bool) (m : Nat) (sh : Int) : Nat × Bool :=
  match sh with
  | .ofNat k => (m * 2 ^ k, false)
  | .negSucc k =>
    let d := 2 ^ (k + 1)
    let q := m / d
    let r := m % d
    (if roundsUp rm neg q r d then q + 1 else q, r != 0)

/-- The largest finite magnitude instead of ∞ when the mode rounds toward zero (R102). -/
def overflowsToBig (rm : RMode) (neg : Bool) : Bool :=
  match rm with
  | .rne => false
  | .rz => true
  | .rdn => !neg
  | .rup => neg

/-- The exact value (−1)^neg × m × 2^e rounded once to a format (R100, R102). With sticky the exact value lies strictly between
m and m + 1, times 2^e (R321). Overflow delivers the IEEE 754 result. -/
def roundTo (f : FFmt) (rm : RMode) (neg : Bool) (m : Nat) (e : Int) (sticky : Bool := false) : FRes :=
  let m1 := if sticky then 4 * m + 1 else m
  let e1 := if sticky then e - 2 else e
  if m1 = 0 then zeroRes f neg else
  let emin : Int := 1 - (f.bias : Int)
  let top : Int := (bitLen m1 : Int) - 1 + e1
  let q : Int := max top emin - f.fw
  let (n, inx) := roundInt rm neg m1 (e1 - q)
  let mag := (q - (emin - f.fw)).toNat * 2 ^ f.fw + n
  if f.inf ≤ mag then
    ⟨signBit f neg + (if overflowsToBig rm neg then f.big else f.inf), fOvf ||| fInx⟩
  else
    ⟨signBit f neg + mag, flagIf inx fInx ||| flagIf (inx && decide (mag < 2 ^ f.fw)) fUnf⟩

/-- INV when a signalling NaN is consumed (R97). -/
def sigFlag (l : List FVal) : Flags := flagIf (l.any FVal.isSig) fInv

/-- A signed magnitude as an integer. -/
def signedInt (neg : Bool) (m : Nat) : Int := if neg then -(m : Int) else m

/-- The exact sum of two finite values (−1)^n × m × 2^e: an integer and its exponent. -/
def sumExact (n1 : Bool) (m1 : Nat) (e1 : Int) (n2 : Bool) (m2 : Nat) (e2 : Int) : Int × Int :=
  let e := min e1 e2
  (signedInt n1 (m1 * 2 ^ (e1 - e).toNat) + signedInt n2 (m2 * 2 ^ (e2 - e).toNat), e)

/-- A signed integer times a power of two, rounded once; an exact zero has the given sign. -/
def roundSigned (f : FFmt) (rm : RMode) (v : Int) (e : Int) (zneg : Bool) : FRes :=
  if v = 0 then zeroRes f zneg else roundTo f rm (decide (v < 0)) v.natAbs e

/-- The sign of an exact zero sum (R100). -/
def zeroSum (rm : RMode) (n1 n2 : Bool) : Bool := if n1 = n2 then n1 else rm == .rdn

/-- a + b (R100). -/
def fAdd (f : FFmt) (rm : RMode) (a b : Nat) : FRes :=
  let x := unpack f a
  let y := unpack f b
  match x, y with
  | .nan _, _ | _, .nan _ => nanRes f (sigFlag [x, y])
  | .inf n1, .inf n2 => if n1 = n2 then infRes f n1 fNone else nanRes f fInv
  | .inf n, _ | _, .inf n => infRes f n fNone
  | .fin n1 m1 e1, .fin n2 m2 e2 =>
    let s := sumExact n1 m1 e1 n2 m2 e2
    roundSigned f rm s.1 s.2 (zeroSum rm n1 n2)

/-- An encoding with its sign inverted. -/
def fNeg (f : FFmt) (a : Nat) : Nat := if a / f.sign % 2 = 1 then a - f.sign else a + f.sign

/-- a − b (R100). -/
def fSub (f : FFmt) (rm : RMode) (a b : Nat) : FRes := fAdd f rm a (fNeg f b)

/-- a × b (R100). -/
def fMul (f : FFmt) (rm : RMode) (a b : Nat) : FRes :=
  let x := unpack f a
  let y := unpack f b
  match x, y with
  | .nan _, _ | _, .nan _ => nanRes f (sigFlag [x, y])
  | .inf n1, .inf n2 => infRes f (n1 != n2) fNone
  | .inf n1, .fin n2 m _ | .fin n2 m _, .inf n1 => if m = 0 then nanRes f fInv else infRes f (n1 != n2) fNone
  | .fin n1 m1 e1, .fin n2 m2 e2 => roundTo f rm (n1 != n2) (m1 * m2) (e1 + e2)

/-- a × b + c, rounded once; 0 × ∞ sets INV even when c is a quiet NaN (R100, R427). -/
def fFma (f : FFmt) (rm : RMode) (a b c : Nat) : FRes :=
  let x := unpack f a
  let y := unpack f b
  let z := unpack f c
  let bad : Bool := match x, y with
    | .inf _, .fin _ m _ | .fin _ m _, .inf _ => m == 0
    | _, _ => false
  if bad then nanRes f fInv else
  match x, y, z with
  | .nan _, _, _ | _, .nan _, _ | _, _, .nan _ => nanRes f (sigFlag [x, y, z])
  | .inf n1, .inf n2, .inf n3 | .inf n1, .fin n2 _ _, .inf n3 | .fin n1 _ _, .inf n2, .inf n3 =>
    if (n1 != n2) = n3 then infRes f n3 fNone else nanRes f fInv
  | .inf n1, .inf n2, _ | .inf n1, .fin n2 _ _, _ | .fin n1 _ _, .inf n2, _ => infRes f (n1 != n2) fNone
  | .fin _ _ _, .fin _ _ _, .inf n => infRes f n fNone
  | .fin n1 m1 e1, .fin n2 m2 e2, .fin n3 m3 e3 =>
    let s := sumExact (n1 != n2) (m1 * m2) (e1 + e2) n3 m3 e3
    roundSigned f rm s.1 s.2 (zeroSum rm (n1 != n2) n3)

/-- A key that orders all encodings that are no NaN, −0 below +0. -/
def orderKey (f : FFmt) (a : Nat) : Int := if a / f.sign % 2 = 1 then -((a % f.sign : Nat) : Int) - 1 else (a % f.sign : Nat)

/-- Maximum and minimum (R103). -/
def fMax (f : FFmt) (a b : Nat) : FRes :=
  if (unpack f a).isNan || (unpack f b).isNan then nanRes f (sigFlag [unpack f a, unpack f b])
  else ⟨if orderKey f a < orderKey f b then b else a, fNone⟩
def fMin (f : FFmt) (a b : Nat) : FRes :=
  if (unpack f a).isNan || (unpack f b).isNan then nanRes f (sigFlag [unpack f a, unpack f b])
  else ⟨if orderKey f b < orderKey f a then b else a, fNone⟩

/-- An order of values in which −0 equals +0. -/
def numKey (f : FFmt) (a : Nat) : Int := if a / f.sign % 2 = 1 then -((a % f.sign : Nat) : Int) else (a % f.sign : Nat)

/-- Whether a relation holds of two encodings; NaN makes every relation false but ne and un (R424). -/
def fCompare (f : FFmt) (c : Cond) (a b : Nat) : Bool :=
  let un := (unpack f a).isNan || (unpack f b).isNan
  let x := numKey f a
  let y := numKey f b
  match c with
  | .eq => !un && decide (x = y)
  | .ne => un || decide (x ≠ y)
  | .lt => !un && decide (x < y)
  | .le => !un && decide (x ≤ y)
  | .gt => !un && decide (y < x)
  | .ge => !un && decide (y ≤ x)
  | .un => un

/-- INV of a comparison (R424). -/
def compareFlags (f : FFmt) (a b : Nat) : Flags := sigFlag [unpack f a, unpack f b]

/-- A quotient m1 / m2 × 2^e rounded once; both are positive. -/
def roundQuot (f : FFmt) (rm : RMode) (neg : Bool) (m1 m2 : Nat) (e : Int) : FRes :=
  let n := m1 * 2 ^ 64
  roundTo f rm neg (n / m2) (e - 64) (n % m2 != 0)

/-- a / b, correctly rounded; 0 / 0 and ∞ / ∞ are invalid (R102, R224, log 17). -/
def fDiv (f : FFmt) (rm : RMode) (a b : Nat) : FRes :=
  let x := unpack f a
  let y := unpack f b
  match x, y with
  | .nan _, _ | _, .nan _ => nanRes f (sigFlag [x, y])
  | .inf _, .inf _ => nanRes f fInv
  | .inf n1, .fin n2 _ _ => infRes f (n1 != n2) fNone
  | .fin n1 _ _, .inf n2 => zeroRes f (n1 != n2)
  | .fin n1 m1 e1, .fin n2 m2 e2 =>
    if m2 = 0 then (if m1 = 0 then nanRes f fInv else infRes f (n1 != n2) fDz)
    else if m1 = 0 then zeroRes f (n1 != n2)
    else roundQuot f rm (n1 != n2) (m1 * 2 ^ 32) m2 (e1 - e2 - 32)

/-- The integer square root of n, one bit at a time from bit k down, r being the root so far. -/
def isqrtFrom (k : Nat) (n r : Nat) : Nat :=
  match k with
  | 0 => r
  | k + 1 =>
    let c := r + 2 ^ k
    isqrtFrom k n (if c * c ≤ n then c else r)

/-- The integer square root of a number below 2^128. -/
def isqrt (n : Nat) : Nat := isqrtFrom 64 n 0

/-! Conversions (R111, R112). -/

/-- What an overflowing narrowing conversion delivers: an entry of the overflow table (R112). -/
def overflowEntry (f : FFmt) (entry : Nat) (neg : Bool) : Nat :=
  match entry with
  | 0 => signBit f neg + f.big
  | 1 => signBit f neg + f.inf
  | _ => f.nan

/-- Entry of the overflow table for BF16 (0) or FP16 (1). -/
def ovtEntry (ovt : BitVec 6) (f : FFmt) : Nat := if f = fmtB16 then ovt.toNat % 4 else ovt.toNat / 4 % 4

/-- A narrowing or cross conversion between floating-point formats under the overflow table (R111). -/
def fConvNarrow (src dst : FFmt) (rm : RMode) (ovt : BitVec 6) (a : Nat) : FRes :=
  match unpack src a with
  | .nan sig => nanRes dst (flagIf sig fInv)
  | .inf n => infRes dst n fNone
  | .fin n m e =>
    let r := roundTo dst rm n m e
    if r.flags &&& fOvf = 0 then r
    else ⟨overflowEntry dst (ovtEntry ovt dst) n, fOvf ||| fInx ||| fNarrow⟩

/-- Widening to FP32, exact (R111). -/
def fWiden (src : FFmt) (a : Nat) : FRes :=
  match unpack src a with
  | .nan sig => nanRes fmtF32 (flagIf sig fInv)
  | .inf n => infRes fmtF32 n fNone
  | .fin n m e => roundTo fmtF32 .rne n m e

/-- FP32 to a 32-bit integer, clamped to the nearest bound (R111). -/
def fToInt (signed : Bool) (rm : RMode) (a : Nat) : Lane × Flags :=
  let lo : Int := if signed then -2 ^ 31 else 0
  let hi : Int := if signed then 2 ^ 31 - 1 else 2 ^ 32 - 1
  match unpack fmtF32 a with
  | .nan _ => (0, fInv)
  | .inf n => (BitVec.ofInt 32 (if n then lo else hi), fInv)
  | .fin n m e =>
    let r := roundInt rm n m e
    let v := signedInt n r.1
    if v < lo then (BitVec.ofInt 32 lo, fInv)
    else if hi < v then (BitVec.ofInt 32 hi, fInv)
    else (BitVec.ofInt 32 v, flagIf r.2 fInx)

/-- A 32-bit integer to FP32 (R111). -/
def fFromInt (signed : Bool) (rm : RMode) (v : Lane) : FRes :=
  let x : Int := if signed then v.toInt else v.toNat
  roundSigned fmtF32 rm x 0 false

/-- FP32 to PIk: q as an 8-bit two's complement value (R104, R111). -/
def toPi (k : Nat) (rm : RMode) (scale a : Nat) : BitVec 8 × Flags :=
  let st : Nat := 2 ^ (8 - k)
  match unpack fmtF32 a, unpack fmtB16 scale with
  | _, .nan _ | _, .inf _ => (0, fInv)
  | .nan sig, .fin _ m _ => (0, flagIf (sig || m == 0) fInv)
  | .inf n, .fin ns m _ =>
    if m = 0 then (0, fInv) else
    (BitVec.ofInt 8 (if n != ns then -128 else 128 - st), fNarrow ||| fInx)
  | .fin n m e, .fin ns ms es =>
    if ms = 0 then (0, fInv) else
    if m = 0 then (0, fNone) else
    let num := m * 2 ^ (7 + 512)
    let d := ms * st
    let neg := n != ns
    let sh : Int := e - es - 512
    let q0 := num / d
    let r := roundInt rm neg (4 * q0 + (if num % d = 0 then 0 else 1)) (sh - 2)
    let v := signedInt neg (r.1 * st)
    if v < -128 then (BitVec.ofInt 8 (-128), fNarrow ||| fInx)
    else if (128 : Int) - st < v then (BitVec.ofInt 8 (128 - st), fNarrow ||| fInx)
    else (BitVec.ofInt 8 v, flagIf r.2 fInx)

/-- PIk to FP32: scale × q / 128, exact but for subnormal results (R111, R437). -/
def ofPi (scale : Nat) (q : BitVec 8) : FRes :=
  let v := q.toInt
  if v = 0 then zeroRes fmtF32 false else
  match unpack fmtB16 scale with
  | .nan sig => nanRes fmtF32 (flagIf sig fInv)
  | .inf n => infRes fmtF32 (n != decide (v < 0)) fNone
  | .fin n m e => roundTo fmtF32 .rne (n != decide (v < 0)) (m * v.natAbs) (e - 7)

/-! Values in lanes. -/

def laneOf (r : FRes) : Lane × Flags := (BitVec.ofNat 32 r.bits, r.flags)
def f32 (l : Lane) : Nat := l.toNat
def loHalf (l : Lane) : Nat := l.toNat % 2 ^ 16
def hiHalf (l : Lane) : Nat := l.toNat / 2 ^ 16

/-- Two halves as a lane, their flags ORed (R101). -/
def pairLane (lo hi : FRes) : Lane × Flags := (BitVec.ofNat 32 (lo.bits + hi.bits * 2 ^ 16), lo.flags ||| hi.flags)

end Sys2Proof.Machine
end

