-- ==== Sys2Proof/Config.lean ====
section
/-! DEFINITION. Constants of the part that the manual leaves open. Each is opaque: nothing in Lean can evaluate it, so a claim
that rests on it holds for every value. Each is applied to a counter of the state, so that every use is a fresh value. -/

namespace Sys2Proof.Config

/-- A choice the manual leaves open, for example which of two racing writes of one agent comes last (R203; log 7). -/
opaque freeBit : Nat → Bool

/-- A number the manual leaves open, for example the order of the lanes of one atomic with DETMODE 0 (R165; log 7). -/
opaque freeNat : Nat → Nat

/-- A digest or a signature formed with keys and images that no program can read (R292; log 7). -/
opaque digest : Nat → Nat

end Sys2Proof.Config
end

