-- ==== Sys2Proof/Decode.lean ====
section
/-! DEFINITION. Decoding of instruction words, total on every 64-bit word and refusing by name, and the encoder written from
the same tables (R294 to R313 and the layouts of R210, R213, R229, R275, R335). -/

namespace Sys2Proof

/-- Why a word is no instruction: it raises UNDEF, or UNDEFMAJ for a reserved major (R313). -/
inductive DecodeError where
  /-- A major the map does not assign. -/
  | unassignedMajor
  /-- Majors 0x30 to 0x3F (UNDEFMAJ). -/
  | reservedMajor
  /-- A minor or sub-operation the map does not list. -/
  | unassignedMinor
  /-- A reserved field or an unused position that is not zero (R8, R298), in a word whose other fields say `shape`. -/
  | reservedField (shape : Instr)
  /-- A code of a space, order, scope or path that is reserved, in a word whose other fields say `shape`. -/
  | reservedCode (shape : Instr)
  /-- A type or operand the reference does not list for the word `shape`. -/
  | illFormed (shape : Instr)
  /-- Exports that break R305: the word is a trailer. -/
  | badExports
  deriving DecidableEq, Repr

/-- What the fields of a refused word say beside the one it is refused for: its opcode and its operand positions (R308). -/
def DecodeError.shape : DecodeError → Option Instr
  | .reservedField i | .reservedCode i | .illFormed i => some i
  | .unassignedMajor | .reservedMajor | .unassignedMinor | .badExports => none

/-- n bits of x from bit lo up. -/
def fld {w : Nat} (x : BitVec w) (lo n : Nat) : BitVec n := x.extractLsb' lo n

/-! Codes of the enumerations. -/

def Ty.code : Ty → BitVec 4
  | .none => 0 | .f32 => 1 | .b16 => 2 | .h16 => 3 | .s32 => 4 | .z32 => 5 | .s64 => 6 | .z64 => 7
  | .pi2 => 8 | .pi3 => 9 | .pi4 => 10 | .pi5 => 11 | .pi6 => 12 | .pi7 => 13 | .pi8 => 14 | .b32 => 15

def Ty.ofCode (c : BitVec 4) : Ty :=
  match c.toNat with
  | 0 => .none | 1 => .f32 | 2 => .b16 | 3 => .h16 | 4 => .s32 | 5 => .z32 | 6 => .s64 | 7 => .z64
  | 8 => .pi2 | 9 => .pi3 | 10 => .pi4 | 11 => .pi5 | 12 => .pi6 | 13 => .pi7 | 14 => .pi8 | _ => .b32

def Space.code : Space → BitVec 3
  | .g => 0 | .c => 1 | .s => 2 | .k => 3 | .w => 4

def Space.ofCode (c : BitVec 3) : Option Space :=
  match c.toNat with
  | 0 => some .g | 1 => some .c | 2 => some .s | 3 => some .k | 4 => some .w | _ => none

def Order.code : Order → BitVec 3
  | .rlx => 0 | .acq => 1 | .rel => 2 | .ar => 3 | .sc => 4

def Order.ofCode (c : BitVec 3) : Option Order :=
  match c.toNat with
  | 0 => some .rlx | 1 => some .acq | 2 => some .rel | 3 => some .ar | 4 => some .sc | _ => none

def Scope.code : Scope → BitVec 3
  | .group => 0 | .team => 1 | .clus => 2 | .dev => 3 | .part => 4 | .sys => 5

def Scope.ofCode (c : BitVec 3) : Option Scope :=
  match c.toNat with
  | 0 => some .group | 1 => some .team | 2 => some .clus | 3 => some .dev | 4 => some .part | 5 => some .sys | _ => none

def RMode.code : RMode → BitVec 2
  | .rne => 0 | .rz => 1 | .rdn => 2 | .rup => 3

def RMode.ofCode (c : BitVec 2) : RMode :=
  match c.toNat with
  | 0 => .rne | 1 => .rz | 2 => .rdn | _ => .rup

def Cond.code : Cond → BitVec 4
  | .eq => 0 | .ne => 1 | .lt => 2 | .le => 3 | .gt => 4 | .ge => 5 | .un => 6

def Cond.ofCode (c : BitVec 4) : Option Cond :=
  match c.toNat with
  | 0 => some .eq | 1 => some .ne | 2 => some .lt | 3 => some .le | 4 => some .gt | 5 => some .ge | 6 => some .un
  | _ => none

def Act.code : Act → BitVec 4
  | .relu => 0 | .sigm => 1 | .tanh => 2 | .silu => 3 | .gelu => 4 | .softplus => 5

def Act.ofCode (c : BitVec 4) : Option Act :=
  match c.toNat with
  | 0 => some .relu | 1 => some .sigm | 2 => some .tanh | 3 => some .silu | 4 => some .gelu | 5 => some .softplus
  | _ => none

def RedOp.code : RedOp → BitVec 4
  | .add => 0 | .and => 1 | .or => 2 | .xor => 3 | .max => 4 | .min => 5

def RedOp.ofCode (c : BitVec 4) : Option RedOp :=
  match c.toNat with
  | 0 => some .add | 1 => some .and | 2 => some .or | 3 => some .xor | 4 => some .max | 5 => some .min | _ => none

def Path.code : Path → BitVec 3
  | .ld => 0 | .st => 1 | .cp => 2 | .sg => 3 | .mx => 4

def Path.ofCode (c : BitVec 3) : Option Path :=
  match c.toNat with
  | 0 => some .ld | 1 => some .st | 2 => some .cp | 3 => some .sg | 4 => some .mx | _ => none

def SemCmp.code : SemCmp → BitVec 3
  | .eq => 0 | .ne => 1 | .ge => 2 | .gt => 3 | .le => 4 | .lt => 5 | .any => 6

def SemCmp.ofCode (c : BitVec 3) : Option SemCmp :=
  match c.toNat with
  | 0 => some .eq | 1 => some .ne | 2 => some .ge | 3 => some .gt | 4 => some .le | 5 => some .lt | 6 => some .any
  | _ => none

def SemOp.code : SemOp → BitVec 3
  | .set => 0 | .add => 1 | .or => 2

def SemOp.ofCode (c : BitVec 3) : Option SemOp :=
  match c.toNat with
  | 0 => some .set | 1 => some .add | 2 => some .or | _ => none

/-- The SPR numbers of R307. -/
def Spr.code : Spr → BitVec 6
  | .laneid => 0 | .groupid => 1 | .teamid _ => 2 | .clusterid => 3 | .gridid => 4 | .coreid => 5 | .strokes => 6
  | .elapsed => 7 | .retired => 8 | .walltime => 9 | .flags => 10 | .trapen => 11 | .passes => 12 | .preq => 13
  | .pdeadline => 14 | .lfs => 15 | .lsp => 16 | .epc => 17 | .ecause => 18 | .einfo => 19 | .allot => 20
  | .spbase => 21 | .spsize => 22 | .detmode => 23 | .tenant => 24 | .rngseed => 25

/-- The COMP field of R302. -/
def Spr.comp : Spr → BitVec 2
  | .teamid c => c
  | _ => 0

def Spr.ofCode (n : BitVec 6) (c : BitVec 2) : Option Spr :=
  match n.toNat with
  | 2 => some (.teamid c)
  | k =>
    if c != 0 then none else
    match k with
    | 0 => some .laneid | 1 => some .groupid | 3 => some .clusterid | 4 => some .gridid | 5 => some .coreid
    | 6 => some .strokes | 7 => some .elapsed | 8 => some .retired | 9 => some .walltime | 10 => some .flags
    | 11 => some .trapen | 12 => some .passes | 13 => some .preq | 14 => some .pdeadline | 15 => some .lfs
    | 16 => some .lsp | 17 => some .epc | 18 => some .ecause | 19 => some .einfo | 20 => some .allot
    | 21 => some .spbase | 22 => some .spsize | 23 => some .detmode | 24 => some .tenant | 25 => some .rngseed
    | _ => none

/-- A vector operand field as 10 bits (R297). -/
def VOp.code (v : VOp) : BitVec 10 := v.idx ++ v.base

def VOp.ofCode (x : BitVec 10) : VOp := ⟨fld x 8 2, fld x 0 8⟩

/-- A predicate number in a 10-bit position (R298). -/
def posP (p : BitVec 4) : BitVec 10 := (0 : BitVec 6) ++ p

/-- A scalar register number in a 10-bit position (R298). -/
def posS (r : BitVec 6) : BitVec 10 := (0 : BitVec 4) ++ r

def hiP (x : BitVec 10) : Bool := fld x 4 6 == 0
def hiS (x : BitVec 10) : Bool := fld x 6 4 == 0
def loP (x : BitVec 10) : BitVec 4 := fld x 0 4
def loS (x : BitVec 10) : BitVec 6 := fld x 0 6

/-- An export field of R305. -/
def Export.code : Export → BitVec 10
  | .vec n => (0 : BitVec 2) ++ n
  | .scal n => (1 : BitVec 2) ++ (0 : BitVec 2) ++ n
  | .pred n => (2 : BitVec 2) ++ (0 : BitVec 4) ++ n

def Export.ofCode (x : BitVec 10) : Option Export :=
  match (fld x 8 2 : BitVec 2).toNat with
  | 0 => some (.vec (fld x 0 8))
  | 1 => if fld x 6 2 == (0 : BitVec 2) then some (.scal (fld x 0 6)) else none
  | 2 => if fld x 4 4 == (0 : BitVec 4) then some (.pred (fld x 0 4)) else none
  | _ => none

/-! The decoder. -/

/-- An instruction that its well-formedness allows, else a refusal. -/
def chk (i : Instr) : Except DecodeError Instr := if i.wf then .ok i else .error (.illFormed i)

/-- A refusal in place of what the rest of the word decodes to; a refusal of the rest stands. -/
def refuse (e : Instr → DecodeError) (k : Except DecodeError Instr) : Except DecodeError Instr :=
  match k with
  | .ok i => .error (e i)
  | .error r => .error r

/-- Refuses a reserved field that is not zero. -/
def zero (c : Bool) (k : Except DecodeError Instr) : Except DecodeError Instr :=
  if c then k else refuse .reservedField k

/-- Refuses a reserved code; the word's shape is that of the first listed one. -/
def code {α : Type} [Inhabited α] (o : Option α) (k : α → Except DecodeError Instr) : Except DecodeError Instr :=
  match o with
  | some a => k a
  | none => refuse .reservedCode (k default)

/-- The positions of format V (R299). -/
structure FmtV where
  vd : BitVec 10
  va : BitVec 10
  vb : BitVec 10
  vc : BitVec 10
  rm : RMode
  z : Bool

def fmtV (op : BitVec 43) : FmtV :=
  ⟨fld op 33 10, fld op 23 10, fld op 13 10, fld op 3 10, RMode.ofCode (fld op 1 2), fld op 0 1 == (0 : BitVec 1)⟩

/-- Majors 0x01 to 0x04 (R312). -/
def decVec14 (maj : Nat) (h : Hdr) (hi : Nat) (t : Ty) (f : FmtV) : Except DecodeError Instr :=
  let d := VOp.ofCode f.vd
  let a := VOp.ofCode f.va
  let b := VOp.ofCode f.vb
  match maj, hi with
  | 1, 0 => zero (f.vc == 0 && f.z) (chk (.vadd h t d a b f.rm))
  | 1, 1 => zero (f.vc == 0 && f.z) (chk (.vsub h t d a b f.rm))
  | 1, 2 => zero (f.vc == 0 && f.z) (chk (.vmul h t d a b f.rm))
  | 1, 3 => zero (f.vc == 0 && f.z) (chk (.vmax h t d a b f.rm))
  | 1, 4 => zero (f.vc == 0 && f.z) (chk (.vmin h t d a b f.rm))
  | 2, 0 => zero (f.vc == 0 && f.z && t == .b32) (chk (.vand h d a b f.rm))
  | 2, 1 => zero (f.vc == 0 && f.z && t == .b32) (chk (.vor h d a b f.rm))
  | 2, 2 => zero (f.vc == 0 && f.z && t == .b32) (chk (.vxor h d a b f.rm))
  | 2, 3 => zero (f.vc == 0 && f.z && t == .b32) (chk (.vshl h d a b f.rm))
  | 2, 4 => zero (f.vc == 0 && f.z && t == .b32) (chk (.vshr h d a b f.rm))
  | 2, 5 => zero (f.vc == 0 && f.z && t == .b32) (chk (.vsra h d a b f.rm))
  | 3, 0 => zero (f.vb == 0 && f.vc == 0 && f.z) (chk (.vabs h t d a f.rm))
  | 3, 1 => zero (f.vb == 0 && f.vc == 0 && f.z) (chk (.vneg h t d a f.rm))
  | 3, 2 => zero (f.vb == 0 && f.vc == 0 && f.z && t == .b32) (chk (.vmov h d a f.rm))
  | 3, 3 => zero (f.vb == 0 && f.vc == 0 && f.z && t == .b32 && hiS f.va) (chk (.vbcast h d (loS f.va) f.rm))
  | 4, 0 => zero f.z (chk (.vfma h t d a b (VOp.ofCode f.vc) f.rm))
  | 4, 1 => zero (f.z && t == .b32 && hiP f.vc) (chk (.vsel h d a b (loP f.vc) f.rm))
  | _, _ => .error .unassignedMinor

/-- Major 0x06: source and destination type codes (R425). -/
def decCvt (h : Hdr) (s d : Ty) (f : FmtV) : Except DecodeError Instr :=
  let vd := VOp.ofCode f.vd
  let a := VOp.ofCode f.va
  zero (f.vc == 0 && f.z)
    (match s, d with
    | .f32, .b16 | .f32, .h16 => chk (.vcvt h vd (.narrow d a (VOp.ofCode f.vb)) f.rm)
    | .b16, .f32 | .h16, .f32 => zero (fld f.vb 1 9 == (0 : BitVec 9)) (chk (.vcvt h vd (.widen s a (fld f.vb 0 1)) f.rm))
    | .b16, .h16 | .h16, .b16 => zero (f.vb == 0) (chk (.vcvt h vd (.cross s d a) f.rm))
    | .f32, .s32 | .f32, .z32 => zero (f.vb == 0) (chk (.vcvt h vd (.toInt d a) f.rm))
    | .s32, .f32 | .z32, .f32 => zero (f.vb == 0) (chk (.vcvt h vd (.fromInt s a) f.rm))
    | _, _ => .error .unassignedMinor)

/-- Majors 0x05 to 0x0F (R312). -/
def decVec5F (maj : Nat) (h : Hdr) (hi : BitVec 4) (t : Ty) (op : BitVec 43) : Except DecodeError Instr :=
  let f := fmtV op
  let d := VOp.ofCode f.vd
  let a := VOp.ofCode f.va
  let b := VOp.ofCode f.vb
  match maj, hi.toNat with
  | 5, _ => code (Cond.ofCode hi) fun c => zero (hiP f.vd && f.vc == 0 && f.z) (chk (.vcmp h c t (loP f.vd) a b f.rm))
  | 6, _ => decCvt h (Ty.ofCode hi) t f
  | 7, 0 => zero (f.vc == 0 && f.z) (chk (.vpkn h t d a b f.rm))
  | 7, 1 => zero (f.vc == 0 && f.z) (chk (.vupn h t d a b f.rm))
  | 8, 0 => zero (f.vb == 0 && f.vc == 0 && f.z && t == .f32) (chk (.vexpE h d a f.rm))
  | 8, 1 => zero (f.vb == 0 && f.vc == 0 && f.z && t == .f32) (chk (.vexp2 h d a f.rm))
  | 8, 2 => zero (f.vb == 0 && f.vc == 0 && f.z && t == .f32) (chk (.vlog h d a f.rm))
  | 8, 3 => zero (f.vb == 0 && f.vc == 0 && f.z && t == .f32) (chk (.vrcp h d a f.rm))
  | 8, 4 => zero (f.vb == 0 && f.vc == 0 && f.z && t == .f32) (chk (.vrsq h d a f.rm))
  | 8, 5 => zero (f.vb == 0 && f.vc == 0 && f.z && t == .f32) (chk (.vsqrt h d a f.rm))
  | 9, _ => code (Act.ofCode hi) fun m => zero (f.vb == 0 && f.vc == 0 && f.z && t == .f32) (chk (.vact h m d a f.rm))
  | 10, _ => code (Act.ofCode hi) fun m => zero (f.vc == 0 && f.z && t == .f32) (chk (.vgate h m d a b f.rm))
  | 11, _ => code (RedOp.ofCode hi) fun o =>
      zero (hiS f.vd && hiS f.vb && f.vc == 0 && f.z) (chk (.vred h o t (loS f.vd) a (loS f.vb) f.rm))
  | 12, _ => code (RedOp.ofCode hi) fun o => zero (hiS f.vb && f.vc == 0 && f.z) (chk (.vscan h o t d a (loS f.vb) f.rm))
  | 13, 0 => zero (hiS f.vc && f.z && t == .b32) (chk (.vshfl h d a b (loS f.vc) f.rm))
  | 13, 1 => zero (hiS f.vd && hiP f.va && hiS f.vb && f.vc == 0 && f.z && t == .none)
      (chk (.vvote h (loS f.vd) (loP f.va) (loS f.vb) f.rm))
  | 13, 2 => zero (hiS f.va && hiS f.vb && f.vc == 0 && f.z && t == .none) (chk (.vrank h d (loS f.va) (loS f.vb) f.rm))
  | 14, 0 => zero (hiS f.vd && hiP f.vb && hiS f.vc && f.z && t == .f32)
      (chk (.vsmax h (loS f.vd) a (loP f.vb) (loS f.vc) f.rm))
  | 14, 1 => zero (fld op 0 1 == (0 : BitVec 1) && t == .f32)
      (chk (.vsexp h d a (fld op 17 6) (fld op 11 6) (fld op 5 6) (fld op 1 4)))
  | 14, 2 => zero (hiS f.vb && hiP f.vc && f.z && t == .f32) (chk (.vsdiv h d a (loS f.vb) (loP f.vc) f.rm))
  | 14, 3 => zero (hiS f.vd && hiP f.vb && hiS f.vc && f.z && t == .f32)
      (chk (.vmoms h (loS f.vd) a (loP f.vb) (loS f.vc) f.rm))
  | 15, 4 => zero (f.vb == 0 && f.vc == 0 && f.z) (chk (.vlut h t d a f.rm))
  | 15, n => if n < 4 then
      zero (hiS f.va && f.vb == 0 && f.vc == 0 && f.z) (chk (.vrng h t (fld hi 0 2) d (loS f.va) f.rm))
      else .error .unassignedMinor
  | _, _ => .error .unassignedMinor

/-- Space, order, scope and base of format M (R300). -/
def fmtM (op : BitVec 43) (k : MemF → Except DecodeError Instr) : Except DecodeError Instr :=
  code (Space.ofCode (fld op 40 3)) fun sp =>
  code (Order.ofCode (fld op 37 3)) fun o =>
  code (Scope.ofCode (fld op 34 3)) fun sc => k ⟨sp, o, sc, fld op 28 6⟩

/-- Major 0x10 (R428). -/
def decVMem (h : Hdr) (hi : Nat) (t : Ty) (op : BitVec 43) : Except DecodeError Instr :=
  let v := VOp.ofCode (fld op 18 10)
  match hi with
  | 0 => fmtM op fun m => zero (fld op 16 2 == (0 : BitVec 2)) (chk (.vld h t m v (fld op 0 16)))
  | 1 => fmtM op fun m => chk (.vst h t m v (RMode.ofCode (fld op 16 2)) (fld op 0 16))
  | 2 => fmtM op fun m => chk (.vgth h t m v (VOp.ofCode (fld op 8 10)) (fld op 0 8))
  | 3 => fmtM op fun m => chk (.vsct h t m v (VOp.ofCode (fld op 8 10)) (fld op 0 8))
  | 4 => zero (fld op 34 9 == (0 : BitVec 9) && fld op 0 12 == (0 : BitVec 12))
      (chk (.vldt h t v (fld op 28 6) (fld op 12 6)))
  | 5 => zero (fld op 34 9 == (0 : BitVec 9) && fld op 0 12 == (0 : BitVec 12))
      (chk (.vstt h t v (fld op 28 6) (fld op 12 6)))
  | _ => .error .unassignedMinor

/-- Major 0x11 (R401, R408, R329, R414). -/
def decSMem (h : Hdr) (hi : Nat) (t : Ty) (op : BitVec 43) : Except DecodeError Instr :=
  let r : BitVec 10 := fld op 18 10
  match hi with
  | 0 => fmtM op fun m => zero (hiS r && fld op 16 2 == (0 : BitVec 2)) (chk (.sld h t m (loS r) (fld op 0 16)))
  | 1 => fmtM op fun m => zero (hiS r && fld op 16 2 == (0 : BitVec 2)) (chk (.sst h t m (loS r) (fld op 0 16)))
  | 2 => fmtM op fun m =>
      zero (t == .none && m.order == .rlx && fld r 7 3 == (0 : BitVec 3) && fld op 16 2 == (0 : BitVec 2))
        (chk (.svst h m.space m.scope m.sb (fld r 0 7) (fld op 0 16)))
  | 3 => fmtM op fun m =>
      zero (t == .none && m.order == .rlx && fld r 7 3 == (0 : BitVec 3) && fld op 16 2 == (0 : BitVec 2))
        (chk (.rsst h m.space m.scope m.sb (fld r 0 7) (fld op 0 16)))
  | 4 => code (Space.ofCode (fld op 40 3)) fun sp =>
      zero (t == .none && fld op 34 6 == (0 : BitVec 6) && r == 0 && fld op 16 2 == (0 : BitVec 2))
        (chk (.tblld h sp (fld op 28 6) (fld op 0 16)))
  | _ => .error .unassignedMinor

/-- Major 0x12 (R335). -/
def decAtom (h : Hdr) (hi : BitVec 4) (t : Ty) (op : BitVec 43) : Except DecodeError Instr :=
  fmtM op fun m =>
  let vv : BitVec 10 := fld op 18 10
  let vx : BitVec 10 := fld op 8 10
  let vec := hi.getLsbD 3
  let o : AtomOpnd := if vec then .vec (VOp.ofCode vv) (VOp.ofCode vx) else .scal (loS vv) (loS vx)
  let a : AtomF := ⟨t, m.space, m.order, m.scope, m.sb, o, fld op 0 8⟩
  zero (vec || (hiS vv && hiS vx))
    (match (fld hi 0 3 : BitVec 3).toNat with
    | 0 => chk (.aadd h a) | 1 => chk (.aand h a) | 2 => chk (.aor h a) | 3 => chk (.axor h a)
    | 4 => chk (.amax h a) | 5 => chk (.amin h a) | 6 => chk (.axch h a) | _ => chk (.acas h a))

/-- The fields of format S (R301). -/
structure FmtS where
  sd : BitVec 6
  sa : BitVec 6
  i : Bool
  sb : BitVec 6
  aux : BitVec 4
  imm : BitVec 20

def fmtS (op : BitVec 43) : FmtS :=
  ⟨fld op 37 6, fld op 31 6, fld op 30 1 == (1 : BitVec 1), fld op 24 6, fld op 20 4, fld op 0 20⟩

/-- The second source: the unused one of SB and IMM is zero (R301). -/
def FmtS.src (f : FmtS) : SSrc := if f.i then .imm f.imm else .reg f.sb
def FmtS.srcOk (f : FmtS) : Bool := if f.i then f.sb == 0 else f.imm == 0

/-- Majors 0x18 and 0x19 (R393, R397). -/
def decScalar (maj : Nat) (h : Hdr) (hi : Nat) (t : Ty) (op : BitVec 43) : Except DecodeError Instr :=
  let f := fmtS op
  let ok := f.srcOk && f.aux == 0
  match maj, hi with
  | 24, 0 => zero ok (chk (.sadd h t f.sd f.sa f.src))
  | 24, 1 => zero ok (chk (.ssub h t f.sd f.sa f.src))
  | 24, 2 => zero ok (chk (.sand h t f.sd f.sa f.src))
  | 24, 3 => zero ok (chk (.sor h t f.sd f.sa f.src))
  | 24, 4 => zero ok (chk (.sxor h t f.sd f.sa f.src))
  | 24, 5 => zero ok (chk (.sshl h t f.sd f.sa f.src))
  | 24, 6 => zero ok (chk (.sshr h t f.sd f.sa f.src))
  | 24, 7 => zero ok (chk (.ssra h t f.sd f.sa f.src))
  | 24, 8 => zero ok (chk (.smax h t f.sd f.sa f.src))
  | 24, 9 => zero ok (chk (.smin h t f.sd f.sa f.src))
  | 24, 10 => zero f.srcOk (code (Cond.ofCode f.aux) fun c => chk (.scmp h t c f.sd f.sa f.src))
  | 24, 11 => zero (!f.i && f.aux == 0 && fld f.imm 0 14 == (0 : BitVec 14))
      (chk (.ssel h t f.sd f.sa f.sb (fld f.imm 14 6)))
  | 25, 0 => zero ok (chk (.smul h t f.sd f.sa f.src))
  | 25, 1 => zero ok (chk (.smulh h t f.sd f.sa f.src))
  | 25, 2 => zero ok (chk (.sdiv h t f.sd f.sa f.src))
  | _, _ => .error .unassignedMinor

/-- Major 0x1A (R396). -/
def decSMisc (h : Hdr) (hi : Nat) (t : Ty) (op : BitVec 43) : Except DecodeError Instr :=
  let f := fmtS op
  zero (t == .none)
    (match hi with
    | 0 => zero (!f.i && f.sb == 0 && f.imm == 0)
        (match f.aux.toNat with
        | 0 => chk (.smov h (.ss f.sd f.sa))
        | 1 => zero (fld f.sd 2 4 == (0 : BitVec 4)) (chk (.smov h (.sx (fld f.sd 0 2) f.sa)))
        | 2 => zero (fld f.sa 2 4 == (0 : BitVec 4)) (chk (.smov h (.xs f.sd (fld f.sa 0 2))))
        | _ => .error (.reservedCode (.smov h (.ss f.sd f.sa))))
    | 1 => zero (f.i && f.sa == 0 && f.sb == 0 && f.aux == 0) (chk (.smovi h f.sd f.imm))
    | 2 => zero (f.i && f.sb == 0 && fld f.aux 2 2 == (0 : BitVec 2) && fld f.imm 16 4 == (0 : BitVec 4))
        (chk (.shi h f.sd f.sa (fld f.imm 0 16) (fld f.aux 0 2)))
    | 3 => zero f.srcOk (chk (.slea h f.sd f.sa f.src f.aux))
    | 4 => zero (!f.i && f.sb == 0 && f.aux == 0 && f.imm == 0) (chk (.sclz h f.sd f.sa))
    | 5 => zero (!f.i && f.sb == 0 && f.aux == 0 && f.imm == 0) (chk (.spopc h f.sd f.sa))
    | _ => .error .unassignedMinor)

/-- Major 0x1C (R405, R411). -/
def decSpr (h : Hdr) (hi : Nat) (t : Ty) (op : BitVec 43) : Except DecodeError Instr :=
  let dst : BitVec 10 := fld op 33 10
  zero (t == .none && fld op 0 25 == (0 : BitVec 25))
    (code (Spr.ofCode (fld op 27 6) (fld op 25 2)) fun spr =>
      match hi with
      | 0 => if spr == .laneid then chk (.srd h (.vec (VOp.ofCode dst)) spr)
          else zero (hiS dst) (chk (.srd h (.scal (loS dst)) spr))
      | 1 => zero (hiS dst) (chk (.swr h (loS dst) spr))
      | _ => .error .unassignedMinor)

/-- Major 0x1D (R341, R352, R354, R368, R389, R447, R455). -/
def decSync (h : Hdr) (hi : Nat) (t : Ty) (op : BitVec 43) : Except DecodeError Instr :=
  zero (t == .none)
    (match hi with
    | 0 => code (Order.ofCode (fld op 40 3)) fun o => code (Scope.ofCode (fld op 37 3)) fun sc =>
        zero (fld op 0 37 == (0 : BitVec 37)) (chk (.fence h o sc))
    | 1 => zero (fld op 37 6 == (0 : BitVec 6) && fld op 0 33 == (0 : BitVec 33)) (chk (.bar h (fld op 33 4)))
    | 2 => code (Scope.ofCode (fld op 37 3)) fun sc =>
        zero (fld op 40 3 == (0 : BitVec 3) && fld op 0 33 == (0 : BitVec 33)) (chk (.bara h sc (fld op 33 4)))
    | 3 => code (Scope.ofCode (fld op 37 3)) fun sc =>
        zero (fld op 40 3 == (0 : BitVec 3) && fld op 0 33 == (0 : BitVec 33)) (chk (.barw h sc (fld op 33 4)))
    | 4 => zero (fld op 35 8 == (0 : BitVec 8) && fld op 0 33 == (0 : BitVec 33)) (chk (.cbar h (fld op 33 2)))
    | 5 => zero (fld op 40 3 == (0 : BitVec 3))
        (chk (.wait h (fld op 32 8) (fld op 24 8) (fld op 16 8) (fld op 8 8) (fld op 0 8)))
    | 6 => code (Path.ofCode (fld op 40 3)) fun p => zero (fld op 0 34 == (0 : BitVec 34)) (chk (.waitp h p (fld op 34 6)))
    | 7 => zero (op == 0) (chk (.yield h))
    | 8 => zero (fld op 8 35 == (0 : BitVec 35)) (chk (.regang h (fld op 0 8)))
    | 9 => zero (fld op 8 35 == (0 : BitVec 35)) (chk (.merge h (fld op 0 8)))
    | _ => .error .unassignedMinor)

/-- Major 0x1E (R348, R360, R363, R380, R381, R416 to R418). -/
def decMisc (h : Hdr) (hi : Nat) (t : Ty) (op : BitVec 43) : Except DecodeError Instr :=
  zero (t == .none)
    (match hi with
    | 0 => zero (op == 0) (chk (.nop h))
    | 1 => zero (op == 0) (chk (.brk h))
    | 2 => zero (fld op 20 23 == (0 : BitVec 23)) (chk (.trap h (fld op 0 20)))
    | 3 => zero (op == 0) (chk (.tret h))
    | 4 => zero (op == 0) (chk (.tfence h))
    | 5 => zero (op == 0) (chk (.icinv h))
    | 6 => zero (fld op 0 37 == (0 : BitVec 37)) (chk (.ovtld h (fld op 37 6)))
    | 7 => zero (fld op 6 37 == (0 : BitVec 37)) (chk (.lexit h (fld op 0 6)))
    | _ => .error .unassignedMinor)

/-- Major 0x20 (R303, R346 to R353, R364, R390). -/
def decBranch (h : Hdr) (hi : Nat) (t : Ty) (op : BitVec 43) : Except DecodeError Instr :=
  zero (t == .none)
    (match hi with
    | 0 => zero (fld op 42 1 == (0 : BitVec 1)) (chk (.bra h (fld op 16 26) (fld op 0 16)))
    | 1 => zero (fld op 42 1 == (0 : BitVec 1) && fld op 16 20 == (0 : BitVec 20))
        (chk (.brx h (fld op 36 6) (fld op 0 16)))
    | 2 => zero (fld op 42 1 == (0 : BitVec 1) && fld op 0 16 == (0 : BitVec 16)) (chk (.call h (fld op 16 26)))
    | 3 => zero (fld op 42 1 == (0 : BitVec 1) && fld op 0 36 == (0 : BitVec 36)) (chk (.callx h (fld op 36 6)))
    | 4 => zero (op == 0) (chk (.ret h))
    | 5 => zero (op == 0) (chk (.end_ h))
    | 6 => chk (.loopC h (fld op 37 6) (fld op 31 6) (fld op 15 16) (fld op 0 15))
    | 7 => zero (fld op 35 2 == (0 : BitVec 2)) (chk (.loopW h (fld op 37 6) (fld op 31 4) (fld op 15 16) (fld op 0 15)))
    | _ => .error .unassignedMinor)

/-- Major 0x24 (R304). -/
def decEngine (h : Hdr) (hi : Nat) (t : Ty) (op : BitVec 43) : Except DecodeError Instr :=
  zero (t == .none)
    (match hi with
    | 0 => code (Space.ofCode (fld op 16 3)) fun d => code (Space.ofCode (fld op 13 3)) fun s =>
        code (Scope.ofCode (fld op 10 3)) fun sc => zero (fld op 0 10 == (0 : BitVec 10))
          (chk (.pcpy h (fld op 37 6) (fld op 31 6) (fld op 25 6) (fld op 19 6) d s sc))
    | 1 => code (Space.ofCode (fld op 16 3)) fun d => code (Scope.ofCode (fld op 10 3)) fun sc =>
        zero (fld op 13 3 == (0 : BitVec 3) && fld op 0 10 == (0 : BitVec 10))
          (chk (.pfill h (fld op 37 6) (fld op 31 6) (fld op 25 6) (fld op 19 6) d sc))
    | 2 => zero (fld op 0 31 == (0 : BitVec 31)) (chk (.pstat h (fld op 37 6) (fld op 31 6)))
    | 3 => zero (fld op 0 37 == (0 : BitVec 37)) (chk (.pcanc h (fld op 37 6)))
    | 4 => code (Space.ofCode (fld op 12 3)) fun d => code (Space.ofCode (fld op 9 3)) fun s =>
        zero (fld op 0 9 == (0 : BitVec 9))
          (chk (.siph h (fld op 37 6) (VOp.ofCode (fld op 27 10)) (fld op 21 6) (fld op 15 6) d s))
    | _ => .error .unassignedMinor)

/-- Major 0x2C (R210, R213). -/
def decMatrix (h : Hdr) (minor : Nat) (op : BitVec 43) : Except DecodeError Instr :=
  let acc : BitVec 3 := fld op 40 3
  let va := VOp.ofCode (fld op 30 10)
  let vb := VOp.ofCode (fld op 20 10)
  let vm : BitVec 10 := fld op 10 10
  let fb : BitVec 6 := fld op 4 6
  let t := Ty.ofCode (fld op 0 4)
  match minor with
  | 0x00 => zero (fld op 0 26 == (0 : BitVec 26)) (chk (.mlease h (fld op 37 6) (fld op 29 8) (fld op 26 3)))
  | 0x01 => zero (op == 0) (chk (.mfree h))
  | 0x02 => zero (fld op 0 40 == (0 : BitVec 40)) (chk (.mzero h acc))
  | 0x03 => zero (fld op 0 37 == (0 : BitVec 37)) (chk (.mfence h (fld op 37 6)))
  | 0x04 => zero (fld op 0 37 == (0 : BitVec 37)) (chk (.mwait h (fld op 37 6)))
  | 0x08 => zero (vm == 0) (chk (.mma h t acc va vb fb))
  | 0x09 => chk (.mmas h t acc va (VOp.ofCode vm) vb fb)
  | 0x0A => zero (acc == 0 && fb == 0) (chk (.mcomp h t va (VOp.ofCode vm) vb))
  | 0x10 => code (Space.ofCode (fld op 37 3)) fun sp => chk (.mlda h acc sp (fld op 31 6) (fld op 0 31))
  | 0x11 => code (Space.ofCode (fld op 37 3)) fun sp => chk (.msta h acc sp (fld op 31 6) (fld op 0 31))
  | 0x12 => zero (fld op 0 27 == (0 : BitVec 27)) (chk (.mmova h acc va (fld op 28 2) (fld op 27 1)))
  | 0x20 => zero (fld op 0 29 == (0 : BitVec 29)) (chk (.ftinit h acc (fld op 35 5) (fld op 29 6)))
  | 0x21 => zero (fld op 0 30 == (0 : BitVec 30)) (chk (.ftupd h acc va))
  | 0x22 => zero (fld op 0 30 == (0 : BitVec 30)) (chk (.ftdnd h acc va))
  | 0x23 => zero (fld op 28 2 == (0 : BitVec 2) && fld op 0 27 == (0 : BitVec 27)) (chk (.ftsolv h acc va (fld op 27 1)))
  | 0x24 => zero (fld op 0 30 == (0 : BitVec 30)) (chk (.ftldet h acc va))
  | 0x25 => code (Space.ofCode (fld op 37 3)) fun sp =>
      chk (.ftld h acc sp (fld op 31 6) (fld op 26 5) (fld op 0 26))
  | 0x26 => code (Space.ofCode (fld op 37 3)) fun sp => zero (fld op 26 5 == (0 : BitVec 5))
      (chk (.ftst h acc sp (fld op 31 6) (fld op 0 26)))
  | _ => .error .unassignedMinor

/-- Major 0x2D (R229). -/
def decLane (h : Hdr) (minor : BitVec 8) (op : BitVec 43) : Except DecodeError Instr :=
  let vd := VOp.ofCode (fld op 33 10)
  let vw := VOp.ofCode (fld op 23 10)
  let f : Feeds := ⟨fld op 21 2, fld op 16 5, fld op 11 5, fld op 6 5, fld op 1 5⟩
  let z := fld op 0 1 == (0 : BitVec 1)
  if fld minor 4 4 == (1 : BitVec 4) then zero z (chk (.xvn h (fld minor 0 4) vd vw f)) else
  match minor.toNat with
  | 0 => zero z (chk (.xv h vd vw f))
  | 1 => zero (fld op 0 33 == (0 : BitVec 33)) (chk (.xlsp h vd))
  | 2 => zero (fld op 0 33 == (0 : BitVec 33)) (chk (.xlfs h vd))
  | 3 => zero (fld op 2 41 == (0 : BitVec 41)) (chk (.xclr h (fld op 0 2)))
  | _ => .error .unassignedMinor

/-- Major 0x2E (R275). -/
def decStream (h : Hdr) (minor : Nat) (op : BitVec 43) : Except DecodeError Instr :=
  match minor with
  | 0 => zero (fld op 0 31 == (0 : BitVec 31)) (chk (.launch h (fld op 37 6) (fld op 31 6)))
  | 1 => zero (fld op 0 25 == (0 : BitVec 25)) (chk (.launchat h (fld op 37 6) (fld op 31 6) (fld op 25 6)))
  | 2 => code (SemCmp.ofCode (fld op 28 3)) fun c => zero (fld op 0 28 == (0 : BitVec 28))
      (chk (.semwait h c (fld op 37 6) (fld op 31 6)))
  | 3 => code (SemOp.ofCode (fld op 28 3)) fun c => zero (fld op 0 28 == (0 : BitVec 28))
      (chk (.semsig h c (fld op 37 6) (fld op 31 6)))
  | _ => .error .unassignedMinor

/-- The exports a trailer names: NEXP fields, the others zero (R305). -/
def decExports (n : Nat) (op : BitVec 43) : Except DecodeError (List Export) :=
  let e (k : Nat) : BitVec 10 := fld op (30 - 10 * k) 10
  let get (k : Nat) : Option Export := Export.ofCode (e k)
  match n with
  | 0 => if e 0 == 0 && e 1 == 0 && e 2 == 0 && e 3 == 0 then .ok [] else .error .badExports
  | 1 => match get 0 with
    | some a => if e 1 == 0 && e 2 == 0 && e 3 == 0 then .ok [a] else .error .badExports
    | none => .error .badExports
  | 2 => match get 0, get 1 with
    | some a, some b => if e 2 == 0 && e 3 == 0 then .ok [a, b] else .error .badExports
    | _, _ => .error .badExports
  | 3 => match get 0, get 1, get 2 with
    | some a, some b, some c => if e 3 == 0 then .ok [a, b, c] else .error .badExports
    | _, _, _ => .error .badExports
  | 4 => match get 0, get 1, get 2, get 3 with
    | some a, some b, some c, some d => .ok [a, b, c, d]
    | _, _, _, _ => .error .badExports
  | _ => .error .badExports

/-- Major 0x2F, the trailer (R305). -/
def decTrailer (h : Hdr) (minor : BitVec 8) (op : BitVec 43) : Except DecodeError Instr :=
  zero (minor == 0 && h.guard == 0 && h.gneg == 0)
    (match decExports (fld op 40 3 : BitVec 3).toNat op with
    | .ok es => chk (.runend h.cls es)
    | .error e => .error e)

/-- The opcode map (R312, R313). -/
def decodeBody (maj : Nat) (h : Hdr) (minor : BitVec 8) (op : BitVec 43) : Except DecodeError Instr :=
  let hi : BitVec 4 := fld minor 4 4
  let t := Ty.ofCode (fld minor 0 4)
  match maj with
  | 0x01 | 0x02 | 0x03 | 0x04 => decVec14 maj h hi.toNat t (fmtV op)
  | 0x05 | 0x06 | 0x07 | 0x08 | 0x09 | 0x0A | 0x0B | 0x0C | 0x0D | 0x0E | 0x0F => decVec5F maj h hi t op
  | 0x10 => decVMem h hi.toNat t op
  | 0x11 => decSMem h hi.toNat t op
  | 0x12 => decAtom h hi t op
  | 0x18 | 0x19 => decScalar maj h hi.toNat t op
  | 0x1A => decSMisc h hi.toNat t op
  | 0x1C => decSpr h hi.toNat t op
  | 0x1D => decSync h hi.toNat t op
  | 0x1E => decMisc h hi.toNat t op
  | 0x20 => decBranch h hi.toNat t op
  | 0x24 => decEngine h hi.toNat t op
  | 0x2C => decMatrix h minor.toNat op
  | 0x2D => decLane h minor op
  | 0x2E => decStream h minor.toNat op
  | 0x2F => decTrailer h minor op
  | n => if 0x30 ≤ n then .error .reservedMajor else .error .unassignedMajor

/-- Whether the map lists a MINOR of an assigned major: its mnemonic or sub-operation and its type code (R312). -/
def minorListed (maj : Nat) (minor : BitVec 8) : Bool :=
  let hi : Nat := (fld minor 4 4 : BitVec 4).toNat
  let t := Ty.ofCode (fld minor 0 4)
  match maj with
  | 0x01 => hi ≤ 4 && t.isVecArith
  | 0x02 => hi ≤ 5 && t == .b32
  | 0x03 => if hi ≤ 1 then t == .f32 || t == .b16 else hi ≤ 3 && t == .b32
  | 0x04 => if hi = 0 then t == .f32 || t == .b16 else hi == 1 && t == .b32
  | 0x05 => hi ≤ 6 && t.isVecCmp && (hi != 6 || t == .f32)
  | 0x07 => hi ≤ 1 && t.pik != 0
  | 0x08 | 0x09 | 0x0A => hi ≤ 5 && t == .f32
  | 0x0B | 0x0C => hi ≤ 5 && (t == .f32 || t == .s32 || t == .z32 || (1 ≤ hi && hi ≤ 3 && t == .b32))
  | 0x0D => if hi = 0 then t == .b32 else hi ≤ 2 && t == .none
  | 0x0E => hi ≤ 3 && t == .f32
  | 0x0F => if hi ≤ 3 then t == .f32 || t == .b32 else hi == 4 && (t == .f32 || t == .z32)
  | 0x10 => hi ≤ 5 && (t.isHalf || t.isLane32)
  | 0x11 => if hi ≤ 1 then t.isScalarMem else hi ≤ 4 && t == .none
  | 0x12 => t == .s32 || t == .z32 || t == .b32 || (t == .f32 && (hi % 8 == 0 || 6 ≤ hi % 8))
      || (hi ≤ 7 && (t == .s64 || t == .z64))
  | 0x18 => hi ≤ 11 && t.isScalarInt
  | 0x19 => hi ≤ 2 && t.isScalarInt
  | 0x1A => hi ≤ 5 && t == .none
  | 0x1C => hi ≤ 1 && t == .none
  | 0x1D => hi ≤ 9 && t == .none
  | 0x1E | 0x20 => hi ≤ 7 && t == .none
  | 0x24 => hi ≤ 4 && t == .none
  | _ => true

/-- MAJOR of a word. -/
def majorOf (w : Word) : BitVec 6 := fld w 58 6

/-- The header fields of a word (R294). -/
def hdrOf (w : Word) : Hdr := ⟨fld w 56 2, fld w 52 4, fld w 51 1⟩

/-- The instruction a word encodes. -/
def decode (w : Word) : Except DecodeError Instr :=
  decodeBody (majorOf w).toNat (hdrOf w) (fld w 43 8) (fld w 0 43)

/-- Little-endian bytes of memory as a word (R6, R52): the first eight bytes, or a refusal when fewer stand there. -/
def wordOfBytes (bs : List Byte) : Option (Word × List Byte) :=
  match bs with
  | b0 :: b1 :: b2 :: b3 :: b4 :: b5 :: b6 :: b7 :: rest => some (b7 ++ b6 ++ b5 ++ b4 ++ b3 ++ b2 ++ b1 ++ b0, rest)
  | _ => none

/-- Decoding of bytes: the instruction of the first word and the bytes after it. -/
def decodeBytes (bs : List Byte) : Option (Except DecodeError Instr × List Byte) :=
  (wordOfBytes bs).map fun p => (decode p.1, p.2)

/-- The instruction whose bits are w (bit 0 of the one 64-bit word), none where the decoder refuses. Every word of the
table has 64 bits; bits above nbits are 0. -/
def decodeTableWord (nbits w : Nat) : Option Instr :=
  match decode (BitVec.ofNat 64 (w % 2 ^ nbits)) with
  | .ok i => some i
  | .error _ => none

/-! The encoder. -/

/-- A word from its major, header, minor and operand area (R294). -/
def mkWord (maj : BitVec 6) (h : Hdr) (minor : BitVec 8) (op : BitVec 43) : Word :=
  maj ++ h.cls ++ h.guard ++ h.gneg ++ minor ++ op

/-- MINOR of a selector and a type code (R306, R312). -/
def mnr (hi : BitVec 4) (t : Ty) : BitVec 8 := hi ++ t.code

/-- The operand area of format V (R299). -/
def opV (vd va vb vc : BitVec 10) (rm : RMode) : BitVec 43 := vd ++ va ++ vb ++ vc ++ rm.code ++ (0 : BitVec 1)

/-- The operand area of format S (R301). -/
def opS (sd sa : BitVec 6) (b : SSrc) (aux : BitVec 4) : BitVec 43 :=
  match b with
  | .reg sb => sd ++ sa ++ (0 : BitVec 1) ++ sb ++ aux ++ (0 : BitVec 20)
  | .imm v => sd ++ sa ++ (1 : BitVec 1) ++ (0 : BitVec 6) ++ aux ++ v

/-- The operand area of format M (R300). -/
def opM (m : MemF) (vr : BitVec 10) (rm : BitVec 2) (off : BitVec 16) : BitVec 43 :=
  m.space.code ++ m.order.code ++ m.scope.code ++ m.sb ++ vr ++ rm ++ off

/-- The operand area of a gather, a scatter or an atomic (R300). -/
def opMX (m : MemF) (vr vx : BitVec 10) (off : BitVec 8) : BitVec 43 :=
  m.space.code ++ m.order.code ++ m.scope.code ++ m.sb ++ vr ++ vx ++ off

/-- The operand area of an atomic (R335). -/
def opAtom (a : AtomF) : BitVec 43 :=
  match a.opnd with
  | .scal sv sx => opMX ⟨a.space, a.order, a.scope, a.sb⟩ (posS sv) (posS sx) a.off
  | .vec vv vx => opMX ⟨a.space, a.order, a.scope, a.sb⟩ vv.code vx.code a.off

/-- OP of an atomic: the form is bit 3 (R335). -/
def atomHi (k : BitVec 3) (a : AtomF) : BitVec 4 :=
  match a.opnd with
  | .scal _ _ => (0 : BitVec 1) ++ k
  | .vec _ _ => (1 : BitVec 1) ++ k

def encAtom (h : Hdr) (k : BitVec 3) (a : AtomF) : Word := mkWord 0x12 h (mnr (atomHi k a) a.ty) (opAtom a)

/-- The operand area of MMA, MMAS and MCOMP (R210). -/
def opMx (acc : BitVec 3) (va vb vm : BitVec 10) (fb : BitVec 6) (t : Ty) : BitVec 43 :=
  acc ++ va ++ vb ++ vm ++ fb ++ t.code

/-- The operand area of XV and XVN (R229). -/
def opX (vd vw : VOp) (f : Feeds) : BitVec 43 :=
  vd.code ++ vw.code ++ f.fix ++ f.f0 ++ f.f1 ++ f.f2 ++ f.f3 ++ (0 : BitVec 1)

/-- The operand area of a trailer (R305). -/
def opT : List Export → BitVec 43
  | [] => 0
  | [a] => (1 : BitVec 3) ++ a.code ++ (0 : BitVec 30)
  | [a, b] => (2 : BitVec 3) ++ a.code ++ b.code ++ (0 : BitVec 20)
  | [a, b, c] => (3 : BitVec 3) ++ a.code ++ b.code ++ c.code ++ (0 : BitVec 10)
  | a :: b :: c :: d :: _ => (4 : BitVec 3) ++ a.code ++ b.code ++ c.code ++ d.code

def encCvt (h : Hdr) (vd : VOp) (f : CvtForm) (rm : RMode) : Word :=
  match f with
  | .narrow dt va vb => mkWord 0x06 h (mnr (Ty.code .f32) dt) (opV vd.code va.code vb.code 0 rm)
  | .widen st va half => mkWord 0x06 h (mnr st.code .f32) (opV vd.code va.code ((0 : BitVec 9) ++ half) 0 rm)
  | .cross st dt va => mkWord 0x06 h (mnr st.code dt) (opV vd.code va.code 0 0 rm)
  | .toInt dt va => mkWord 0x06 h (mnr (Ty.code .f32) dt) (opV vd.code va.code 0 0 rm)
  | .fromInt st va => mkWord 0x06 h (mnr st.code .f32) (opV vd.code va.code 0 0 rm)

def encSmov (h : Hdr) : SMovForm → Word
  | .ss sd sa => mkWord 0x1A h 0x00 (opS sd sa (.reg 0) 0)
  | .sx xd sa => mkWord 0x1A h 0x00 (opS ((0 : BitVec 4) ++ xd) sa (.reg 0) 1)
  | .xs sd xa => mkWord 0x1A h 0x00 (opS sd ((0 : BitVec 4) ++ xa) (.reg 0) 2)

def encSrd (h : Hdr) (dst : SrdDst) (spr : Spr) : Word :=
  match dst with
  | .vec d => mkWord 0x1C h 0x00 (d.code ++ spr.code ++ spr.comp ++ (0 : BitVec 25))
  | .scal d => mkWord 0x1C h 0x00 (posS d ++ spr.code ++ spr.comp ++ (0 : BitVec 25))

/-- The word of an instruction; an event of the device has none. -/
def encode : Instr → Option Word
  | .aadd h a => some (encAtom h 0 a)
  | .aand h a => some (encAtom h 1 a)
  | .aor h a => some (encAtom h 2 a)
  | .axor h a => some (encAtom h 3 a)
  | .amax h a => some (encAtom h 4 a)
  | .amin h a => some (encAtom h 5 a)
  | .axch h a => some (encAtom h 6 a)
  | .acas h a => some (encAtom h 7 a)
  | .bar h b => some (mkWord 0x1D h 0x10 ((0 : BitVec 6) ++ b ++ (0 : BitVec 33)))
  | .bara h sc b => some (mkWord 0x1D h 0x20 ((0 : BitVec 3) ++ sc.code ++ b ++ (0 : BitVec 33)))
  | .barw h sc b => some (mkWord 0x1D h 0x30 ((0 : BitVec 3) ++ sc.code ++ b ++ (0 : BitVec 33)))
  | .cbar h b => some (mkWord 0x1D h 0x40 ((0 : BitVec 8) ++ b ++ (0 : BitVec 33)))
  | .bra h off join => some (mkWord 0x20 h 0x00 ((0 : BitVec 1) ++ off ++ join))
  | .brx h sr join => some (mkWord 0x20 h 0x10 ((0 : BitVec 1) ++ sr ++ (0 : BitVec 20) ++ join))
  | .brk h => some (mkWord 0x1E h 0x10 0)
  | .call h off => some (mkWord 0x20 h 0x20 ((0 : BitVec 1) ++ off ++ (0 : BitVec 16)))
  | .callx h sr => some (mkWord 0x20 h 0x30 ((0 : BitVec 1) ++ sr ++ (0 : BitVec 36)))
  | .end_ h => some (mkWord 0x20 h 0x50 0)
  | .fence h o sc => some (mkWord 0x1D h 0x00 (o.code ++ sc.code ++ (0 : BitVec 37)))
  | .ftinit h acc dim sk => some (mkWord 0x2C h 0x20 (acc ++ dim ++ sk ++ (0 : BitVec 29)))
  | .ftupd h acc v => some (mkWord 0x2C h 0x21 (acc ++ v.code ++ (0 : BitVec 30)))
  | .ftdnd h acc v => some (mkWord 0x2C h 0x22 (acc ++ v.code ++ (0 : BitVec 30)))
  | .ftsolv h acc v d => some (mkWord 0x2C h 0x23 (acc ++ v.code ++ (0 : BitVec 2) ++ d ++ (0 : BitVec 27)))
  | .ftldet h acc v => some (mkWord 0x2C h 0x24 (acc ++ v.code ++ (0 : BitVec 30)))
  | .ftld h acc sp sb dim off => some (mkWord 0x2C h 0x25 (acc ++ sp.code ++ sb ++ dim ++ off))
  | .ftst h acc sp sb off => some (mkWord 0x2C h 0x26 (acc ++ sp.code ++ sb ++ (0 : BitVec 5) ++ off))
  | .icinv h => some (mkWord 0x1E h 0x50 0)
  | .launch h sd sr => some (mkWord 0x2E h 0x00 (sd ++ sr ++ (0 : BitVec 31)))
  | .launchat h sd sr st => some (mkWord 0x2E h 0x01 (sd ++ sr ++ st ++ (0 : BitVec 25)))
  | .lexit h id => some (mkWord 0x1E h 0x70 ((0 : BitVec 37) ++ id))
  | .loopC h id cnt m e => some (mkWord 0x20 h 0x60 (id ++ cnt ++ m ++ e))
  | .loopW h id pk m e => some (mkWord 0x20 h 0x70 (id ++ (0 : BitVec 2) ++ pk ++ m ++ e))
  | .mcomp h t vd vm vs => some (mkWord 0x2C h 0x0A (opMx 0 vd.code vs.code vm.code 0 t))
  | .merge h m => some (mkWord 0x1D h 0x90 ((0 : BitVec 35) ++ m))
  | .mfence h sd => some (mkWord 0x2C h 0x03 (sd ++ (0 : BitVec 37)))
  | .mfree h => some (mkWord 0x2C h 0x01 0)
  | .mlda h acc sp sb off => some (mkWord 0x2C h 0x10 (acc ++ sp.code ++ sb ++ off))
  | .msta h acc sp sb off => some (mkWord 0x2C h 0x11 (acc ++ sp.code ++ sb ++ off))
  | .mlease h sd cnt tiles => some (mkWord 0x2C h 0x00 (sd ++ cnt ++ tiles ++ (0 : BitVec 26)))
  | .mma h t acc va vb fb => some (mkWord 0x2C h 0x08 (opMx acc va.code vb.code 0 fb t))
  | .mmas h t acc va vm vb fb => some (mkWord 0x2C h 0x09 (opMx acc va.code vb.code vm.code fb t))
  | .mmova h acc v q d => some (mkWord 0x2C h 0x12 (acc ++ v.code ++ q ++ d ++ (0 : BitVec 27)))
  | .mwait h sk => some (mkWord 0x2C h 0x04 (sk ++ (0 : BitVec 37)))
  | .mzero h acc => some (mkWord 0x2C h 0x02 (acc ++ (0 : BitVec 40)))
  | .nop h => some (mkWord 0x1E h 0x00 0)
  | .ovtld h sk => some (mkWord 0x1E h 0x60 (sk ++ (0 : BitVec 37)))
  | .pcanc h st => some (mkWord 0x24 h 0x30 (st ++ (0 : BitVec 37)))
  | .pcpy h st sd sa sl d s sc =>
      some (mkWord 0x24 h 0x00 (st ++ sd ++ sa ++ sl ++ d.code ++ s.code ++ sc.code ++ (0 : BitVec 10)))
  | .pfill h st sd sl sp d sc =>
      some (mkWord 0x24 h 0x10 (st ++ sd ++ sl ++ sp ++ d.code ++ (0 : BitVec 3) ++ sc.code ++ (0 : BitVec 10)))
  | .pstat h sd st => some (mkWord 0x24 h 0x20 (sd ++ st ++ (0 : BitVec 31)))
  | .regang h m => some (mkWord 0x1D h 0x80 ((0 : BitVec 35) ++ m))
  | .ret h => some (mkWord 0x20 h 0x40 0)
  | .rsst h sp sc sb w off => some (mkWord 0x11 h 0x30 (opM ⟨sp, .rlx, sc, sb⟩ ((0 : BitVec 3) ++ w) 0 off))
  | .runend c es => some (mkWord 0x2F ⟨c, 0, 0⟩ 0x00 (opT es))
  | .sadd h t sd sa b => some (mkWord 0x18 h (mnr 0 t) (opS sd sa b 0))
  | .ssub h t sd sa b => some (mkWord 0x18 h (mnr 1 t) (opS sd sa b 0))
  | .sand h t sd sa b => some (mkWord 0x18 h (mnr 2 t) (opS sd sa b 0))
  | .sor h t sd sa b => some (mkWord 0x18 h (mnr 3 t) (opS sd sa b 0))
  | .sxor h t sd sa b => some (mkWord 0x18 h (mnr 4 t) (opS sd sa b 0))
  | .sshl h t sd sa b => some (mkWord 0x18 h (mnr 5 t) (opS sd sa b 0))
  | .sshr h t sd sa b => some (mkWord 0x18 h (mnr 6 t) (opS sd sa b 0))
  | .ssra h t sd sa b => some (mkWord 0x18 h (mnr 7 t) (opS sd sa b 0))
  | .smax h t sd sa b => some (mkWord 0x18 h (mnr 8 t) (opS sd sa b 0))
  | .smin h t sd sa b => some (mkWord 0x18 h (mnr 9 t) (opS sd sa b 0))
  | .scmp h t c sd sa b => some (mkWord 0x18 h (mnr 10 t) (opS sd sa b c.code))
  | .ssel h t sd sa sb sc =>
      some (mkWord 0x18 h (mnr 11 t) (sd ++ sa ++ (0 : BitVec 1) ++ sb ++ (0 : BitVec 4) ++ sc ++ (0 : BitVec 14)))
  | .smul h t sd sa b => some (mkWord 0x19 h (mnr 0 t) (opS sd sa b 0))
  | .smulh h t sd sa b => some (mkWord 0x19 h (mnr 1 t) (opS sd sa b 0))
  | .sdiv h t sd sa b => some (mkWord 0x19 h (mnr 2 t) (opS sd sa b 0))
  | .smov h f => some (encSmov h f)
  | .smovi h sd imm => some (mkWord 0x1A h 0x10 (opS sd 0 (.imm imm) 0))
  | .shi h sd sa imm q => some (mkWord 0x1A h 0x20 (opS sd sa (.imm ((0 : BitVec 4) ++ imm)) ((0 : BitVec 2) ++ q)))
  | .slea h sd sa b sc => some (mkWord 0x1A h 0x30 (opS sd sa b sc))
  | .sclz h sd sa => some (mkWord 0x1A h 0x40 (opS sd sa (.reg 0) 0))
  | .spopc h sd sa => some (mkWord 0x1A h 0x50 (opS sd sa (.reg 0) 0))
  | .semwait h o sa sv => some (mkWord 0x2E h 0x02 (sa ++ sv ++ o.code ++ (0 : BitVec 28)))
  | .semsig h o sa sv => some (mkWord 0x2E h 0x03 (sa ++ sv ++ o.code ++ (0 : BitVec 28)))
  | .siph h st vi sb sp d s =>
      some (mkWord 0x24 h 0x40 (st ++ vi.code ++ sb ++ sp ++ d.code ++ s.code ++ (0 : BitVec 9)))
  | .sld h t m sd off => some (mkWord 0x11 h (mnr 0 t) (opM m (posS sd) 0 off))
  | .sst h t m sv off => some (mkWord 0x11 h (mnr 1 t) (opM m (posS sv) 0 off))
  | .srd h dst spr => some (encSrd h dst spr)
  | .swr h sa spr => some (mkWord 0x1C h 0x10 (posS sa ++ spr.code ++ spr.comp ++ (0 : BitVec 25)))
  | .svst h sp sc sb w off => some (mkWord 0x11 h 0x20 (opM ⟨sp, .rlx, sc, sb⟩ ((0 : BitVec 3) ++ w) 0 off))
  | .tblld h sp sb off =>
      some (mkWord 0x11 h 0x40 (sp.code ++ (0 : BitVec 6) ++ sb ++ (0 : BitVec 10) ++ (0 : BitVec 2) ++ off))
  | .tfence h => some (mkWord 0x1E h 0x40 0)
  | .trap h imm => some (mkWord 0x1E h 0x20 ((0 : BitVec 23) ++ imm))
  | .tret h => some (mkWord 0x1E h 0x30 0)
  | .vabs h t d a rm => some (mkWord 0x03 h (mnr 0 t) (opV d.code a.code 0 0 rm))
  | .vneg h t d a rm => some (mkWord 0x03 h (mnr 1 t) (opV d.code a.code 0 0 rm))
  | .vmov h d a rm => some (mkWord 0x03 h (mnr 2 .b32) (opV d.code a.code 0 0 rm))
  | .vbcast h d sa rm => some (mkWord 0x03 h (mnr 3 .b32) (opV d.code (posS sa) 0 0 rm))
  | .vact h m d a rm => some (mkWord 0x09 h (mnr m.code .f32) (opV d.code a.code 0 0 rm))
  | .vgate h m d x y rm => some (mkWord 0x0A h (mnr m.code .f32) (opV d.code x.code y.code 0 rm))
  | .vadd h t d a b rm => some (mkWord 0x01 h (mnr 0 t) (opV d.code a.code b.code 0 rm))
  | .vsub h t d a b rm => some (mkWord 0x01 h (mnr 1 t) (opV d.code a.code b.code 0 rm))
  | .vmul h t d a b rm => some (mkWord 0x01 h (mnr 2 t) (opV d.code a.code b.code 0 rm))
  | .vmax h t d a b rm => some (mkWord 0x01 h (mnr 3 t) (opV d.code a.code b.code 0 rm))
  | .vmin h t d a b rm => some (mkWord 0x01 h (mnr 4 t) (opV d.code a.code b.code 0 rm))
  | .vand h d a b rm => some (mkWord 0x02 h (mnr 0 .b32) (opV d.code a.code b.code 0 rm))
  | .vor h d a b rm => some (mkWord 0x02 h (mnr 1 .b32) (opV d.code a.code b.code 0 rm))
  | .vxor h d a b rm => some (mkWord 0x02 h (mnr 2 .b32) (opV d.code a.code b.code 0 rm))
  | .vshl h d a b rm => some (mkWord 0x02 h (mnr 3 .b32) (opV d.code a.code b.code 0 rm))
  | .vshr h d a b rm => some (mkWord 0x02 h (mnr 4 .b32) (opV d.code a.code b.code 0 rm))
  | .vsra h d a b rm => some (mkWord 0x02 h (mnr 5 .b32) (opV d.code a.code b.code 0 rm))
  | .vcmp h c t pd a b rm => some (mkWord 0x05 h (mnr c.code t) (opV (posP pd) a.code b.code 0 rm))
  | .vcvt h vd f rm => some (encCvt h vd f rm)
  | .vexpE h d a rm => some (mkWord 0x08 h (mnr 0 .f32) (opV d.code a.code 0 0 rm))
  | .vexp2 h d a rm => some (mkWord 0x08 h (mnr 1 .f32) (opV d.code a.code 0 0 rm))
  | .vlog h d a rm => some (mkWord 0x08 h (mnr 2 .f32) (opV d.code a.code 0 0 rm))
  | .vrcp h d a rm => some (mkWord 0x08 h (mnr 3 .f32) (opV d.code a.code 0 0 rm))
  | .vrsq h d a rm => some (mkWord 0x08 h (mnr 4 .f32) (opV d.code a.code 0 0 rm))
  | .vsqrt h d a rm => some (mkWord 0x08 h (mnr 5 .f32) (opV d.code a.code 0 0 rm))
  | .vfma h t d a b c rm => some (mkWord 0x04 h (mnr 0 t) (opV d.code a.code b.code c.code rm))
  | .vsel h d a b pc rm => some (mkWord 0x04 h (mnr 1 .b32) (opV d.code a.code b.code (posP pc) rm))
  | .vld h t m v off => some (mkWord 0x10 h (mnr 0 t) (opM m v.code 0 off))
  | .vst h t m v rm off => some (mkWord 0x10 h (mnr 1 t) (opM m v.code rm.code off))
  | .vgth h t m v vi off => some (mkWord 0x10 h (mnr 2 t) (opMX m v.code vi.code off))
  | .vsct h t m v vi off => some (mkWord 0x10 h (mnr 3 t) (opMX m v.code vi.code off))
  | .vldt h t v sk so =>
      some (mkWord 0x10 h (mnr 4 t) ((0 : BitVec 9) ++ sk ++ v.code ++ so ++ (0 : BitVec 12)))
  | .vstt h t v sk so =>
      some (mkWord 0x10 h (mnr 5 t) ((0 : BitVec 9) ++ sk ++ v.code ++ so ++ (0 : BitVec 12)))
  | .vlut h t d a rm => some (mkWord 0x0F h (mnr 4 t) (opV d.code a.code 0 0 rm))
  | .vmoms h sd a pm sk rm => some (mkWord 0x0E h (mnr 3 .f32) (opV (posS sd) a.code (posP pm) (posS sk) rm))
  | .vpkn h t d a s rm => some (mkWord 0x07 h (mnr 0 t) (opV d.code a.code s.code 0 rm))
  | .vupn h t d a s rm => some (mkWord 0x07 h (mnr 1 t) (opV d.code a.code s.code 0 rm))
  | .vshfl h d a i sk rm => some (mkWord 0x0D h (mnr 0 .b32) (opV d.code a.code i.code (posS sk) rm))
  | .vvote h sd pa sk rm => some (mkWord 0x0D h (mnr 1 .none) (opV (posS sd) (posP pa) (posS sk) 0 rm))
  | .vrank h d sa sk rm => some (mkWord 0x0D h (mnr 2 .none) (opV d.code (posS sa) (posS sk) 0 rm))
  | .vred h o t sd a sk rm => some (mkWord 0x0B h (mnr o.code t) (opV (posS sd) a.code (posS sk) 0 rm))
  | .vscan h o t d a sk rm => some (mkWord 0x0C h (mnr o.code t) (opV d.code a.code (posS sk) 0 rm))
  | .vrng h t w d sc rm => some (mkWord 0x0F h (mnr ((0 : BitVec 2) ++ w) t) (opV d.code (posS sc) 0 0 rm))
  | .vsmax h sd a pm sk rm => some (mkWord 0x0E h (mnr 0 .f32) (opV (posS sd) a.code (posP pm) (posS sk) rm))
  | .vsexp h d a ss sm sk pm =>
      some (mkWord 0x0E h (mnr 1 .f32) (d.code ++ a.code ++ ss ++ sm ++ sk ++ pm ++ (0 : BitVec 1)))
  | .vsdiv h d a ss pm rm => some (mkWord 0x0E h (mnr 2 .f32) (opV d.code a.code (posS ss) (posP pm) rm))
  | .wait h l s c g m => some (mkWord 0x1D h 0x50 ((0 : BitVec 3) ++ l ++ s ++ c ++ g ++ m))
  | .waitp h p sk => some (mkWord 0x1D h 0x60 (p.code ++ sk ++ (0 : BitVec 34)))
  | .xclr h w => some (mkWord 0x2D h 0x03 ((0 : BitVec 41) ++ w))
  | .xlfs h v => some (mkWord 0x2D h 0x02 (v.code ++ (0 : BitVec 33)))
  | .xlsp h v => some (mkWord 0x2D h 0x01 (v.code ++ (0 : BitVec 33)))
  | .xv h vd vw f => some (mkWord 0x2D h 0x00 (opX vd vw f))
  | .xvn h n vd vw f => some (mkWord 0x2D h ((1 : BitVec 4) ++ n) (opX vd vw f))
  | .yield h => some (mkWord 0x1D h 0x70 0)
  | .barrierComplete _ _ _ | .timedLaunchRelease _ | .engineOpRun _ | .engineMemoryReturn _ _ | .batchCommit _ _
  | .pumpPieceDone _ _ _ _ | .semwaitRecheck _ | .siphonGatherDone _ _ _ | .tblldSwitch _ | .runFetch _ _ _
  | .runStart _ _ | .spillFillReturn _ _ _ | .linkageReturn _ _ | .loadReturn _ _ _ _ | .storePerformed _ _ _ _
  | .accessResolve _ _ _ | .scaleReadReturn _ _ _ | .groupLoadDone _ _ | .groupFree _ _ | .teamEnd _
  | .launchComplete _ | .dispatchBatch _ | .teamPlace _ | .clusterPlace _ | .powerWake _ | .activityEstimate _ _
  | .arbiterInterval _ _ | .preemptRequest _ _ | .preemptWithdraw _ | .drainDeadline _ | .windowExpiry _
  | .clusterParked _ | .teamSave _ | .teamDiscard _ | .sumpResume _ | .sumpKill _ | .streamStart _ _
  | .partitionReset _ | .partitionResetDone _ | .xlinv _ | .tseed _ | .timeLock _ | .acttime _ _
  | .slotTableSwitch _ | .linkDownTimeout _ | .errorLogClear _ | .rewriterStart _ | .rewriterDone | .coldStart _ _
  | .warmStart _ | .registerWrite _ _ _ | .scFenceGrant _ _ | .l1DirtyWriteback _ _ _ | .runBufferEviction _ _
  | .peerAccess _ _ | .unassignedEncoding _ | .linkDown _ | .linkUp _ | .linkFlitResend _ | .slotBoundary _
  | .ieee1588EventMessage _ | .timeLockLoss | .softError _ _ | .tenantCreate _ | .tenantTeardown _
  | .firmwareResourceAssign _ _ | .attestationQuote _ => none

end Sys2Proof
end

