-- ==== Sys2Proof/Machine/Ops.lean ====
section
/-! DEFINITION. The named operations over registers, what a word's issue comes to, the end of a team and the start of its save,
taking an exception and returning from one. -/

namespace Sys2Proof.Machine

open Sys2Proof

/-! Registers. -/

/-- Keys of load destinations in `Arch.pend`. -/
def vecKey (r lane : Nat) : Nat := 32 * r + lane
def tempKey (t lane : Nat) : Nat := 16384 + 32 * t + lane
def scalKey (r : Nat) : Nat := 32768 + r

/-- A write of a destination by a word: data that an earlier load has still to return to it is discarded (R403, R429). -/
def Arch.overwrite (a : Arch) (key : Nat) : Arch :=
  match a.pend with
  | [] => a
  | _ => { a with pend := a.pend.filter fun p => p.2 != key }

/-- Scalar register r; s0 reads 0 (R32). -/
def Arch.getS (a : Arch) (r : BitVec 6) : SReg := if r = 0 then {} else Store.get a.sregs r.toNat

/-- A write to a scalar register; a write to s0 is discarded (R298). -/
def Arch.putS (a : Arch) (r : BitVec 6) (v : SReg) : Arch :=
  if r = 0 then a else { a with sregs := Store.put a.sregs r.toNat v }
def Arch.setS (a : Arch) (r : BitVec 6) (v : Word) : Arch :=
  (a.putS r ⟨v, false, false⟩).overwrite (scalKey r.toNat)

/-- The value of a scalar register. -/
def Arch.valS (a : Arch) (r : BitVec 6) : Word := (a.getS r).bits

/-- Index register k, bits 7:0; x0 stands for no index (R297). -/
def Arch.getX (a : Arch) (k : BitVec 2) : BitVec 8 := if k = 0 then 0 else Store.get a.xregs k.toNat
def Arch.setX (a : Arch) (k : BitVec 2) (v : BitVec 8) : Arch :=
  if k = 0 then a else { a with xregs := Store.put a.xregs k.toNat v }

/-- Predicate k; p0 is all ones (R32). -/
def Arch.getP (a : Arch) (k : BitVec 4) : Mask := if k = 0 then 0xFFFFFFFF else Store.get a.preds k.toNat
def Arch.setP (a : Arch) (k : BitVec 4) (v : Mask) : Arch :=
  if k = 0 then a else { a with preds := Store.put a.preds k.toNat v }

/-- Element of a vector register. -/
def Arch.getV (a : Arch) (r lane : Nat) : Elt := Store.get a.vregs (vecKey r lane)
def Arch.putV (a : Arch) (r lane : Nat) (e : Elt) : Arch := { a with vregs := Store.put a.vregs (vecKey r lane) e }
def Arch.setV (a : Arch) (r lane : Nat) (e : Elt) : Arch := (a.putV r lane e).overwrite (vecKey r lane)

/-- Element of a run temporary. -/
def Arch.getT (a : Arch) (t lane : Nat) : Elt := Store.get a.temps (32 * t + lane)
def Arch.putT (a : Arch) (t lane : Nat) (e : Elt) : Arch := { a with temps := Store.put a.temps (32 * t + lane) e }
def Arch.setT (a : Arch) (t lane : Nat) (e : Elt) : Arch := (a.putT t lane e).overwrite (tempKey t lane)

/-- Lane stack slot i of a lane, its pointer and its LFS (R223, R226). -/
def Arch.getStk (a : Arch) (lane i : Nat) : Elt := Store.get a.stk (8 * lane + i)
def Arch.setStk (a : Arch) (lane i : Nat) (e : Elt) : Arch := { a with stk := Store.put a.stk (8 * lane + i) e }
def Arch.getSp (a : Arch) (lane : Nat) : Nat := (Store.get a.sps lane).toNat
def Arch.setSp (a : Arch) (lane n : Nat) : Arch := { a with sps := Store.put a.sps lane (BitVec.ofNat 4 n) }
def Arch.getLfs (a : Arch) (lane : Nat) : BitVec 8 := Store.get a.lfs lane
def Arch.setLfs (a : Arch) (lane : Nat) (v : BitVec 8) : Arch := { a with lfs := Store.put a.lfs lane v }

/-! Causes and traps. -/

/-- Cause codes (R241). -/
def Cause.code : Cause → Nat
  | .undef => 0x01 | .undefmaj => 0x02 | .runbad => 0x03 | .priv => 0x04 | .regbound => 0x05 | .fetch => 0x06
  | .pcwrap => 0x07 | .loopmax => 0x08 | .brkpt => 0x09 | .swtrap => 0x0A | .memxlate => 0x10 | .memperm => 0x11
  | .spbound => 0x12 | .valve => 0x13 | .align => 0x14 | .poison => 0x15 | .detxatom => 0x16 | .member => 0x17
  | .lanefault => 0x18 | .arith => 0x20 | .deflost => 0x21 | .batcherr => 0x22 | .preempt => 0x30

/-- Whether TRET resumes at the word after EPC (R241). -/
def Cause.skips : Cause → Bool
  | .brkpt | .swtrap | .arith => true
  | _ => false

/-- Completion status codes (R243). -/
def EndStatus.code : EndStatus → Nat
  | .retired => 0 | .trap => 1 | .double => 2 | .tretbad => 3 | .sumpbad => 4 | .killed => 5 | .ctlerr => 6
  | .sumpfull => 7 | .sumpfault => 8

/-- A trap: cause, EINFO, and the fields of ECAUSE that the cause does not fix (R247). -/
structure Trap where
  cause : Cause
  einfo : Word
  space : Nat := 0
  engine : Bool := false
  ticket : Nat := 0
  /-- The entry that raised VALVE: the core of its table, its owner, its command (R242). -/
  conflict : Option (Nat × Nat × Nat) := none
  deriving DecidableEq, Repr

/-- ECAUSE of a trap (R247). -/
def ecauseOf (t : Trap) (privd : Bool) : Word :=
  BitVec.ofNat 64 (t.ticket * 2 ^ 16 + (if privd then 2 ^ 12 else 0) + (if t.engine then 2 ^ 11 else 0) + t.space * 2 ^ 8
    + t.cause.code)

/-- What a word's issue comes to. -/
inductive Eff where
  /-- It takes effect, and the next word of its run follows. -/
  | done (s : State)
  /-- It takes effect, and its candidate leaves the port, held. -/
  | leave (s : State) (h : Hold)
  /-- It takes effect, its candidate is held if a hold is named, and it is a deterministic switch point: a run it stands inside is
  suspended (R38, R48). -/
  | switch (s : State) (h : Hold)
  /-- It does not issue: its candidate leaves the port, held at it (R68). -/
  | stall (h : Hold)
  /-- It does not issue yet and holds its port (R38). -/
  | retry
  /-- It traps with no effect (R41). -/
  | trap (t : Trap)
  /-- It traps after its effect (R227). -/
  | trapAfter (s : State) (t : Trap)
  /-- It has set the state that follows by itself. -/
  | final (s : State)

/-- Goes on unless a check failed. -/
def guardTrap (c : Option Trap) (k : Eff) : Eff :=
  match c with
  | some t => .trap t
  | none => k

/-- The first failing check of several, in order. -/
def firstTrap (l : List (Option Trap)) : Option Trap := l.findSome? id

def checkThat (ok : Bool) (t : Trap) : Option Trap := if ok then none else some t

/-- UNDEF with the instruction word in EINFO (R249). -/
def State.undef (s : State) : Trap := { cause := .undef, einfo := s.curWord }
def State.privTrap (s : State) : Trap := { cause := .priv, einfo := s.curWord }

/-! Guards (R294, R295). -/

/-- GUARD 0 with GNEG 1 (R295). -/
def badGuard (h : Hdr) : Bool := h.guard == 0 && h.gneg == 1

/-- Whether the header names p0, uncomplemented (R296). -/
def plainGuard (h : Hdr) : Bool := h.guard == 0 && h.gneg == 0

/-- The lanes whose guard is true. -/
def guardMask (a : Arch) (h : Hdr) : Mask := if h.gneg = 1 then ~~~(a.getP h.guard) else a.getP h.guard

/-- The active lanes of the current candidate. -/
def State.activeMask (s : State) : Mask := s.cur.arch.activeOf s.curCand.slices

/-- The executing lanes: active and guard true (R68). -/
def State.execMask (s : State) (h : Hdr) : Mask := s.activeMask &&& guardMask s.cur.arch h

/-- The lanes of a mask. -/
def lanes (m : Mask) : List Nat := bitsOf m

/-- A word of groups and streams: the guard is checked, and k gets the executing lanes. -/
def anyWord (s : State) (h : Hdr) (k : Mask → Eff) : Eff := if badGuard h then .trap s.undef else k (s.execMask h)

/-- A word that a command stream may not hold (R274). -/
def groupWord (s : State) (h : Hdr) (k : Mask → Eff) : Eff := if s.inStream then .trap s.undef else anyWord s h k

/-- A word that takes effect when its guard is true in at least one executing lane, and else does nothing (R295). -/
def whenAny (s : State) (m : Mask) (k : Eff) : Eff := if m = 0 then .done s else k

/-- Such a word of groups and streams. -/
def scalarWord (s : State) (h : Hdr) (k : Eff) : Eff := anyWord s h fun m => whenAny s m k

/-- Such a word of groups only. -/
def groupScalarWord (s : State) (h : Hdr) (k : Eff) : Eff := groupWord s h fun m => whenAny s m k

/-- A word that issues only when its candidate holds every slice with a lane not exited, else waits at it (R197, R344, R438). -/
def ganged (s : State) (k : Eff) : Eff :=
  if s.cur.arch.liveSlices &&& ~~~s.curCand.slices = 0 then k else .stall (.convergent 0xFFFFFFFF)

/-- A word that must carry p0 (R296). -/
def plainWord (s : State) (h : Hdr) (k : Eff) : Eff := if plainGuard h then k else .trap s.undef

/-! Accesses that have not passed their checks (R250). -/

/-- The accesses that have passed their checks; those of a stream that has been stopped go no further (R273, R293). -/
def Group.checkedAccesses (g : Group) : List Access := g.aq.filter (·.resolved)

/-- Whether the group holds a memory word that is still unresolved. -/
def Group.unresolved (g : Group) : Bool := g.aq.any fun x => !x.resolved

/-- Words whose effects the journal does not record wait, on their port, until older memory words have resolved (R250, log 15). -/
def afterResolved (s : State) (k : Eff) : Eff := if s.cur.unresolved then .retry else k

/-! The end of a team and the start of a save. -/

/-- The Pump commands of a team's groups are cancelled and their pending reports dropped (R243, R266). -/
def State.dropTeamWork (s : State) (t : Nat) : State :=
  let v := s.team t
  v.slots.foldl (fun (u : State) k =>
    let g := u.group v.core k
    if g.team = t && (!g.cmds.isEmpty || !g.reports.isEmpty) then
      u.setGroup v.core k { g with cmds := g.cmds.map (fun c => { c with cancel := true }), reports := [] }
    else u) s

/-- Whether reports of a team's engine work are dropped: it is ended or discarded (R243, R266). -/
def Team.dropsWork (t : Team) : Bool := t.ending.isSome || t.st == TeamState.discarding

/-- A team begins to end with a status (R243); the first one stands. -/
def State.endTeam (s : State) (t : Nat) (st : EndStatus) (ecause epc einfo : Word) : State :=
  let v := s.team t
  match v.ending with
  | some _ => s
  | none => (s.setTeam t { v with ending := some (st, ecause, epc, einfo) }).dropTeamWork t

/-- Every team of a cluster that is resident starts to be saved (R43, R254). -/
def State.saveCluster (s : State) (c kd : Nat) : State :=
  ((s.cluster c).teams).foldl (fun u t =>
    u.modTeam t fun v => if v.st == TeamState.resident then { v with st := TeamState.saving, kind := kd } else v) s

/-- A route S fault of the current group: its team and cluster are saved with KIND 1, or 5 when a decision is in force; under
decision 2 it is not taken (R242, R254, R264). -/
def State.faultSave (s : State) (idx : Nat) (ecause epc einfo : Word) : State :=
  let t := s.cur.team
  let c := (s.team t).cluster
  match (s.cluster c).decision with
  | some 2 => s
  | d =>
    let s1 := s.modTeam t fun v => { v with fault := some (v.fault.getD (idx, ecause, epc, einfo)) }
    let s2 := s1.saveCluster c (if d.isSome then 5 else 1)
    if d.isSome then (s.cluster c).teams.foldl (fun (u : State) k =>
      u.modTeam k fun v => if v.st == TeamState.saving && v.kind != 1 then { v with kind := 5 } else v) s2
    else s2

/-! Taking an exception (R242, R244, R246, R274). -/

/-- Whether a cause takes route S in a group (R241, R242). -/
def routeS (t : Trap) (memh : Bool) (tbase : Addr) : Bool :=
  match t.cause with
  | .fetch => true
  | .memxlate | .memperm => !t.engine && (!memh || tbase == 0)
  | _ => false

/-- Stack depths of the slices of a candidate (R245). -/
def depthsOf (a : Arch) (set : BitVec 8) : List (Nat × Nat × Nat) :=
  (bitsOf set).map fun sl =>
    let v := a.slice sl
    (v.div.length + v.divSpill, v.ret.length + v.retSpill, v.loops.length)

/-- The temporaries of a set of slices, and the others. -/
def tempsIn (t : Store Elt) (set : BitVec 8) : Store Elt := t.filter fun e => bit set (e.1 % 32 / 4)
def tempsOut (t : Store Elt) (set : BitVec 8) : Store Elt := t.filter fun e => !(bit set (e.1 % 32 / 4))

/-- The candidate of slice low, of the current group, enters handler mode at TBASE (R244). -/
def enterHandler (g : Group) (low : Nat) (pc : Addr) (t : Trap) (tbase : Addr) (hpriv : Bool) (execs : Mask)
    (ecause : Word) : Group :=
  let c := g.arch.cand low
  let h : Handler :=
    { privd := hpriv, cand := low, slices := c.slices, cause := t.cause, epc := pc.setWidth 64, run := c.run, started := c.started,
      shadow := tempsIn g.arch.temps c.slices, depths := depthsOf g.arch c.slices, execs := execs,
      switched := c.switched, yielding := c.yielding }
  let a := { g.arch with temps := tempsOut g.arch.temps c.slices }
  let a := (bitsOf c.slices).foldl (fun b sl => b.modSlice sl fun v => { v with pc := tbase, moved := false }) a
  let fresh (d : Cand) : Cand :=
    { d with run := none, started := false, settled := true, hold := .none, readyAt := none, switched := false,
             yielding := false, fenced := false }
  let a := a.setCand low fresh
  { g with arch := a, epc := pc.setWidth 64, ecause := ecause, einfo := t.einfo, handler := some h }

/-- The port of a slot is no longer in the middle of a run of the candidate. -/
def State.releasePort (s : State) (n k low : Nat) : State :=
  s.modCore n fun c => c.setPort (k % 4)
    (let p := c.port (k % 4); if p.cur = some (k, low) then { p with cur := none } else p)

/-- The current slot's reservation of a context is given up (R195). -/
def State.dropReservation (s : State) : State :=
  (List.range 4).foldl (fun (u : State) x =>
    if (u.ctx u.curCore x).reserved == some u.curSlot then u.modCtx u.curCore x fun c => { c with reserved := none } else u) s

/-- A candidate waits at its word until the entry that raised VALVE is removed (R242, log 69). -/
def waitForEntry (t : Trap) (c : Cand) : Cand :=
  match t.conflict with
  | some (n, owner, seq) => { c with hold := .valve n owner seq, readyAt := none }
  | none => c

/-- Taking an exception: the trap t of the candidate of slice low in slot k of core n, at the word pc. Streams stop (R274). A trap of route S
in handler mode leaves the handler's EPC, ECAUSE and EINFO as they stand: the model's choice (R246, log 122). -/
def takeTrapAt (s : State) (pc : Addr) (t : Trap) (execs : Mask) : State :=
  let ec := ecauseOf t s.privd
  match s.agent with
  | .stream k => if (s.stream k).state = 0 then s else s.modStream k fun v =>
      { v with state := 3, cause := BitVec.ofNat 8 t.cause.code, hold := .none,
               grp := { v.grp with epc := pc.setWidth 64, ecause := ec, einfo := t.einfo } }
  | .group n k low =>
    let g := s.group n k
    let l := s.curLaunch
    let memh := bit g.trapen 16
    let s := s.releasePort n k low
    if (s.team g.team).ending.isSome then s
    else if routeS t memh l.info.tbase then
      let s := if g.handler.isSome then s else s.modGroup n k fun g => { g with epc := pc.setWidth 64, ecause := ec, einfo := t.einfo }
      s.faultSave g.index ec (pc.setWidth 64) t.einfo
    else if g.handler.isSome then s.endTeam g.team .double ec (pc.setWidth 64) t.einfo
    else if l.info.tbase = 0 then
      (if t.cause = .valve then s.modCand (waitForEntry t)
       else s.endTeam g.team .trap ec (pc.setWidth 64) t.einfo)
    else s.modGroup n k fun g => enterHandler g low pc t l.info.tbase l.info.hpriv execs ec

/-- The work of a word that traps without effect counts no more (R91, log 90). -/
def State.dropWork (s : State) (t : Trap) : State :=
  match s.agent with
  | .group n k _ => if t.cause = .lanefault then s else s.modCore n fun c => c.setPort (k % 4) { c.port (k % 4) with work := [] }
  | .stream _ => s

/-- Taking an exception at the word being issued, which gives up a context that its run has reserved (R41, R195). -/
def takeTrap (s : State) (t : Trap) : State :=
  takeTrapAt (s.dropReservation.dropWork t) s.pc t (s.curRun.resume.getD s.activeMask)

/-! Return from an exception (R245, R227). -/

/-- The run that TRET goes on with: after the word, at a trap whose TRET resumes at EPC + 8 (R241); with the lanes of EINFO, after
LANEFAULT (R227); else at the word, which keeps the lanes that an earlier LANEFAULT restricted it to (R41). After a second LANEFAULT of a
word the mask may widen to the lanes of its last execution, not of its first: the model's choice (log 121). -/
def resumeRun (h : Handler) (einfo : Word) : Option Run :=
  h.run.map fun r =>
    if h.cause.skips then { r with pos := r.pos + 1, resume := none }
    else if h.cause = .lanefault then { r with resume := some (h.execs &&& einfo.setWidth 32) }
    else r

/-- Leaving handler mode: the interrupted run goes on inside itself, with its temporaries, or a run starts at a changed EPC, or again
where the trap was taken at a run start, PREEMPT among them, with all that a run start does (R54, R245, R265). -/
def leaveHandler (g : Group) (h : Handler) (low : Nat) : Group :=
  let c := g.arch.cand low
  let same := g.epc = h.epc
  let r := if same && h.started then resumeRun h g.einfo else none
  let pc : Addr := match r with
    | some r => r.start
    | none => (if same && h.cause.skips then g.epc + 8 else g.epc).setWidth 57
  let a := g.arch
  let a := { a with temps := Store.putAll (tempsOut a.temps c.slices) (if r.isSome then h.shadow else []) }
  let a := (bitsOf c.slices).foldl (fun b sl => b.modSlice sl fun v => { v with pc := pc, moved := false }) a
  let a := a.setCand low fun d =>
    { d with run := r, started := r.isSome, settled := r.isSome, hold := .none, readyAt := none,
             switched := r.isSome && !h.cause.skips && h.switched, yielding := r.isSome && h.yielding }
  { g with arch := a, handler := none }

/-! Going on after a word. -/

/-- Whether the words of the current candidate are not counted in RETIRED: it runs a PREEMPT handler (R83, R265). -/
def State.uncounted (s : State) : Bool :=
  match s.cur.handler with
  | some h => h.cause = .preempt && s.curCand.slices &&& h.slices != 0
  | none => false

/-- RETIRED counts the word of the current candidate, or takes the count of one back that traps (R83). -/
def State.countWord (s : State) : State := if s.uncounted then s else s.modArch fun a => { a with retired := a.retired + 1 }
def State.uncountWord (s : State) : State := if s.uncounted then s else s.modArch fun a => { a with retired := a.retired - 1 }

/-- The word is done: RETIRED counts it, and the next word of the run follows (R83). -/
def State.retire (s : State) : State :=
  s.modCur fun g =>
    let a := if s.uncounted then g.arch else { g.arch with retired := g.arch.retired + 1 }
    { g with arch := a.setCand s.curLow fun c =>
        { c with run := c.run.map fun r => { r with pos := r.pos + 1, resume := none }, switched := false, fenced := false } }

/-- The candidate leaves its port and is held. -/
def State.holdCand (s : State) (h : Hold) : State :=
  (s.modCand fun c => { c with hold := h, readyAt := none }).releasePort s.curCore s.curSlot s.curLow

/-- The execute windows that the word being issued was charged: one for each step of an XVN, else one (R77, R453). -/
def State.windowsCharged (s : State) : Nat :=
  match decode s.curWord with
  | .ok (.xvn _ n _ _ _) => n.toNat + 1
  | _ => 1

/-- A word that does not issue now: its execute windows are taken back, and its port is held for n strokes more (R38, R77). -/
def State.uncharge (s : State) (n : Nat) : State :=
  match s.agent with
  | .group c k _ => s.modCore c fun v =>
      { v.setPort (k % 4) { v.port (k % 4) with busy := n, word := none, work := [] } with windows := v.windows.drop s.windowsCharged }
  | .stream _ => s

/-- A word that has not issued yet holds its port for another stroke (R38). -/
def State.hold1 (s : State) : State := s.uncharge 1

/-- The word holds its port for n strokes more, and its execute window is extended by them (R77, R136). -/
def State.longer (s : State) (n : Nat) : State :=
  match s.agent with
  | .group c k _ => s.modCore c fun v =>
      let p := v.port (k % 4)
      { v.setPort (k % 4) { p with busy := p.busy + n } with
        windows := modNth v.windows 0 fun w => { w with left := w.left + n } }
  | .stream _ => s

/-- Whether a slice of the current candidate, as state s1 has it, falls through the run to 2^57 (R74). -/
def State.fallsOut (s s1 : State) : Bool :=
  s.curRun.trailerAddr + 8 == 0 && (bitsOf s.curCand.slices).any fun sl =>
    let v := s1.cur.arch.slice sl
    v.active != 0 && !v.moved

/-- PCWRAP at the last word of a run after which a slice would fall through to 2^57 (R74). -/
def State.wrapTrap (s s1 : State) : Option Trap :=
  if s.curRun.pos + 1 = s.curRun.words.length ∧ s.fallsOut s1 then some { cause := .pcwrap, einfo := 0 } else none

/-- A trap at the word waits until every older memory word has passed its checks, so that the oldest faulting access decides (R251,
log 15). -/
def State.trapOr (s : State) (t : Option Trap) (k : State) : State :=
  match t with
  | some t => if s.cur.unresolved then s.hold1 else takeTrap s t
  | none => k

/-- A deterministic switch after a word (R38, R48). -/
def switchAfter (s0 s1 : State) (h : Hold) : State :=
  let t := s1.retire
  if h != .none then (t.holdCand h).switchPoint
  else if s0.det && !s0.atLastWord then (t.holdCand .suspended).switchPoint
  else t.switchPoint

/-- A deterministic switch before a word: taken once, the word issues when the group is made current again (R48). -/
def switchBefore (s : State) (k : Eff) : Eff :=
  if s.det && !s.curCand.switched then
    .final (((s.uncharge 0).modCand fun c => { c with switched := true, readyAt := none }).releasePort s.curCore s.curSlot s.curLow).switchPoint
  else k

/-- The state after a word's issue. -/
def settleEff (s : State) (e : Eff) : State :=
  match e with
  | .done s' => s.trapOr (s.wrapTrap s') s'.retire
  | .leave s' h => s.trapOr (s.wrapTrap s') (s'.retire.holdCand h)
  | .switch s' h => s.trapOr (s.wrapTrap s') (switchAfter s s' h)
  | .stall h => (s.uncharge 0).holdCand h
  | .retry => s.hold1
  | .trap t => s.trapOr (some t) s
  | .trapAfter s' t => if s.cur.unresolved then s.hold1 else takeTrap s' t
  | .final s' => s'

/-- A word's outcome: every word answers a next state. -/
def finish (s : State) (e : Eff) : Host.Outcome State Fault Refusal := .next (settleEff s e)

/-- An event's outcome: when it is not enabled nothing happens. -/
def event (s : State) (o : Option State) : Host.Outcome State Fault Refusal := .next (o.getD s)

end Sys2Proof.Machine
end

