-- ==== Sys2Proof/Machine/Operands.lean ====
section
/-! DEFINITION. Operand forms: vector operand fields and temporaries (R297), scalar operands and immediates (R301, R394), the
REGBOUND and POISON checks that come with them (R249, R420), and the mould of element-wise words. -/

namespace Sys2Proof.Machine

open Sys2Proof

/-! Vector operands (R297). -/

/-- What a vector operand field names. -/
inductive VRef where
  | reg (n : Nat)
  | temp (t : Nat)
  deriving DecidableEq, Repr

/-- The effective register of a vector operand field (R297). -/
def effReg (a : Arch) (v : VOp) : Nat := v.base.toNat + (a.getX v.idx).toNat

/-- A run temporary, or the effective register (R297). -/
def vref (a : Arch) (v : VOp) : VRef := if v.isTemp then .temp (v.base.toNat - 0xF8) else .reg (effReg a v)

/-- The element of a reference in a lane. -/
def Arch.getRef (a : Arch) (r : VRef) (lane : Nat) : Elt :=
  match r with
  | .reg n => a.getV n lane
  | .temp t => a.getT t lane

/-- A write of an element of a reference. -/
def Arch.setRef (a : Arch) (r : VRef) (lane : Nat) (e : Elt) : Arch :=
  match r with
  | .reg n => a.setV n lane e
  | .temp t => a.setT t lane e

/-- Writes of elements of a reference, each with its lane. -/
def Arch.setLanes (a : Arch) (r : VRef) (es : List (Nat × Elt)) : Arch := es.foldl (fun b e => b.setRef r e.1 e.2) a

/-- Clean results in lanes. -/
def Arch.writeLanes (a : Arch) (r : VRef) (es : List (Nat × Lane)) : Arch :=
  a.setLanes r (es.map fun e => (e.1, ⟨e.2, false⟩))

/-! REGBOUND (R249). -/

/-- EINFO of REGBOUND: operand kind, position from the left, effective register or tile. -/
def regboundTrap (kind opnd reg : Nat) : Trap :=
  { cause := .regbound, einfo := BitVec.ofNat 64 (kind * 2 ^ 12 + opnd * 2 ^ 9 + reg) }

/-- REGBOUND when a register of a range [r, r + n) is at or above ALLOT: the lowest such register is named. -/
def boundRange (allot opnd r n : Nat) : Option Trap :=
  if r + n ≤ allot then none else some (regboundTrap 0 opnd (max r allot))

/-- REGBOUND of a single-register operand; a temporary is never checked (R297). -/
def boundRef (allot opnd : Nat) (r : VRef) : Option Trap :=
  match r with
  | .reg n => boundRange allot opnd n 1
  | .temp _ => none

/-! POISON (R249, R270). -/

/-- EINFO of POISON. -/
def poisonTrap (m : Mask) (kind reg : Nat) : Trap :=
  { cause := .poison, einfo := m.setWidth 64 <<< 32 ||| BitVec.ofNat 64 (kind * 2 ^ 13 + reg) }

/-- The lanes of m whose element of a reference is poisoned. -/
def poisonedLanes (a : Arch) (r : VRef) (m : Mask) : Mask :=
  maskOf 32 ((lanes m).filter fun l => (a.getRef r l).poison)

/-- POISON when a lane of m reads a poisoned element (R270). -/
def poisonRef (a : Arch) (r : VRef) (m : Mask) : Option Trap :=
  let p := poisonedLanes a r m
  if p = 0 then none else
    some (match r with
      | .reg n => poisonTrap p 0 n
      | .temp t => poisonTrap p 3 t)

/-- POISON of a scalar register whose low half, or either half, is read. -/
def poisonLo (a : Arch) (r : BitVec 6) : Option Trap :=
  if (a.getS r).lo then some (poisonTrap 0xFFFFFFFF 1 r.toNat) else none
def poisonHi (a : Arch) (r : BitVec 6) : Option Trap :=
  if (a.getS r).hi then some (poisonTrap 0xFFFFFFFF 1 r.toNat) else none
def poisonS (a : Arch) (r : BitVec 6) : Option Trap :=
  if (a.getS r).lo || (a.getS r).hi then some (poisonTrap 0xFFFFFFFF 1 r.toNat) else none

/-! The mould of element-wise words (R420): the checks in order, then the results of the executing lanes and their flags. -/

/-- The register references of several operands with their positions from the left. -/
def boundAll (allot : Nat) (rs : List VRef) (from_ : Nat) : Option Trap :=
  firstTrap (rs.zipIdx.map fun p => boundRef allot (from_ + p.2) p.1)

/-- An element-wise word of one to three vector sources. f gives a lane's result and flags from its source values. -/
def vecWord (s : State) (h : Hdr) (vd : VOp) (srcs : List VOp) (sread : Option (BitVec 6))
    (f : Arch → Nat → List Lane → Lane × Flags) : Eff :=
  groupWord s h fun m =>
    let g := s.cur
    let a := g.arch
    let d := vref a vd
    let rs := srcs.map (vref a)
    guardTrap (firstTrap [boundAll g.allot (d :: rs) 0,
        firstTrap (rs.map fun r => poisonRef a r m),
        if m = 0 then none else sread.bind (poisonLo a)])
      (let res := (lanes m).map fun l => (l, f a l (rs.map fun r => (a.getRef r l).bits))
       .done (s.modArch fun b =>
         (b.writeLanes d (res.map fun p => (p.1, p.2.1))).raise (orFlags (res.map fun p => p.2.2))))

/-- The moulds for one, two and three sources. -/
def vec1 (s : State) (h : Hdr) (vd va : VOp) (f : Lane → Lane × Flags) : Eff :=
  vecWord s h vd [va] none fun _ _ xs => match xs with
    | x :: _ => f x
    | [] => (0, fNone)

def vec2 (s : State) (h : Hdr) (vd va vb : VOp) (f : Lane → Lane → Lane × Flags) : Eff :=
  vecWord s h vd [va, vb] none fun _ _ xs => match xs with
    | x :: y :: _ => f x y
    | _ => (0, fNone)

def vec3 (s : State) (h : Hdr) (vd va vb vc : VOp) (f : Lane → Lane → Lane → Lane × Flags) : Eff :=
  vecWord s h vd [va, vb, vc] none fun _ _ xs => match xs with
    | x :: y :: z :: _ => f x y z
    | _ => (0, fNone)

/-! Scalar operands (R301, R394). -/

/-- The width of a scalar type (R394). -/
def scalarWidth (t : Ty) : Nat :=
  match t with
  | .s32 | .z32 => 32
  | _ => 64

/-- The second operand of a format S word: a register, or the immediate sign-extended (R394). -/
def srcVal (a : Arch) (b : SSrc) : Word :=
  match b with
  | .reg sb => a.valS sb
  | .imm v => v.signExtend 64

/-- POISON of a source, of its low half only under a 32-bit type (R394). -/
def poisonTy (a : Arch) (t : Ty) (r : BitVec 6) : Option Trap := if scalarWidth t = 32 then poisonLo a r else poisonS a r
def poisonSrc (a : Arch) (t : Ty) (b : SSrc) : Option Trap :=
  match b with
  | .reg sb => poisonTy a t sb
  | .imm _ => none

/-- A 32-bit result as it is written to a scalar register (R394). -/
def extend32 (t : Ty) (r : BitVec 32) : Word :=
  match t with
  | .s32 => r.signExtend 64
  | _ => r.setWidth 64

/-- The mould of the integer words of majors 0x18 and 0x19 (R394): one function for each width. -/
def intWord (s : State) (h : Hdr) (t : Ty) (sd sa : BitVec 6) (b : SSrc)
    (f32 : BitVec 32 → BitVec 32 → BitVec 32) (f64 : Word → Word → Word) : Eff :=
  scalarWord s h
    (let a := s.cur.arch
     guardTrap (firstTrap [poisonTy a t sa, poisonSrc a t b])
       (let x := a.valS sa
        let y := srcVal a b
        .done (s.modArch fun c => c.setS sd
          (if scalarWidth t = 32 then extend32 t (f32 (x.setWidth 32) (y.setWidth 32)) else f64 x y))))

/-- Whether a type is signed. -/
def signedTy (t : Ty) : Bool :=
  match t with
  | .s32 | .s64 => true
  | _ => false

end Sys2Proof.Machine
end

