-- ==== Sys2Proof/Machine/Classes.lean ====
section
/-! DEFINITION. What a word's encoding alone says of it: its minimum class (R75, R312), its place in a run (R10, R61, R195), the
temporaries and registers it names (R310, R311), the in-flight counters it raises (R151, R152). -/

namespace Sys2Proof.Machine

open Sys2Proof

/-- The class of an activation (R236). -/
def Act.minClass (m : Act) : Nat := if m = .relu then 0 else 3

/-- Class N for the floating-point types, F for the integer ones (R312). -/
def arithClass (t : Ty) : Nat := if t = .f32 ∨ t = .b16 then 1 else 0

/-- The minimum class of a word (R312); 0 F, 1 N, 2 S, 3 X. -/
def minClass : Instr → Nat
  | .aadd _ _ | .aand _ _ | .aor _ _ | .axor _ _ | .amax _ _ | .amin _ _ | .axch _ _ | .acas _ _ => 1
  | .ftinit .. | .ftupd .. | .ftdnd .. | .ftsolv .. | .ftldet .. | .ftld .. | .ftst .. => 1
  | .launch .. | .launchat .. | .semwait .. | .semsig .. => 1
  | .mcomp .. | .mlda .. | .msta .. | .mma .. | .mmas .. | .mmova .. => 1
  | .rsst .. | .svst .. | .tblld .. => 1
  | .smul .. | .smulh .. => 1
  | .sdiv .. => 2
  | .vact _ m _ _ _ => Act.minClass m
  | .vgate _ m _ _ _ _ => Act.minClass m
  | .vadd _ t _ _ _ _ | .vsub _ t _ _ _ _ | .vmul _ t _ _ _ _ => arithClass t
  | .vfma .. | .vcvt .. | .vpkn .. | .vupn .. | .vred .. | .vscan .. | .vlut .. | .vmoms .. => 1
  | .vld .. | .vst .. | .vgth .. | .vsct .. | .vldt .. | .vstt .. => 1
  | .vexpE .. | .vexp2 .. | .vlog .. | .vrcp .. | .vrsq .. | .vsqrt .. | .vrng .. | .vsexp .. | .vsdiv .. => 2
  | _ => 0

/-- The instruction a word stands for in a run: an encoding the map does not assign is a word all the same (R308, R313). -/
def instrOf (w : Word) : Instr :=
  match decode w with
  | .ok i => i
  | .error _ => .unassignedEncoding w

/-- The instruction that the fetch checks take a word for: the one it encodes, or the one whose opcode the map lists for it
although a field of it is refused at issue, where it raises UNDEF (R308, R312). -/
def opcodeOf (w : Word) : Instr :=
  match decode w with
  | .ok i => i
  | .error e => match e.shape with
    | some i => if minorListed (majorOf w).toNat (fld w 43 8) then i else .unassignedEncoding w
    | none => .unassignedEncoding w

/-- The effective class of a word: the slower of its class field and its opcode's minimum (R9). -/
def effClass (w : Word) : Nat := max (hdrOf w).cls.toNat (minClass (opcodeOf w))

/-- Words that stand only first in a run (R10, R61, R62, R195). -/
def mustBeFirst : Instr → Bool
  | .wait .. | .waitp .. | .mwait .. | .regang .. | .merge .. | .mlease .. => true
  | _ => false

/-- Words that stand only last before the trailer (R10). -/
def mustBeLast : Instr → Bool
  | .bra .. | .brx .. | .call .. | .callx .. | .ret .. | .loopC .. | .loopW .. | .end_ .. => true
  | _ => false

/-- The JOIN field of a branch, when it names one (R54). -/
def joinField : Instr → Option (BitVec 16)
  | .bra _ _ j | .brx _ _ j => if j = 0 then none else some j
  | _ => none

/-- The vector operand fields a word reads. -/
def vecReads : Instr → List VOp
  | .aadd _ a | .aand _ a | .aor _ a | .axor _ a | .amax _ a | .amin _ a | .axch _ a | .acas _ a =>
    match a.opnd with
    | .vec vv vx => [vv, vx]
    | .scal _ _ => []
  | .ftupd _ _ v | .ftdnd _ _ v | .ftsolv _ _ v _ => [v]
  | .mcomp _ _ _ _ vs => [vs]
  | .mma _ _ _ va vb _ => [va, vb]
  | .mmas _ _ _ va vm vb _ => [va, vm, vb]
  | .mmova _ _ v _ d => if d = 1 then [v] else []
  | .siph _ _ vi _ _ _ _ => [vi]
  | .vabs _ _ _ a _ | .vneg _ _ _ a _ | .vmov _ _ a _ | .vact _ _ _ a _ | .vcvt _ _ (.widen _ a _) _
  | .vcvt _ _ (.cross _ _ a) _ | .vcvt _ _ (.toInt _ a) _ | .vcvt _ _ (.fromInt _ a) _ => [a]
  | .vcvt _ _ (.narrow _ a b) _ => [a, b]
  | .vgate _ _ _ a b _ | .vadd _ _ _ a b _ | .vsub _ _ _ a b _ | .vmul _ _ _ a b _ | .vmax _ _ _ a b _ | .vmin _ _ _ a b _
  | .vand _ _ a b _ | .vor _ _ a b _ | .vxor _ _ a b _ | .vshl _ _ a b _ | .vshr _ _ a b _ | .vsra _ _ a b _
  | .vcmp _ _ _ _ a b _ | .vsel _ _ a b _ _ | .vpkn _ _ _ a b _ | .vupn _ _ _ a b _ => [a, b]
  | .vexpE _ _ a _ | .vexp2 _ _ a _ | .vlog _ _ a _ | .vrcp _ _ a _ | .vrsq _ _ a _ | .vsqrt _ _ a _ => [a]
  | .vfma _ _ _ a b c _ => [a, b, c]
  | .vst _ _ _ v _ _ => [v]
  | .vgth _ _ _ _ i _ => [i]
  | .vsct _ _ _ v i _ => [v, i]
  | .vstt _ _ v _ _ => [v]
  | .vlut _ _ _ a _ => [a]
  | .vmoms _ _ a _ _ _ | .vred _ _ _ _ a _ _ | .vscan _ _ _ _ a _ _ | .vsmax _ _ a _ _ _ => [a]
  | .vshfl _ _ a i _ _ => [a, i]
  | .vsexp _ _ a _ _ _ _ => [a]
  | .vsdiv _ _ a _ _ _ => [a]
  | .xv _ _ w _ | .xvn _ _ _ w _ => [w]
  | _ => []

/-- The vector operand fields a word writes. -/
def vecWrites : Instr → List VOp
  | .aadd _ a | .aand _ a | .aor _ a | .axor _ a | .amax _ a | .amin _ a | .axch _ a | .acas _ a =>
    match a.opnd with
    | .vec _ vx => [vx]
    | .scal _ _ => []
  | .ftsolv _ _ v _ | .ftldet _ _ v => [v]
  | .mcomp _ _ vd vm _ => [vd, vm]
  | .mmova _ _ v _ d => if d = 0 then [v] else []
  | .srd _ (.vec d) _ => [d]
  | .vabs _ _ d _ _ | .vneg _ _ d _ _ | .vmov _ d _ _ | .vbcast _ d _ _ | .vact _ _ d _ _ | .vcvt _ d _ _ | .vgate _ _ d _ _ _
  | .vadd _ _ d _ _ _ | .vsub _ _ d _ _ _ | .vmul _ _ d _ _ _ | .vmax _ _ d _ _ _ | .vmin _ _ d _ _ _ | .vand _ d _ _ _
  | .vor _ d _ _ _ | .vxor _ d _ _ _ | .vshl _ d _ _ _ | .vshr _ d _ _ _ | .vsra _ d _ _ _ | .vsel _ d _ _ _ _
  | .vpkn _ _ d _ _ _ | .vupn _ _ d _ _ _ | .vexpE _ d _ _ | .vexp2 _ d _ _ | .vlog _ d _ _ | .vrcp _ d _ _ | .vrsq _ d _ _
  | .vsqrt _ d _ _ | .vfma _ _ d _ _ _ _ | .vld _ _ _ d _ | .vgth _ _ _ d _ _ | .vldt _ _ d _ _ | .vlut _ _ d _ _
  | .vshfl _ d _ _ _ _ | .vrank _ d _ _ _ | .vscan _ _ _ d _ _ _ | .vrng _ _ _ d _ _ | .vsexp _ d _ _ _ _ _
  | .vsdiv _ d _ _ _ _ | .xlfs _ d | .xlsp _ d | .xv _ d _ _ | .xvn _ _ d _ _ => [d]
  | _ => []

/-- The registers that the arithmetic passes of a word write (R272): none for loads, atomics, engine operations and special registers. -/
def passVecs : Instr → List VOp
  | .aadd _ _ | .aand _ _ | .aor _ _ | .axor _ _ | .amax _ _ | .amin _ _ | .axch _ _ | .acas _ _ | .ftsolv _ _ _ _ | .ftldet _ _ _
  | .mmova _ _ _ _ _ | .srd _ _ _ | .vld _ _ _ _ _ | .vgth _ _ _ _ _ _ | .vldt _ _ _ _ _ | .xlfs _ _ | .xlsp _ _ => []
  | i => vecWrites i
def passScals : Instr → List (BitVec 6)
  | .sadd _ _ d _ _ | .ssub _ _ d _ _ | .sand _ _ d _ _ | .sor _ _ d _ _ | .sxor _ _ d _ _ | .sshl _ _ d _ _ | .sshr _ _ d _ _
  | .ssra _ _ d _ _ | .smax _ _ d _ _ | .smin _ _ d _ _ | .scmp _ _ _ d _ _ | .smul _ _ d _ _ | .smulh _ _ d _ _ | .sdiv _ _ d _ _
  | .slea _ d _ _ _ | .ssel _ _ d _ _ _ | .smov _ (.ss d _) | .smov _ (.xs d _) | .smovi _ d _ | .shi _ d _ _ _ | .sclz _ d _
  | .spopc _ d _ | .vmoms _ d _ _ _ _ | .vvote _ d _ _ _ | .vred _ _ _ d _ _ _ | .vsmax _ d _ _ _ _ | .vsexp _ _ _ d _ _ _ => [d]
  | _ => []

/-- The scalar registers that a word writes, at once or when a load or an atomic returns. -/
def scalWrites (i : Instr) : List (BitVec 6) :=
  match i with
  | .aadd _ a | .aand _ a | .aor _ a | .axor _ a | .amax _ a | .amin _ a | .axch _ a | .acas _ a =>
    match a.opnd with
    | .scal _ sx => [sx]
    | .vec _ _ => []
  | .sld _ _ _ d _ | .srd _ (.scal d) _ | .launch _ d _ | .launchat _ d _ _ | .mfence _ d | .mlease _ d _ _ | .pcpy _ d _ _ _ _ _ _
  | .pfill _ d _ _ _ _ _ | .pstat _ d _ => [d]
  | i => passScals i

/-- The scalar registers a word reads. -/
def scalReads (i : Instr) : List (BitVec 6) :=
  match i with
  | .aadd _ a | .aand _ a | .aor _ a | .axor _ a | .amax _ a | .amin _ a | .axch _ a | .acas _ a =>
    match a.opnd with
    | .vec _ _ => [a.sb]
    | .scal sv _ => a.sb :: sv :: (match i with
      | .acas .. => [sv + 1]
      | _ => [])
  | .brx _ r _ | .callx _ r | .pcanc _ r | .pstat _ _ r | .ovtld _ r | .mwait _ r | .waitp _ _ r | .ftinit _ _ _ r => [r]
  | .ftld _ _ _ b _ _ | .ftst _ _ _ b _ | .mlda _ _ _ b _ | .msta _ _ _ b _ | .tblld _ _ b _ => [b]
  | .launch _ _ r => [r]
  | .launchat _ _ r t => [r, t]
  | .semwait _ _ a v | .semsig _ _ a v => [a, v]
  | .loopC _ _ c _ _ => [c]
  | .mma _ _ _ _ _ f | .mmas _ _ _ _ _ _ f => if f = 0 then [] else [f, f + 1, f + 2, f + 3]
  | .pcpy _ _ d a l _ _ _ => [d, a, l]
  | .pfill _ _ d l p _ _ => [d, l, p]
  | .rsst _ _ _ b _ _ | .svst _ _ _ b _ _ => [b]
  | .sadd _ _ _ a b | .ssub _ _ _ a b | .sand _ _ _ a b | .sor _ _ _ a b | .sxor _ _ _ a b | .sshl _ _ _ a b
  | .sshr _ _ _ a b | .ssra _ _ _ a b | .smax _ _ _ a b | .smin _ _ _ a b | .scmp _ _ _ _ a b | .smul _ _ _ a b
  | .smulh _ _ _ a b | .sdiv _ _ _ a b | .slea _ _ a b _ =>
    match b with
    | .reg r => [a, r]
    | .imm _ => [a]
  | .ssel _ _ _ a b c => [a, b, c]
  | .smov _ (.ss _ a) | .smov _ (.sx _ a) | .shi _ _ a _ _ | .sclz _ _ a | .spopc _ _ a | .swr _ a _ | .vbcast _ _ a _ => [a]
  | .siph _ st _ b p _ _ => [st, b, p]
  | .sld _ _ m _ _ => [m.sb]
  | .sst _ _ m v _ => [m.sb, v]
  | .vld _ _ m _ _ | .vst _ _ m _ _ _ | .vgth _ _ m _ _ _ | .vsct _ _ m _ _ _ => [m.sb]
  | .vldt _ _ _ k o | .vstt _ _ _ k o => [k, k + 1, k + 2, o]
  | .vmoms _ d _ _ k _ | .vsmax _ d _ _ k _ => [d, k]
  | .vshfl _ _ _ _ k _ | .vvote _ _ _ k _ | .vred _ _ _ _ _ k _ | .vscan _ _ _ _ _ k _ => [k]
  | .vrank _ _ a k _ => [a, k]
  | .vrng _ _ _ _ c _ => [c]
  | .vsexp _ _ _ ss m k _ => [ss, m, k]
  | .vsdiv _ _ _ ss _ _ => [ss]
  | .xv _ _ _ _ | .xvn _ _ _ _ _ => [56, 57, 58, 59, 60, 61, 62, 63]
  | _ => []

/-- The predicates a word reads besides its guard. -/
def predReads : Instr → List (BitVec 4)
  | .vsel _ _ _ _ p _ | .vmoms _ _ _ p _ _ | .vvote _ _ p _ _ | .vsmax _ _ _ p _ _ | .vsexp _ _ _ _ _ _ p
  | .vsdiv _ _ _ _ p _ => [p]
  | _ => []

/-- The guard of a word. -/
def guardOf (w : Word) : BitVec 4 := (hdrOf w).guard

/-- Whether a field names temporary k. -/
def tempOf (v : VOp) : Option Nat := if v.isTemp then some (v.base.toNat - 0xF8) else none

/-! Register ranges of the matrix words (R110, R198, R199). -/

/-- P of R198: the planes that a shape has room for. -/
def planeRoom (k : Nat) : Nat := if k ≤ 2 then 2 else if k ≤ 4 then 4 else 8

/-- K of the shape that a suffix names (R110). -/
def shapeK (ty : Ty) : Nat := if ty = .f32 then 8 else if ty.pik = 0 then 16 else 256 / planeRoom ty.pik

/-- Registers of a dense fragment that are read (R198). -/
def denseRegs (ty : Ty) : Nat := if ty.pik = 0 then 8 else 8 * ty.pik / planeRoom ty.pik

/-- Registers of the sparse values that are read (R199). -/
def sparseRegs (ty : Ty) : Nat := if ty.pik = 0 then 4 else ceilDiv (ty.pik * (2 * shapeK ty)) 128

/-- Registers of the metadata (R199). -/
def metaRegs (ty : Ty) : Nat := ceilDiv (4 * shapeK ty) 128

/-- The vector operand fields a word reads with the number of registers each names. -/
def readSpans (i : Instr) : List (VOp × Nat) :=
  match i with
  | .mcomp _ t _ _ vs => [(vs, denseRegs t)]
  | .mma _ t _ va vb f => [(va, if f = 0 then denseRegs t else 8), (vb, if f = 0 then denseRegs t else 8)]
  | .mmas _ t _ va vm vb f =>
    [(va, if f = 0 then sparseRegs t else 4), (vm, metaRegs t), (vb, if f = 0 then denseRegs t else 8)]
  | .mmova _ _ v _ d => if d = 1 then [(v, 8)] else []
  | .acas _ a =>
    match a.opnd with
    | .vec vv vx => [(vv, 2), (vx, 1)]
    | .scal _ _ => []
  | .xvn _ n _ w _ => [(w, n.toNat + 1)]
  | i => (vecReads i).map fun v => (v, 1)

/-- The feeds of a lane-code word. -/
def feedsOf : Instr → Option Feeds
  | .xv _ _ _ f | .xvn _ _ _ _ f => some f
  | _ => none

/-- Positions at which a word is out of place (R10, R61, R62, R195). -/
def outOfPlace (ws : List Word) : Option Nat :=
  (ws.zipIdx.find? fun p =>
    let i := opcodeOf p.1
    (mustBeFirst i && p.2 != 0) || (mustBeLast i && p.2 + 1 != ws.length)).map (·.2)

/-- The position of the first word that reads a temporary no earlier word names as a destination (R310). -/
def tempUnwritten (ws : List Word) (written : List Nat) (pos : Nat) : Option Nat :=
  match ws with
  | [] => none
  | w :: r =>
    let i := opcodeOf w
    if ((vecReads i).filterMap tempOf).all written.contains then
      tempUnwritten r (written ++ (vecWrites i).filterMap tempOf) (pos + 1)
    else some pos

/-- The position of the first branch whose join falls inside the run after its first word, its trailer included (R54). -/
def joinInside (ws : List Word) : Option Nat :=
  (ws.zipIdx.find? fun p =>
    match joinField (opcodeOf p.1) with
    | some j => (let at_ : Int := p.2 + j.toInt; 0 < at_ && at_ ≤ ws.length : Bool)
    | none => false).map (·.2)

/-- The class with which a word enters the comparison with the trailer's: of XV and XVN only the least class (R9). -/
def fetchClass (w : Word) : Nat :=
  match opcodeOf w with
  | .xv .. | .xvn .. => minClass (opcodeOf w)
  | _ => effClass w

/-- The position of the first word slower than the trailer's class (R9). -/
def tooSlow (ws : List Word) (cls : Nat) : Option Nat := (ws.zipIdx.find? fun p => cls < fetchClass p.1).map (·.2)

/-- The path counter a word raises at issue (R151). -/
def raises : Instr → Option Path
  | .sld _ _ m _ _ | .vld _ _ m _ _ | .vgth _ _ m _ _ _ => if m.space = .s then none else some .ld
  | .tblld .. => some .ld
  | .sst _ _ m _ _ | .vst _ _ m _ _ _ | .vsct _ _ m _ _ _ => if m.space = .s then none else some .st
  | .svst _ sp _ _ _ _ => if sp = .s then none else some .st
  | .aadd _ a | .aand _ a | .aor _ a | .axor _ a | .amax _ a | .amin _ a | .axch _ a | .acas _ a =>
    if a.space = .s then none else some .st
  | .pcpy .. | .pfill .. => some .cp
  | .siph .. => some .sg
  | .mfence .. | .mfree .. => some .mx
  | _ => none

/-- Valve entries a word may enter; a range in W enters none (R152, R154). -/
def valveNeed : Instr → Nat
  | .pcpy _ _ _ _ _ d _ _ => if d = .w then 1 else 2
  | .pfill _ _ _ _ _ d _ => if d = .w then 0 else 1
  | .siph .. => 2
  | .tblld .. | .mlda .. | .msta .. | .ftld .. | .ftst .. => 1
  | _ => 0

/-- Entries of the engine command buffer a word takes (R152). -/
def commandNeed : Instr → Nat
  | .pcpy .. | .pfill .. | .siph .. | .tblld .. => 1
  | _ => 0

/-- Engine operations a word queues (R194, R152). -/
def queueNeed : Instr → Nat
  | .mzero .. | .mma .. | .mmas .. | .mlda .. | .msta .. | .mmova .. => 1
  | .ftinit .. | .ftupd .. | .ftdnd .. | .ftsolv .. | .ftldet .. | .ftld .. | .ftst .. => 1
  | _ => 0

end Sys2Proof.Machine
end

