-- ==== Sys2Proof/Machine/Links.lean ====
section
/-! DEFINITION. The links between quadrants, to the host and to other devices: their slot tables (R287, R288), which of them an access
takes, and those that have been down for 1 ms (R289). -/

namespace Sys2Proof.Machine

open Sys2Proof

/-- The quadrant that holds a place of the device's own memory: that of its channel, of its Cistern slice or of its core. R2 and R140 give
each quadrant its share of the channels and slices and no numbers: that channel n lies in quadrant n / 96 and slice n in quadrant n / 64, as
R130 numbers the cores, is the model's choice (log 21). -/
def placeQuad (place : Nat) : Nat :=
  if place < cisternBase then place / channelBytes / 96
  else if place < scratchBase then (place - cisternBase) / 0x800000 / 64
  else (place - scratchBase) / 0x100000 / 96

/-- The inter-quadrant path between two quadrants, in the order 0-1, 0-2, 0-3, 1-2, 1-3, 2-3 (R287, log 21). -/
def quadLink (a b : Nat) : Nat :=
  match min a b, max a b with
  | 0, k => k - 1
  | 1, k => k + 1
  | _, _ => 5

/-- A path between quadrants that has been down for 1 ms. -/
def State.deadPath (s : State) (a b : Nat) : Option Nat :=
  if a ≠ b ∧ (s.link (quadLink a b)).dead then some (quadLink a b) else none

/-- Entry i of a slot table: 0xFFFF where nothing else is written (R288). -/
def slotEntry (t : Store (BitVec 16)) (i : Nat) : BitVec 16 := ~~~(Store.get t i)

/-- The position of a link in its table, in nanoseconds (R287). -/
def State.linkPos (s : State) (k : Nat) : Nat := (((s.time.wall.toNat : Int) + (s.link k).offset.toInt) % 25600).toNat

/-- Whether a partition has slots of its own in a link's table (R284). -/
def Link.ownsSlot (l : Link) (p : Nat) : Bool := l.table.any fun e => (~~~e.2).toNat == p

/-- Whether a partition's traffic may leave on a link now: the link is up, and its slot is the partition's own or shared; while the
partition is reset, its own alone (R287, R293). A partition that has no slot in the table is reset over shared ones: R284 gives every
partition its own, and R293 bounds a reset; the model's choice (log 115). -/
def State.slotOpen (s : State) (k p : Nat) : Bool :=
  let l := s.link k
  let e := slotEntry l.table (s.linkPos k / 100)
  l.up && ((e == 0xFFFF && !((s.part p).resetting && l.ownsSlot p)) || (e != 0xFFFE && e.toNat == p))

/-- The links that may carry an access of an agent in quadrant q to a place; none within the quadrant. -/
def State.linksFrom (s : State) (q p place : Nat) : List Nat :=
  if isHost place then [22]
  else if isPeer place then (s.part p).aqPorts.map (· + 6)
  else if q = placeQuad place then [] else [quadLink q (placeQuad place)]

/-- Whether an access over one of some links may be made now: one of them is open to the partition, or all have been down for 1 ms, so
that it completes without data (R287, R289). -/
def State.linksOpen (s : State) (p : Nat) (ls : List Nat) : Bool :=
  ls.isEmpty || ls.all (fun k => (s.link k).dead) || ls.any fun k => s.slotOpen k p

/-- The link over which an agent in quadrant q reaches a place, when it has been down for 1 ms: Borelink for host memory; for a peer page
the partition's ports, when all of them are down; the path to another quadrant (R289, log 21). A partition that owns no Aquifer port
loses its accesses to peer pages, counted for port 0: the model's choice, since R289 names no such partition (log 137). -/
def State.deadFrom (s : State) (q p place : Nat) : Option Nat :=
  if isHost place then (if (s.link 22).dead then some 22 else none)
  else if isPeer place then
    let ports := (s.part p).aqPorts.map (· + 6)
    if ports.all fun k => (s.link k).dead then some (minBy id ports |>.getD 6) else none
  else s.deadPath q (placeQuad place)

/-- The quadrant of the current agent; the Wellhead, which runs streams, sits in quadrant 0 (R1). -/
def State.curQuad (s : State) : Nat :=
  match s.agent with
  | .group n _ _ => n / 96
  | .stream _ => 0

/-- Whether traffic of a partition from quadrant q to some places may leave now (R287). -/
def State.mayCross (s : State) (q p : Nat) (places : List Nat) : Bool := ((places.map (s.linksFrom q p)).eraseDups).all (s.linksOpen p)

/-- The dead link of an access of the current agent. -/
def State.deadLink (s : State) (p place : Nat) : Option Nat := s.deadFrom s.curQuad p place

/-- An access that completed over a dead link is counted (R457). -/
def State.countLost (s : State) (link : Nat) : State := s.logError (64 + link)

end Sys2Proof.Machine
end

