-- ==== Sys2Proof/Machine/Spaces.lean ====
section
/-! DEFINITION. The five spaces: addresses and their checks (R126 to R129, R134), local memory and its interleave (R142), translation
(R144 to R149), the places of bytes, and the Valve check (R154, R155). -/

namespace Sys2Proof.Machine

open Sys2Proof

/-- Space codes (R126). -/
def spaceCode : Space → Nat
  | .g => 0 | .c => 1 | .s => 2 | .k => 3 | .w => 4

/-- Kinds of access for checks and for EINFO (R248). -/
inductive Acc where
  | load | store | atomic | stack | fetch
  deriving DecidableEq, Repr

def Acc.code : Acc → Nat
  | .load | .fetch => 0
  | .store => 1
  | .atomic => 2
  | .stack => 3

/-- A trap with the memory layout of EINFO (R248). -/
def memTrap (c : Cause) (acc : Acc) (lane : Nat) (sp : Space) (addr : Nat) : Trap :=
  { cause := c, space := spaceCode sp,
    einfo := BitVec.ofNat 64 (acc.code * 2 ^ 62 + lane * 2 ^ 57 + addr % 2 ^ 57) }

/-! What the agent's launch gives it. A stream has no allotment (R274). -/

def State.spBytes (s : State) : Nat := if s.inStream then 0 else s.curLaunch.info.spGranules * 4096
def State.cBase (s : State) : Nat := s.curLaunch.info.cBase * 4096
def State.cBytes (s : State) : Nat := if s.inStream then 0 else s.curLaunch.info.cSize * 4096
/-- The teams of the agent's cluster by rank. -/
def State.ranks (s : State) : List Nat := if s.inStream then [] else (s.cluster s.curTeam.cluster).teams

/-- The first byte of the current team's scratchpad allocation (R29). -/
def Team.spBase (t : Team) : Nat := t.spGranule * 4096

/-! Address checks (R127). -/

def kRank (a : Word) : Nat := (a.extractLsb' 32 4).toNat
def kOff (a : Word) : Nat := (a.extractLsb' 0 20).toNat

/-- Whether the window map has a block at an address (R130). -/
def winMapped (a : Nat) : Bool :=
  a < 384 * 0x400000 || (0x7F00000000 ≤ a && a < 0x7F00001000) || (0x7F00010000 ≤ a && a < 0x7F00020000)
  || (0x7F00020000 ≤ a && a < 0x7F00021000) || (0x7F00030000 ≤ a && a < 0x7F00050000)

/-- The first failing check of R127 for one byte of an access, PRIV apart. -/
def byteFault (s : State) (sp : Space) (a : Word) : Option Cause :=
  match sp with
  | .g => if a.toNat < 2 ^ 57 then none else some .memxlate
  | .c => if a.toNat < s.cBytes then none else some .memperm
  | .s => if a.toNat < s.spBytes then none else some .spbound
  | .k =>
    if a.toNat / 2 ^ 36 ≠ 0 ∨ (a.extractLsb' 20 12).toNat ≠ 0 ∨ s.ranks.length ≤ kRank a then some .spbound
    else if s.det then some .memperm
    else if kOff a < s.spBytes then none else some .spbound
  | .w => if a.toNat < 2 ^ 40 && winMapped a.toNat then none else some .memperm

/-- The first failing byte of n bytes at an address (R127). -/
def spanFault (s : State) (sp : Space) (acc : Acc) (lane : Nat) (a : Word) (n : Nat) : Option Trap :=
  (List.range n).findSome? fun i =>
    let b := a + BitVec.ofNat 64 i
    (byteFault s sp b).map fun c => memTrap c acc lane sp b.toNat

/-- The checks of R127 on the pieces of an access, the lowest faulting lane deciding; W is privileged. -/
def piecesFault (s : State) (sp : Space) (acc : Acc) (ps : List Piece) : Option Trap :=
  if sp = .w ∧ !s.privd ∧ !ps.isEmpty then some s.privTrap
  else ps.findSome? fun p => spanFault s sp acc p.lane p.addr p.n

/-- ALIGN when an address is not a multiple of n (R128). -/
def alignFault (sp : Space) (acc : Acc) (lane : Nat) (a : Word) (n : Nat) : Option Trap :=
  if a.toNat % n = 0 then none else some (memTrap .align acc lane sp a.toNat)

/-- ALIGN of every piece. -/
def piecesAlign (sp : Space) (acc : Acc) (ps : List Piece) (n : Nat) : Option Trap :=
  ps.findSome? fun p => alignFault sp acc p.lane p.addr n

/-! Local memory (R142). -/

def State.localBytes (s : State) (p : Nat) : Nat := (s.part p).channels.length * channelBytes

/-- The place of a byte of a partition's local memory. -/
def State.localPlace (s : State) (p a : Nat) : Nat :=
  let ch := (s.part p).channels
  let j := a / 256
  hbmPlace (ch.getD (j % ch.length) 0) (256 * (j / ch.length) + a % 256)

/-- A 64-bit word of local memory, at home. -/
def State.localWord (s : State) (p a : Nat) : Word :=
  ofBytes 64 ((List.range 8).map fun i => s.byteAt (s.localPlace p (a + i)))

/-! Translation. -/

def pteV (e : Word) : Bool := bit e 0
def pteR (e : Word) : Bool := bit e 1
def pteW (e : Word) : Bool := bit e 2
def pteX (e : Word) : Bool := bit e 3
def pteP (e : Word) : Bool := bit e 4
def pteNC (e : Word) : Bool := bit e 5
def pteLeaf (e : Word) : Bool := bit e 7
def pteC64 (e : Word) : Bool := bit e 8
def pteDest (e : Word) : Nat := (e.extractLsb' 52 12).toNat
def ptePhys (e : Word) : Nat := (e.extractLsb' 12 40).toNat * 4096

/-- Reserved fields of an entry at a level: bits 11:9 and 6, and C64 above level 0 (R146). -/
def pteReserved (level : Nat) (e : Word) : Bool :=
  e.extractLsb' 9 3 != 0 || bit e 6 || (level != 0 && pteC64 e)

/-- The page size of a leaf by level (R144). -/
def pageSize (level : Nat) (e : Word) : Nat :=
  match level with
  | 0 => if pteC64 e then 0x10000 else 0x1000
  | 1 => 0x200000
  | _ => 0x40000000

/-- First bit of the index at a level, and its width (R144). -/
def levelBits (level : Nat) : Nat × Nat :=
  match level with
  | 0 => (12, 9)
  | 1 => (21, 9)
  | 2 => (30, 13)
  | _ => (43, 14)

def levelIndex (level va : Nat) : Nat := va / 2 ^ (levelBits level).1 % 2 ^ (levelBits level).2

/-- A leaf of a walk: the checks on its own bits, then its page (R146, R148). -/
def State.leafOf (s : State) (p va level : Nat) (e : Word) : Option TlbEntry :=
  let size := pageSize level e
  let phys := if size = 0x10000 then ptePhys e / 0x10000 * 0x10000 else ptePhys e
  if phys % size ≠ 0 then none
  else if pteDest e = 0 ∧ s.localBytes p < phys + size then none
  else some { part := p, tenant := (s.part p).tenant, base := va / size * size, size := size, leaf := e }

/-- A table entry at a level as a walker in quadrant q reads it; beyond a link that has been down for 1 ms it is no word of memory
(R289, log 113). -/
def State.tableWord (s : State) (q p level a : Nat) : Word :=
  if (s.deadPath q (placeQuad (s.localPlace p a))).isSome then BitVec.ofNat 64 (Config.freeNat (s.fresh + level)) else s.localWord p a

/-- The walk from the table of a level down: the places that it reads, and what it finds; none is MEMXLATE (R144 to R148). -/
def State.walkFrom (s : State) (q p va : Nat) (level table : Nat) : List Nat × Option TlbEntry :=
  if s.localBytes p ≤ table then ([], none) else
  match level with
  | 0 =>
    let idx := levelIndex 0 va
    let base := table + 8 * (idx / 16 * 16)
    let first := s.tableWord q p 0 base
    let e := if pteC64 first then first else s.tableWord q p 0 (table + 8 * idx)
    (s.localPlace p base :: (if pteC64 first then [] else [s.localPlace p (table + 8 * idx)]),
      if !pteV e || pteReserved 0 e || (pteC64 e && !pteC64 first) then none else s.leafOf p va 0 e)
  | k + 1 =>
    let a := table + 8 * levelIndex (k + 1) va
    let e := s.tableWord q p (k + 1) a
    let here := s.localPlace p a
    if !pteV e || pteReserved (k + 1) e then ([here], none)
    else if pteLeaf e then ([here], if k + 1 = 3 then none else s.leafOf p va (k + 1) e)
    else if pteDest e ≠ 0 ∨ ptePhys e % (8 * 2 ^ (levelBits k).2) ≠ 0 then ([here], none)
    else let r := s.walkFrom q p va k (ptePhys e); (here :: r.1, r.2)

/-- A walk under the partition's root register (R145). -/
def State.walk (s : State) (q p va : Nat) : List Nat × Option TlbEntry :=
  let root := (s.part p).xlroot
  if bit root 0 then s.walkFrom q p va 3 ((root.extractLsb' 17 35).toNat * 2 ^ 17) else ([], none)

/-- The quadrant that walks for a core; core 384 stands for the Wellhead, in quadrant 0 (R1). -/
def walkQuad (n : Nat) : Nat := if n < 384 then n / 96 else 0

/-- A translation that a core holds. The Wellhead caches none. -/
def State.cached (s : State) (n p va : Nat) : Option TlbEntry :=
  (s.core n).tlb.find? fun e => e.part = p && e.tenant = (s.part p).tenant && e.base ≤ va && va < e.base + e.size

/-- A translation of the partition's tenant, from the core's cache or by a walk (R144, R149). -/
def State.lookup (s : State) (n p va : Nat) : Option TlbEntry :=
  match s.cached n p va with
  | some e => some e
  | none => (s.walk (walkQuad n) p va).2

/-- The places of the tables that an access to a virtual byte makes a walker read. -/
def State.tablePlaces (s : State) (n p va : Nat) : List Nat :=
  if (s.cached n p va).isSome then [] else (s.walk (walkQuad n) p va).1

/-- Whether the walks for some virtual bytes may be made now (R287). -/
def State.walksOpen (s : State) (n p : Nat) (vas : List Nat) : Bool := s.mayCross (walkQuad n) p (vas.flatMap (s.tablePlaces n p))

/-- A walk that read a table beyond a dead link is counted (R457, log 113). -/
def State.countWalk (s : State) (n p va : Nat) : State :=
  match ((s.tablePlaces n p va).filterMap fun a => s.deadPath (walkQuad n) (placeQuad a)).head? with
  | some k => { s.countLost k with fresh := s.fresh + 4 }
  | none => s

/-- The first byte of each 256-byte block that n bytes at an address touch: no page and no place of a block divides it (R142, R144). -/
def blocksOf (va n : Nat) : List Nat :=
  if n = 0 then [] else va :: (List.range ((va + n - 1) / 256 - va / 256)).map fun i => 256 * (va / 256 + i + 1)

/-- A walk's result is cached while there is room (R149, log 10). -/
def State.cacheXlate (s : State) (n : Nat) (e : TlbEntry) : State :=
  if n ≥ 384 ∨ (s.core n).tlb.contains e ∨ 2048 ≤ (s.core n).tlb.length then s
  else s.modCore n fun c => { c with tlb := e :: c.tlb }

/-- Whether a leaf refuses an access; a spill is asked for as a store and a fill as a load (R57, R148). -/
def leafRefuses (s : State) (p : Nat) (privd : Bool) (acc : Acc) (e : Word) : Bool :=
  let r := acc == .load || acc == .atomic
  let w := acc == .store || acc == .atomic
  (r && !pteR e) || (w && !pteW e) || (acc == .fetch && !pteX e) || (pteP e && !privd)
    || (pteDest e != 0 && !((s.part p).dests.contains (pteDest e)))

/-- The place of a byte under a translation (R146, R289). -/
def placeUnder (s : State) (p va : Nat) (t : TlbEntry) : Nat :=
  let phys := ptePhys t.leaf / t.size * t.size + va % t.size
  match pteDest t.leaf with
  | 0 => s.localPlace p phys
  | 1 => hostPlace phys
  | d + 2 =>
    let e := (assoc (s.part p).peers d).getD 0
    peerPlace (e / 32) (e % 32) phys

/-- A virtual byte's place and whether its page is NC, or the cause that refuses the access. -/
def translate (s : State) (n p : Nat) (privd : Bool) (acc : Acc) (va : Nat) : Except Cause (Nat × Bool × TlbEntry) :=
  match s.lookup n p va with
  | none => .error .memxlate
  | some t =>
    if leafRefuses s p privd acc t.leaf then .error .memperm
    else .ok (placeUnder s p va t, pteNC t.leaf, t)

/-! Places in the other spaces. -/

/-- The place of byte o of a partition's buffer slices (R140). -/
def State.bufferPlace (s : State) (p o : Nat) : Nat :=
  cisternPlace ((s.part p).bufSlices.getD (o / 0x800000) 0) (o % 0x800000)

/-- The team a K address names. -/
def State.kTeam (s : State) (a : Word) : Team := s.team (s.ranks.getD (kRank a) 0)

/-- Core and physical scratchpad byte of an S or K address (R133). -/
def State.scratchOf (s : State) (sp : Space) (a : Word) : Nat × Nat :=
  match sp with
  | .k => ((s.kTeam a).core, (s.kTeam a).spBase + kOff a)
  | _ => (s.curTeam.core, s.curTeam.spBase + a.toNat)

/-- The place of an address outside G that passed its checks; in W it is the window address. -/
def State.placeOf (s : State) (sp : Space) (a : Word) : Nat :=
  match sp with
  | .c => s.bufferPlace s.curPart (s.cBase + a.toNat)
  | .s | .k => let x := s.scratchOf sp a; scratchPlace x.1 x.2
  | _ => a.toNat

/-! The Valve (R154, R155). -/

/-- The table and the first byte under which an address is checked; none in W. -/
def State.valveAt (s : State) (sp : Space) (a : Word) : Option (Nat × Space × Nat) :=
  match sp with
  | .g => some (s.curCore, .g, a.toNat)
  | .c => some (s.curCore, .c, s.cBase + a.toNat)
  | .s | .k => let x := s.scratchOf sp a; some (x.1, .s, x.2)
  | .w => none

/-- The first byte of [lo, lo + n) that an entry forbids. -/
def valveHit (entries : List ValveEntry) (tenant : BitVec 32) (sp : Space) (acc : Acc) (lo n : Nat) : Option Nat :=
  minBy id ((entries.filter fun e =>
    e.tenant = tenant && e.space = sp && (e.write || acc != .load) && e.lo < lo + n && lo < e.hi).map fun e => max lo e.lo)

/-- An entry that forbids byte b, as a trap names it: its owner and its command (R242). -/
def valveBlocker (entries : List ValveEntry) (tenant : BitVec 32) (sp : Space) (acc : Acc) (b : Nat) : Option (Nat × Nat) :=
  (entries.find? fun e => (valveHit [e] tenant sp acc b 1).isSome).map fun e => (e.owner, e.seq)

/-- The ranges in a core's table that commands of the group have had and that cp has not fallen past (R386). -/
def Group.pastEntries (g : Group) (core : Nat) : List ValveEntry :=
  g.cmds.flatMap fun c => (c.past.filter fun p => p.1 == core).map (·.2)

/-- The entries of a core's table as a word meets them that began at program-order number `word`: its own group's are those of commands
that precede it and that cp has not fallen past (R154, R155, R386). -/
def State.valveEntries (s : State) (core word : Nat) : List ValveEntry :=
  ((s.core core).valve ++ s.cur.pastEntries core).filter fun e => e.owner != groupKey s.curCore s.curSlot || decide (e.seq < word)

/-- VALVE of a span against the entries that `entries` picks of the table it is checked in (R155). -/
def valveFaultIn (s : State) (entries : Nat → List ValveEntry) (sp : Space) (acc : Acc) (lane : Nat) (a : Word) (n : Nat) :
    Option Trap :=
  (s.valveAt sp a).bind fun v =>
    let tenant := (s.part s.curPart).tenant
    (valveHit (entries v.1) tenant v.2.1 acc v.2.2 n).map fun b =>
      { memTrap .valve acc lane sp (a.toNat + (b - v.2.2)) with
        conflict := (valveBlocker (entries v.1) tenant v.2.1 acc b).map fun e => (v.1, e) }

/-- VALVE of a span for the word that began at a program-order number (R155). -/
def valveFaultAt (s : State) (word : Nat) (sp : Space) (acc : Acc) (lane : Nat) (a : Word) (n : Nat) : Option Trap :=
  valveFaultIn s (fun core => s.valveEntries core word) sp acc lane a n

/-- VALVE of a span for the word that issues now. -/
def valveFault (s : State) (sp : Space) (acc : Acc) (lane : Nat) (a : Word) (n : Nat) : Option Trap :=
  valveFaultAt s s.cur.seq sp acc lane a n

/-- Whether an entry of a core's table is the READ range of a TBLLD, the only one that no engine command owns (R154, R232). -/
def State.ofTblld (s : State) (core : Nat) (e : ValveEntry) : Bool :=
  (s.core core).lut.queue.any fun q => e.owner == groupKey core q.1 && e.seq == q.2.1

/-- VALVE of the range of a matrix or factor word: engine commands are not checked against one another (R155, R203, R371). -/
def engineValve (s : State) (sp : Space) (acc : Acc) (a : Word) (n : Nat) : Option Trap :=
  valveFaultIn s (fun core => (s.valveEntries core s.cur.seq).filter (s.ofTblld core)) sp acc 0 a n

/-- VALVE of the pieces of an access whose word began at a program-order number. -/
def piecesValveAt (s : State) (word : Nat) (sp : Space) (acc : Acc) (ps : List Piece) : Option Trap :=
  ps.findSome? fun p => valveFaultAt s word sp acc p.lane p.addr p.n

/-- VALVE of the pieces of an access that issues now. -/
def piecesValve (s : State) (sp : Space) (acc : Acc) (ps : List Piece) : Option Trap := piecesValveAt s s.cur.seq sp acc ps

/-- Whether a core's table has room for n entries more. -/
def Core.valveRoom (c : Core) (n : Nat) : Bool := c.valve.length + n ≤ 256

/-- Whether the tables in which some ranges are to be entered have room for them. R152 tests the issuing core's before the run starts and
names no other; that a word which then finds a table full holds its port is the model's choice (log 108). -/
def State.valveFits (s : State) (rs : List (Space × Word)) : Bool :=
  let cs := rs.filterMap fun r => (s.valveAt r.1 r.2).map (·.1)
  cs.all fun n => (s.core n).valveRoom (cs.count n)

/-- A range entered for a command (R154). -/
def State.enterValve (s : State) (sp : Space) (a : Word) (n : Nat) (write : Bool) (owner seq : Nat) : State :=
  match s.valveAt sp a with
  | some v => s.modCore v.1 fun c =>
      { c with valve := c.valve ++ [{ tenant := (s.part s.curPart).tenant, space := v.2.1, lo := v.2.2, hi := v.2.2 + n,
                                      write := write, owner := owner, seq := seq }] }
  | none => s

/-- The entries of a command in every core's table, with the core. -/
def State.entriesOf (s : State) (owner seq : Nat) : List (Nat × ValveEntry) :=
  s.cores.flatMap fun p => (p.2.valve.filter fun e => e.owner = owner && e.seq = seq).map fun e => (p.1, e)

/-- The entries of a command are removed from every core's table. -/
def State.leaveValve (s : State) (owner seq : Nat) : State :=
  s.cores.foldl (fun u p =>
    if p.2.valve.any fun e => e.owner = owner && e.seq = seq then
      u.modCore p.1 fun c => { c with valve := c.valve.filter fun e => !(e.owner = owner && e.seq = seq) }
    else u) s

end Sys2Proof.Machine
end

