-- ==== Sys2Proof/Machine/Home.lean ====
section
/-! DEFINITION. Accesses at home: bytes of global memory as the Wellhead and the engines read and write them, with the poison marks of
their units (R268), the slots (R287) and the loss of a link (R289). -/

namespace Sys2Proof.Machine

open Sys2Proof

/-! Bytes with poison. -/

/-- n bytes from a place, and whether a unit that holds one of them is poisoned. -/
def State.homeRead (s : State) (place n : Nat) : List Byte × Bool :=
  (s.homeBytes place n, (List.range n).any fun i => s.poisoned (place + i))

/-- Bytes written at home: a write sets the mark of each unit it touches to that of the value (R268, R339, log 20). -/
def State.homeWrite (s : State) (place : Nat) (bs : List Byte) (poison : Bool) : State :=
  (bs.zipIdx).foldl (fun t p => (t.setByte (place + p.2) p.1).setPoison (place + p.2) poison) s

/-! Global memory of a partition. -/

/-- The place of a virtual byte for an access of a partition that the Wellhead or a Pump makes. -/
def State.gPlace (s : State) (n p : Nat) (privd : Bool) (acc : Acc) (va : Nat) : Except Cause Nat :=
  if 2 ^ 57 ≤ va then .error .memxlate else
  match translate s n p privd acc va with
  | .error c => .error c
  | .ok r => .ok r.1

/-- The places of n virtual bytes, or the first one that fails with its cause. -/
def State.gPlaces (s : State) (n p : Nat) (privd : Bool) (acc : Acc) (va len : Nat) : Except (Nat × Cause) (List Nat) :=
  match len with
  | 0 => .ok []
  | len + 1 =>
    match s.gPlaces n p privd acc va len with
    | .error e => .error e
    | .ok ps =>
      match s.gPlace n p privd acc (va + len) with
      | .error c => .error (va + len, c)
      | .ok q => .ok (ps ++ [q])

/-- Whether the Wellhead's access to n virtual bytes of a partition may be made now, with the walks that it needs (R287). -/
def State.gOpen (s : State) (p va n : Nat) : Bool :=
  let vas := blocksOf va n
  s.walksOpen 384 p vas && s.mayCross 0 p (vas.filterMap fun a => (s.lookup 384 p a).map (placeUnder s p a))

/-- The dead link over which the Wellhead would read n virtual bytes (R289). -/
def State.gLost (s : State) (p va len : Nat) : Option Nat :=
  match s.gPlaces 384 p true .load va len with
  | .error _ => none
  | .ok ps => (ps.filterMap (s.deadFrom 0 p)).head?

/-- Bytes of global memory read by the Wellhead in privileged mode under a partition's translation; over a dead link they are no bytes
of memory (R289, log 7). -/
def State.gLoad (s : State) (p va len : Nat) : Except Cause (List Byte) :=
  match s.gPlaces 384 p true .load va len with
  | .error e => .error e.2
  | .ok ps =>
    if (ps.filterMap (s.deadFrom 0 p)).isEmpty then .ok (ps.map s.byteAt)
    else .ok ((List.range len).map fun i => BitVec.ofNat 8 (Config.freeNat (s.fresh + i)))

/-- Such a read is counted when its link is dead (R457). -/
def State.countRead (s : State) (p va len : Nat) : State :=
  match s.gLost p va len with
  | some k => { s.countLost k with fresh := s.fresh + len }
  | none => s

/-- A 64-bit word of global memory. -/
def State.gWord (s : State) (p va : Nat) : Except Cause Word :=
  match s.gLoad p va 8 with
  | .error c => .error c
  | .ok bs => .ok (ofBytes 64 bs)

/-- Bytes written at places, each with its poison mark; those over a dead link are dropped and the access is counted. The last field
says whether some were dropped. -/
def State.putPlaces (s : State) (p : Nat) (ps : List (Nat × Byte × Bool)) : State × Bool :=
  match (ps.filterMap fun q => s.deadFrom 0 p q.1).head? with
  | some k => (s.countLost k, true)
  | none => (ps.foldl (fun t q => (t.setByte q.1 q.2.1).setPoison q.1 q.2.2) s, false)

/-- A write of global memory by the Wellhead: none where the translation refuses it, and whether a dead link dropped it. -/
def State.gStore (s : State) (p va : Nat) (bs : List Byte) : Option (State × Bool) :=
  match s.gPlaces 384 p true .store va bs.length with
  | .error _ => none
  | .ok ps => some (s.putPlaces p (List.zipWith (fun a b => (a, b, false)) ps bs))

end Sys2Proof.Machine
end

