-- ==== Sys2Proof/Machine/Preempt.lean ====
section
/-! DEFINITION. Pre-emption requests and the decision each work cluster makes on them (R257, R259 to R263, R285, R456), with the size of
a team's record (R255) and the strokes its engines still owe (R201, R221). -/

namespace Sys2Proof.Machine

open Sys2Proof

/-! Engine strokes (R201, R221). -/

/-- Strokes of a multiply operation at PASSES 1 (R201). -/
def mulStrokes (ty : Ty) (sparse : Bool) : Nat :=
  let d := if ty = .f32 then 8 else if ty.pik = 0 then 4 else ceilDiv (4 * ty.pik) (planeRoom ty.pik)
  if sparse then ceilDiv d 2 else d

/-- The dimension of a factor tile; none in the other modes (R211, R212). -/
def TileMode.dim : TileMode → Option Nat
  | .factor n => some n
  | _ => none

/-- Strokes of an operation at PASSES 1 on a tile in a mode; `lost` is the column at which a sweep loses definiteness. -/
def opStrokes (mode : TileMode) (lost : Option Nat) : MOpKind → Nat
  | .mzero => 1
  | .mma _ _ _ ty sparse => mulStrokes ty sparse
  | .mlda _ _ | .msta _ _ | .ftld _ _ _ => 8
  | .toVec _ _ | .fromVec _ _ => 2
  | .ftinit _ _ => 2
  | .ftupd _ _ =>
    match mode.dim, lost with
    | none, _ => 2
    | some _, some c => 4 + 2 * (c + 1)
    | some n, none => 4 + 2 * n
  | .ftsolv _ _ _ => match mode.dim with
    | none => 2
    | some n => 2 + n
  | .ftldet _ => 8
  | .ftst _ _ => match mode.dim with
    | none => 2
    | some _ => 8

/-- The class of an operation: N for multiplies and moves, F for MZERO, MLDA and MSTA, S for factor operations (R79, R201, R221). -/
def opClass : MOpKind → Nat
  | .mzero | .mlda _ _ | .msta _ _ => 0
  | .mma _ _ _ _ _ | .toVec _ _ | .fromVec _ _ => 1
  | .ftinit _ _ | .ftupd _ _ | .ftsolv _ _ _ | .ftldet _ | .ftld _ _ _ | .ftst _ _ => 2

/-- The activity event of an operation's strokes: matrix operations by the width of their operands, factor operations; none for the
others, which the table of R91 does not list. -/
def opEvent : MOpKind → Option Nat
  | .mma _ _ _ ty _ =>
    some (if ty = .f32 then 16 else if ty.pik = 0 then 17 else if 5 ≤ ty.pik then 18 else 19)
  | .ftinit _ _ | .ftupd _ _ | .ftsolv _ _ _ | .ftldet _ | .ftld _ _ _ | .ftst _ _ => some 20
  | .mzero | .mlda _ _ | .msta _ _ | .toVec _ _ | .fromVec _ _ => none

/-! Power clusters (R88). -/

/-- The power cluster of a core. -/
def powerOf (n : Nat) : Nat := 16 * (n / 96) + (n % 96 / 12 / 2) * 4 + n % 12 / 3
def State.passesOf (s : State) (n : Nat) : Nat := (Store.get s.power.clusters (powerOf n)).passes

/-! The groups of a team. -/

/-- The tiles a group's record holds (R255). -/
def State.leaseTiles (s : State) (n : Nat) (g : Group) : Nat :=
  match g.lease with
  | some x => (s.ctx n x).ntiles
  | none => 0

/-- Bytes of a group's record, rounded up to 4 KB (R255). -/
def groupBytes (allot tiles : Nat) : Nat := ceilDiv (0x4000 + 128 * allot + 0x1000 * tiles) 4096 * 4096

/-- S: bytes of a team's record (R255). -/
def State.recordBytes (s : State) (t : Nat) : Nat :=
  let r := (s.launch (s.team t).launch).info
  0x1000 + r.spGranules * 4096 + sumOf ((s.groupsOf t).map fun g => groupBytes r.allot (s.leaseTiles g.1 g.2.2))

/-- A tile as the batch that runs has left it. -/
def Ctx.workTile (c : Ctx) (i : Nat) : Tile := (assoc c.work.tiles i).getD (Store.get c.tiles i)

/-- The mode in which an operation leaves its tile, as far as its kind alone tells (R211). -/
def TileMode.after (m : TileMode) (k : MOpKind) : TileMode :=
  match k with
  | .mzero | .mma .. | .mlda .. | .fromVec .. => .matrix
  | .ftinit n _ | .ftld n _ _ => .factor n
  | .msta .. | .toVec .. | .ftupd .. | .ftsolv .. | .ftldet .. | .ftst .. => m

/-- Strokes of queued operations, each on the mode that the ones before it leave its tile in (R201, R221). -/
def queuedStrokes (modes : Store TileMode) (ops : List MOp) : Nat :=
  match ops with
  | [] => 0
  | o :: r =>
    let m := Store.get modes o.acc
    opStrokes m none o.kind + queuedStrokes (Store.put modes o.acc (m.after o.kind)) r

/-- Engine strokes that the contexts of a team's groups still owe, at the PASSES of the core (R260). -/
def State.engineOwed (s : State) (t : Nat) : Nat :=
  s.passesOf (s.team t).core * sumOf ((s.groupsOf t).map fun g =>
    match g.2.2.lease with
    | none => 0
    | some x =>
      let c := s.ctx g.1 x
      queuedStrokes (Store.putAll [] ((List.range 8).map fun i => (i, (c.workTile i).mode))) (c.ops.filter fun o => !o.ran))

/-- Bytes of Pump commands not yet written (R260). -/
def State.pumpOwed (s : State) (t : Nat) : Nat :=
  sumOf ((s.groupsOf t).map fun g => sumOf (g.2.2.cmds.map fun c =>
    match c.kind with
    | .siph => 0
    | _ => c.len - c.written))

/-- The save cost of a team (R260). -/
def State.saveCost (s : State) (t : Nat) : Nat :=
  ceilDiv (s.recordBytes t) 256 + s.engineOwed t + ceilDiv (s.pumpOwed t) 128

/-- C: the largest cost over the cluster's cores. -/
def State.clusterCost (s : State) (c : Nat) : Nat := maxOf ((s.cluster c).teams.map s.saveCost)

/-- Whether drain fits (R260). -/
def State.drainFits (s : State) (c d : Nat) : Bool :=
  (s.cluster c).teams.all fun t =>
    let b := (s.launch (s.team t).launch).info.budget.toNat
    b != 0 && decide (b - (s.team t).used ≤ d)

/-- The decision of a cluster (R259). -/
def State.decisionOf (s : State) (c d : Nat) : Nat :=
  if s.drainFits c d then 0
  else if s.clusterCost c ≤ d then 1
  else if (s.launch (s.cluster c).launch).info.restart then 2
  else 3

/-- The decision takes effect (R259, R262, R263, R266); a team of the cluster that is still being placed follows once it is resident. -/
def State.makeDecision (s : State) (req c d : Nat) : State :=
  let k := s.decisionOf c d
  let s1 := s.modCluster c fun v =>
    { v with decision := some k, request := req, deadline := d, yielded := false,
             pdeadline := if k = 1 then BitVec.ofNat 32 (d - s.clusterCost c) else 0 }
  if k = 3 then s1.saveCluster c 4
  else if k = 2 then (s.cluster c).teams.foldl (fun u t =>
    if (u.team t).st == TeamState.resident then (u.modTeam t fun v => { v with st := TeamState.discarding }).dropTeamWork t else u) s1
  else s1

/-- The clusters of a partition with a team resident on one of some cores. -/
def State.clustersOn (s : State) (p : Nat) (cores : List Nat) : List Nat :=
  (s.clusters.filter fun c =>
    (s.launch c.2.launch).part == p &&
      c.2.teams.any fun t => (s.team t).st == TeamState.resident && cores.contains (s.team t).core).map (·.1)

/-- A pre-emption request of a partition over the cores in PRQCORES that it owns (R259, R285). -/
def requestPreempt (s : State) (p d : Nat) : State :=
  let v := s.part p
  let cores := (bitsOf v.prqCores).filter v.cores.contains
  let req := s.names.request + 1
  let s1 := { s.setPart p { v with requests := v.requests ++ [(req, cores)] } with names := { s.names with request := req } }
  (s1.clustersOn p cores).foldl (fun u c => if (u.cluster c).decision.isNone then u.makeDecision req c d else u) s1

/-- RESUME is written to a team's record, or is owed until the slots of its links let it leave (R257, R287). -/
def State.writeResume (s : State) (p t : Nat) : State :=
  match (s.team t).record with
  | none => s
  | some r =>
    if !s.gOpen p (r.toNat + 8) 8 then s.modTeam t fun v => { v with resumeDue := true } else
    let u := s.modTeam t fun v => { v with resumeDue := false }
    match u.gStore p (r.toNat + 8) (bytesOf (1 : Word) 8) with
    | some x => x.1
    | none => u

/-- The KINDs of saves that a request causes (R255, R257). -/
def preemptKind (k : Nat) : Bool := 2 ≤ k && k ≤ 4

/-- The parked candidates of a team go on at the runs after their YIELDs (R263, R456). -/
def State.unpark (s : State) (t : Nat) : State :=
  (s.heldGroups t).foldl (fun (u : State) g => u.setGroup g.1 g.2.1 { g.2.2 with arch := { g.2.2.arch with
    cands := g.2.2.arch.cands.map fun x => if x.hold == .parked then { x with hold := .none, readyAt := none } else x } }) s

/-- A cluster whose request is withdrawn: a decision not yet served ends, and parked candidates go on; saved teams are resumed
(R257, R456). -/
def State.withdrawCluster (s : State) (p c : Nat) : State :=
  let v := s.cluster c
  let open_ := v.teams.all fun t => match (s.team t).st with
    | .resident | .placing | .ended => true
    | _ => false
  let s1 := if open_ then
      v.teams.foldl State.unpark
        (s.setCluster c { v with decision := none, pdeadline := 0, deadline := 0, yielded := false })
    else s
  v.teams.foldl (fun u t => if (u.team t).st == TeamState.saved && preemptKind (u.team t).kind then u.writeResume p t else u)
    (s1.modCluster c fun w => { w with request := 0 })

/-- Every request of a partition is withdrawn (R285). -/
def withdrawPreempt (s : State) (p : Nat) : State :=
  let v := s.part p
  let reqs := v.requests.map (·.1)
  let s1 := s.setPart p { v with requests := [] }
  s1.clusters.foldl (fun u c => if c.2.request != 0 && reqs.contains c.2.request then u.withdrawCluster p c.1 else u) s1

/-- A write to PRQCTL (R285). -/
def writePrqctl (s : State) (p : Nat) (v : Word) : State :=
  if bit v 33 then withdrawPreempt s p
  else if bit v 32 && v.extractLsb' 0 32 != 0 then requestPreempt s p (v.extractLsb' 0 32).toNat
  else s

/-- PREEMPT_REQUEST (R259). -/
def execPreemptRequest (part d : Nat) (s : State) : Host.Outcome State Fault Refusal :=
  event s (if d = 0 then none else some (requestPreempt s part d))

/-- PREEMPT_WITHDRAW (R285). -/
def execPreemptWithdraw (part : Nat) (s : State) : Host.Outcome State Fault Refusal :=
  event s (if (s.part part).requests.isEmpty then none else some (withdrawPreempt s part))

end Sys2Proof.Machine
end

