-- ==== Sys2Proof/Machine/Window.lean ====
section
/-! DEFINITION. The on-chip window, space W: the map of R130, who may read and write it (R131, R132), and the registers it holds (R4,
R91, R145, R150, R273, R285, R286, R288, R291, R457). -/

namespace Sys2Proof.Machine

open Sys2Proof

/-! The block of a core. -/

/-- The slot and the register of the group that owns a physical register (R28, R130). -/
def State.regOwner (s : State) (n p : Nat) : Option (Nat × Nat) :=
  (List.range 64).findSome? fun k =>
    let g := s.group n k
    if g.st = .free then none else
    ((g.blocks.zipIdx.find? fun b => b.1 = p / 8).map fun b => (k, 8 * b.2 + p % 8))

/-- An element of a core's block at a 4-byte offset: registers, accumulators, lookup-table banks. -/
def State.coreElt (s : State) (n o : Nat) : Elt :=
  if o < 0x80000 then
    let p := o / 128
    let l := o / 4 % 32
    match s.regOwner n p with
    | some (k, r) => (s.group n k).arch.getV r l
    | none => Store.get (s.core n).wregs (32 * p + l)
  else if 0x200000 ≤ o ∧ o < 0x220000 then
    let t := (o - 0x200000) / 0x1000
    Store.get (Store.get (s.ctx n (t / 8)).tiles (t % 8)).elts (o % 0x1000 / 4)
  else if 0x280000 ≤ o ∧ o < 0x280400 then Store.get (s.core n).lut.elts ((o - 0x280000) / 4)
  else if 0x281000 ≤ o ∧ o < 0x281400 then Store.get (s.core n).lut.elts (256 + (o - 0x281000) / 4)
  else if o = 0x281800 then
    ⟨(if (s.core n).lut.cur then 1 else 0) ||| (if (s.core n).lut.queue.isEmpty then 0 else 0x10), false⟩
  else if o = 0x300000 then ⟨if (s.core n).stopAll then 1 else 0, false⟩
  else {}

/-- A change of a group's registers from outside its words also stands in the checkpoints of its unresolved words, so that a rollback
keeps it (R131, R251). -/
def Group.writeThrough (g : Group) (f : Arch → Arch) : Group :=
  { g with arch := f g.arch, aq := g.aq.map fun y => if y.resolved then y else { y with ckpt := f y.ckpt } }

/-- A write of such an element; CUR and holes ignore it (R130, R231). -/
def State.setCoreElt (s : State) (n o : Nat) (e : Elt) : State :=
  if o < 0x80000 then
    let p := o / 128
    let l := o / 4 % 32
    match s.regOwner n p with
    | some (k, r) => s.modGroup n k fun g => g.writeThrough fun a => a.putV r l e
    | none => s.modCore n fun c => { c with wregs := Store.put c.wregs (32 * p + l) e }
  else if 0x200000 ≤ o ∧ o < 0x220000 then
    let t := (o - 0x200000) / 0x1000
    s.modCtx n (t / 8) fun c =>
      let v := Store.get c.tiles (t % 8)
      { c with tiles := Store.put c.tiles (t % 8) { v with elts := Store.put v.elts (o % 0x1000 / 4) e } }
  else if 0x280000 ≤ o ∧ o < 0x280400 then
    s.modCore n fun c => { c with lut := { c.lut with elts := Store.put c.lut.elts ((o - 0x280000) / 4) e } }
  else if 0x281000 ≤ o ∧ o < 0x281400 then
    s.modCore n fun c => { c with lut := { c.lut with elts := Store.put c.lut.elts (256 + (o - 0x281000) / 4) e } }
  else if o = 0x300000 then s.modCore n fun c => { c with stopAll := bit e.bits 0 }
  else s

/-- Bytes of a core's block, inside one 8-byte unit, with poison. -/
def State.coreRead (s : State) (n o len : Nat) : List Byte × Bool :=
  if !s.coreEnabled n then (List.replicate len 0, false)
  else if 0x100000 ≤ o ∧ o < 0x1C0000 then s.homeRead (scratchPlace n (o - 0x100000)) len
  else
    let lo := s.coreElt n (o / 8 * 8)
    let hi := s.coreElt n (o / 8 * 8 + 4)
    let used (half : Nat) : Bool := (List.range len).any fun i => (o + i) % 8 / 4 == half
    (((bytesOf lo.bits 4 ++ bytesOf hi.bits 4).drop (o % 8)).take len, (used 0 && lo.poison) || (used 1 && hi.poison))

/-- One element of a core's block with some of its bytes written. -/
def State.coreMerge (s : State) (n o : Nat) (bs : List (Nat × Byte)) (poison : Bool) : State :=
  if bs.isEmpty then s else
  let old := bytesOf (s.coreElt n o).bits 4
  let new := (old.zipIdx).map fun p => (assoc bs p.2).getD p.1
  s.setCoreElt n o ⟨ofBytes 32 new, poison⟩

def State.coreWrite (s : State) (n o : Nat) (bs : List Byte) (poison : Bool) : State :=
  if !s.coreEnabled n then s
  else if 0x100000 ≤ o ∧ o < 0x1C0000 then s.homeWrite (scratchPlace n (o - 0x100000)) bs poison
  else
    let at_ := (bs.zipIdx).map fun p => ((o + p.2) % 8, p.1)
    let s1 := s.coreMerge n (o / 8 * 8) (at_.filter fun p => p.1 < 4) poison
    s1.coreMerge n (o / 8 * 8 + 4) ((at_.filter fun p => 4 ≤ p.1).map fun p => (p.1 - 4, p.2)) poison

/-! Registers of 64 bits. -/

/-- DINFO (R4). -/
def State.dinfo (s : State) : Word :=
  let f := s.fuses
  BitVec.ofNat 64 (0x01 * 2 ^ 48 + (384 - f.noCores.length) * 2 ^ 39 + (384 - f.noChannels.length) * 2 ^ 30
    + (32 - f.noPumps.length) * 2 ^ 24 + (16 - f.noPorts.length) * 2 ^ 19 + f.stepping.toNat * 2 ^ 11)

/-- RETWM (R285): the lowest sequence number of the partition's teams that are not retired or ended. -/
def State.retwm (s : State) (p : Nat) : Word :=
  let live := s.teams.filterMap fun t =>
    if (s.launch t.2.launch).part = p && t.2.st != TeamState.ended then t.2.seq.map (·.toNat) else none
  match minBy id live with
  | some n => BitVec.ofNat 64 n
  | none => (s.part p).nextSeq

/-- XLINV reads 1 while an access that uses a removed translation is under way (R150). A store of TEAM or GROUP scope counts as performed
once it is in the L1, though its bytes are still dirty there: the model's choice, since R150 does not say at which scope (log 31). -/
def State.xlBusy (s : State) : Bool :=
  (s.groups.any fun g => g.2.aq.any fun x => x.stale && !x.done)
    || (s.streams.any fun v => v.2.grp.aq.any fun x => x.stale && !x.done)
    || s.cores.any fun c => c.2.ctxs.any fun v => v.2.ops.any fun o => o.stale && o.loaded.isNone

/-- A register whose value on a read the manual does not state (log 7). -/
def State.anyWord64 (s : State) : Word := BitVec.ofNat 64 (Config.freeNat s.fresh)

/-- STATUS of a stream slot (R273). -/
def Stream.status (v : Stream) : Word :=
  BitVec.ofNat 64 ((v.part.getD 0) * 2 ^ 59 + (if v.part.isSome then 2 ^ 58 else 0) + v.cause.toNat * 2 ^ 8 + v.state.toNat)

/-- A register of a stream slot. -/
def State.slotReg (s : State) (k r : Nat) : Word :=
  let v := s.stream k
  match r with
  | 0x00 => v.start
  | 0x08 => v.status
  | 0x10 => v.grp.epc
  | 0x18 => v.grp.ecause
  | 0x20 => v.grp.einfo
  | _ => 0

/-- A register of a local partition (R285). -/
def State.partReg (s : State) (p r : Nat) : Word :=
  let v := s.part p
  if 0x20 ≤ r ∧ r < 0x50 then v.prqCores.extractLsb' (8 * (r - 0x20)) 64
  else if 0x90 ≤ r ∧ r < 0xC0 then v.timedCores.extractLsb' (8 * (r - 0x90)) 64
  else match r with
  | 0x00 => v.nextSeq
  | 0x08 => s.retwm p
  | 0x10 | 0x60 => s.anyWord64
  | 0x68 => if v.resetting then 1 else 0
  | 0x70 => v.sumpBase
  | 0x78 => v.sumpSize
  | 0x80 => v.sumpLog
  | 0x88 => v.sumpHead.setWidth 64
  | 0xC0 => v.pumps.setWidth 64
  | _ => 0

/-- A register of the Wellhead block. -/
def State.wellheadReg (s : State) (o : Nat) : Word :=
  if o < 0x2000 then s.slotReg (o / 0x40) (o % 0x40)
  else if 0x4000 ≤ o ∧ o < 0x6000 then s.partReg ((o - 0x4000) / 0x100) (o % 0x100)
  else if o = 0x8000 then (if s.time.lock then 1 else 0) ||| (if s.time.set then 2 else 0)
  else if o = 0x8008 then s.anyWord64
  else if 0x9000 ≤ o ∧ o < 0x9400 then Store.get s.errors ((o - 0x9000) / 8)
  else if o = 0xA000 then s.rewriter.descr
  else if o = 0xA008 then BitVec.ofNat 64 s.rewriter.status
  else 0

def putSlotEntry (t : Store (BitVec 16)) (i : Nat) (v : BitVec 16) : Store (BitVec 16) := Store.put t i (~~~v)

/-- Four entries of a slot table as a register. -/
def slotWord (t : Store (BitVec 16)) (i : Nat) : Word :=
  slotEntry t (i + 3) ++ slotEntry t (i + 2) ++ slotEntry t (i + 1) ++ slotEntry t i

/-- Whether a link is an Aquifer port that is fused off (R288). -/
def State.linkOff (s : State) (k : Nat) : Bool := 6 ≤ k && k ≤ 21 && s.fuses.noPorts.contains (k - 6)

/-- A register of the link slot block. -/
def State.linkReg (s : State) (o : Nat) : Word :=
  let k := o / 0x800
  let r := o % 0x800
  let l := s.link k
  if 23 ≤ k ∨ s.linkOff k then 0
  else if r < 0x200 then slotWord l.table (r / 2)
  else if r < 0x400 then slotWord l.shadow ((r - 0x200) / 2)
  else if r = 0x400 then (l.offsetNext.getD l.offset).setWidth 64
  else if r = 0x408 then l.acttime
  else if r = 0x410 then (if l.armed then 1 else 0) ||| (if l.up then 2 else 0)
  else 0

/-- A register of the power block (R90 to R94). -/
def State.powerReg (s : State) (o : Nat) : Word :=
  if o < 0x20 then
    (if bit s.power.estimate (o / 8) then 1 else 0) ||| (if bit s.power.ovld (o / 8) then 2 else 0)
  else if 0x40 ≤ o ∧ o < 0x60 then (Store.get s.power.budget ((o - 0x40) / 8)).setWidth 64
  else if 0x100 ≤ o ∧ o < 0x280 then (Store.get s.power.weights ((o - 0x100) / 8)).setWidth 64
  else 0

/-- A register of translation control (R145, R150). -/
def State.xlateReg (s : State) (o : Nat) : Word :=
  if o = 0 then (if s.xlBusy then 1 else 0)
  else if o = 8 then s.xlate.xlten.setWidth 64
  else if 0x100 ≤ o ∧ o < 0x200 then (s.part ((o - 0x100) / 8)).xlroot
  else 0

/-- The register at an 8-byte address outside the core blocks. -/
def State.winReg (s : State) (a : Nat) : Word :=
  if a = 0x7F00000000 then s.dinfo
  else if 0x7F00010000 ≤ a ∧ a < 0x7F00020000 then s.powerReg (a - 0x7F00010000)
  else if 0x7F00020000 ≤ a ∧ a < 0x7F00021000 then s.xlateReg (a - 0x7F00020000)
  else if 0x7F00030000 ≤ a ∧ a < 0x7F00040000 then s.wellheadReg (a - 0x7F00030000)
  else if 0x7F00040000 ≤ a ∧ a < 0x7F00050000 then s.linkReg (a - 0x7F00040000)
  else 0

/-- Bytes of the window inside one 8-byte unit, with poison. -/
def State.winRead (s : State) (a n : Nat) : List Byte × Bool :=
  if a < 384 * 0x400000 then s.coreRead (a / 0x400000) (a % 0x400000) n
  else (((bytesOf (s.winReg (a / 8 * 8)) 8).drop (a % 8)).take n, false)

/-! Writes that a group may make (R132). -/

/-- The range of a size code of XLINV; none where other codes are ignored (R150). -/
def xlinvSize (code : Nat) : Option Nat :=
  match code with
  | 0 => some 0x1000
  | 1 => some 0x10000
  | 2 => some 0x200000
  | 3 => some 0x40000000
  | 15 => some (2 ^ 57)
  | _ => none

/-- Whether n bytes from a meet one of some ranges. -/
def inRanges (rs : List (Nat × Nat)) (a n : Nat) : Bool := rs.any fun r => decide (a < r.2) && decide (r.1 < a + n)

/-- Accesses that use a removed translation, of pages in some ranges, are marked (R150). -/
def markStale (rs : List (Nat × Nat)) (aq : List Access) : List Access :=
  aq.map fun x =>
    if x.space == .g && x.resolved && !x.done && (x.pieces.any fun p => inRanges rs p.addr.toNat p.n) then { x with stale := true } else x

/-- Whether a tile operation moves bytes of some ranges of G. -/
def MOp.uses (rs : List (Nat × Nat)) (o : MOp) : Bool :=
  match o.kind with
  | .mlda .g a | .msta .g a | .ftld _ .g a | .ftst .g a => inRanges rs a.toNat 4096
  | _ => false

/-- Tile operations that use a removed translation and have still to move their bytes are marked (R150, R203). -/
def Ctx.markStale (rs : List (Nat × Nat)) (c : Ctx) : Ctx :=
  { c with ops := c.ops.map fun o => if o.uses rs && o.loaded.isNone then { o with stale := true } else o }

/-- Whether XLINV removes a cached translation: one of tenant t whose page meets [lo, hi) (R150). -/
def TlbEntry.removed (e : TlbEntry) (t : BitVec 32) (lo hi : Nat) : Bool := e.tenant = t && e.base < hi && lo < e.base + e.size

/-- The ranges whose accesses may use what XLINV removes from a core: [lo, hi), and every page removed there whole (R150). -/
def Core.removedRanges (c : Core) (t : BitVec 32) (lo hi : Nat) : List (Nat × Nat) :=
  (lo, hi) :: (c.tlb.filter fun e => e.removed t lo hi).map fun e => (e.base, e.base + e.size)

/-- The partition whose translation a group uses. -/
def State.partOfGroup (s : State) (g : Group) : Nat := (s.launch (s.team g.team).launch).part

/-- A write to XLINV: the tenant's translations of the range are removed from every core (R150). -/
def writeXlinv (s : State) (v : Word) : State :=
  match xlinvSize (v.extractLsb' 0 4).toNat with
  | none => s
  | some size =>
    let t := s.xlate.xlten
    let lo := (v.extractLsb' 12 45).toNat * 0x1000 / size * size
    let hi := lo + size
    let gone (n : Nat) : List (Nat × Nat) := (s.core n).removedRanges t lo hi
    let s1 := { s with xlate := { s.xlate with xlinv := v } }
    let s2 := s1.cores.foldl (fun u c => u.modCore c.1 fun k => { k with tlb := k.tlb.filter fun e => !e.removed t lo hi }) s1
    let s3 := s2.groups.foldl (fun u g =>
      if (u.part (u.partOfGroup g.2)).tenant = t then
        u.modGroup (g.1 / 64) (g.1 % 64) fun k => { k with aq := markStale (gone (g.1 / 64)) k.aq }
      else u) s2
    let s4 := s3.streams.foldl (fun u v =>
      if (u.part (v.2.part.getD 0)).tenant = t then
        u.modStream v.1 fun k => { k with grp := { k.grp with aq := markStale (gone 384) k.grp.aq } }
      else u) s3
    s4.cores.foldl (fun u c => (List.range 4).foldl (fun w x => match (w.ctx c.1 x).holder with
      | some k =>
        if (w.part (w.partOfGroup (w.group c.1 k))).tenant = t then w.modCtx c.1 x (Ctx.markStale (gone c.1)) else w
      | none => w) u) s4

/-- A value of 64 bits with some of its bytes replaced. -/
def mergeBytes (old : Word) (o : Nat) (bs : List Byte) : Word :=
  let pre := bytesOf old 8
  ofBytes 64 (pre.take o ++ bs ++ pre.drop (o + bs.length))

/-- PRQCORES with 64 of its bits replaced; bit n is core n. -/
def putCores (m : BitVec 384) (j : Nat) (v : Word) : BitVec 384 :=
  (m &&& ~~~((0xFFFFFFFFFFFFFFFF : BitVec 384) <<< (64 * j))) ||| (v.setWidth 384 <<< (64 * j))

/-- The registers that groups and streams may write. -/
def State.putReg (s : State) (a : Nat) (v : Word) : State :=
  if a = 0x7F00020000 then writeXlinv s v
  else if a = 0x7F00020008 then { s with xlate := { s.xlate with xlten := v.setWidth 32 } }
  else if 0x7F00034000 ≤ a ∧ a < 0x7F00036000 then
    let p := (a - 0x7F00034000) / 0x100
    let r := a % 0x100
    if r = 0x10 then writePrqctl s p v
    else if 0x20 ≤ r ∧ r < 0x50 then s.modPart p fun x => { x with prqCores := putCores x.prqCores ((r - 0x20) / 8) v }
    else s
  else s

/-- The value a register keeps in the bytes that a narrow write leaves. -/
def State.regBase (s : State) (a : Nat) : Word :=
  if a = 0x7F00020000 then s.xlate.xlinv
  else if 0x7F00034000 ≤ a ∧ a < 0x7F00036000 ∧ a % 0x100 = 0x10 then 0
  else s.winReg a

/-- A write of bytes inside one 8-byte unit of the window by a group, a stream or a Pump. -/
def State.winWrite (s : State) (a : Nat) (bs : List Byte) (poison : Bool) : State :=
  if a < 384 * 0x400000 then s.coreWrite (a / 0x400000) (a % 0x400000) bs poison
  else s.putReg (a / 8 * 8) (mergeBytes (s.regBase (a / 8 * 8)) (a % 8) bs)

/-- Offsets of a partition's registers and of a stream slot that hold no register: writes to them are ignored (R130, R273, R285). -/
def partHole (r : Nat) : Bool := r / 8 == 3 || (decide (0x50 ≤ r) && decide (r < 0x60)) || decide (0xC8 ≤ r)
def slotHole (r : Nat) : Bool := decide (0x28 ≤ r)

/-- The limits of R132 on an access of a partition's group, Pump command or stream to n bytes inside one 8-byte unit: bs is what a
write stores. -/
def State.winAllowed (s : State) (p a : Nat) (bs : Option (List Byte)) : Bool :=
  let u := a / 8 * 8
  if a < 384 * 0x400000 then (s.part p).cores.contains (a / 0x400000)
  else if a < 0x7F00020000 then bs.isNone
  else if a < 0x7F00021000 then
    let o := u - 0x7F00020000
    match bs with
    | none => if 0x100 ≤ o ∧ o < 0x200 then (o - 0x100) / 8 == p else true
    | some b =>
      if o = 8 then mergeBytes (s.regBase u) (a % 8) b == (s.part p).tenant.setWidth 64
      else !(decide (0x100 ≤ o) && decide (o < 0x200))
  else if a < 0x7F00040000 then
    let o := u - 0x7F00030000
    if o < 0x2000 then (bs.isNone || slotHole (o % 0x40)) && (s.stream (o / 0x40)).part == some p
    else if 0x4000 ≤ o ∧ o < 0x6000 then
      (o - 0x4000) / 0x100 == p && (bs.isNone || partHole (o % 0x100) || o % 0x100 == 0x10
        || (decide (0x20 ≤ o % 0x100) && decide (o % 0x100 < 0x50)))
    else if o = 0x8008 ∨ o = 0xA000 then false
    else bs.isNone || !(o == 0x8000 || (decide (0x9000 ≤ o) && decide (o < 0x9400)) || o == 0xA008)
  else bs.isNone

/-- MEMPERM of pieces in W (R132). -/
def piecesWindow (s : State) (acc : Acc) (ps : List Piece) : Option Trap :=
  ps.findSome? fun p =>
    if s.winAllowed s.curPart p.addr.toNat (if acc = .load then none else some (bytesOf p.val p.n)) then none
    else some (memTrap .memperm acc p.lane .w p.addr.toNat)

end Sys2Proof.Machine
end

