-- ==== Sys2Proof/Machine/Memory.lean ====
section
/-! DEFINITION. Reads and writes at a point of coherence (R139, R166, R169, R171, R176): the L1 of a core for GROUP and TEAM scope in G,
home for wider scopes and for the other spaces. -/

namespace Sys2Proof.Machine

open Sys2Proof

/-- Scope codes (R166). -/
def scopeCode : Scope → Nat
  | .group => 0 | .team => 1 | .clus => 2 | .dev => 3 | .part => 4 | .sys => 5

/-- Scopes whose point of coherence for G lies beyond the L1 (R166). -/
def isWide (x : Scope) : Bool := 2 ≤ scopeCode x

/-! The L1 data cache (R139). -/

/-- The partition that owns a core. -/
def State.partOfCore (s : State) (n : Nat) : Nat := ((s.parts.find? fun p => p.2.cores.contains n).map (·.1)).getD 0

/-- The line of a place. -/
def lineOf (place : Nat) : Nat := place / 128

/-- Dirty bytes of an L1 written home: those a test selects (R169, R171). Bytes beyond a dead link are dropped, and each line of them
is counted (R289, R457). -/
def State.l1Flush (s : State) (n : Nat) (sel : Nat → L1Byte → Bool) : State :=
  let c := s.core n
  let out := c.l1.filter fun e => e.2.dirty != 0 && sel e.1 e.2
  if out.isEmpty then s else
  let dead (a : Nat) : Option Nat := s.deadFrom (n / 96) (s.partOfCore n) a
  let s0 := ((out.filterMap fun e => (dead e.1).map fun k => (lineOf e.1, k)).eraseDups).foldl (fun (u : State) l => u.countLost l.2) s
  let s1 := out.foldl (fun u e => if (dead e.1).isSome then u else u.setByte e.1 e.2.val) s0
  s1.setCore n { c with l1 := c.l1.map fun e => if e.2.dirty != 0 && sel e.1 e.2 then (e.1, { e.2 with dirty := 0 }) else e }

/-- Whether the dirty bytes of an L1 that a test selects may leave for home now (R287). -/
def State.flushOpen (s : State) (n : Nat) (sel : Nat → L1Byte → Bool) : Bool :=
  s.mayCross (n / 96) (s.partOfCore n) (((s.core n).l1.filter fun e => e.2.dirty != 0 && sel e.1 e.2).map (·.1))

/-- Every line of an L1 that may be held is dropped, dirty bytes written home (R171). -/
def State.l1Drop (s : State) (n : Nat) : State :=
  let s1 := s.l1Flush n fun _ _ => true
  if (s1.core n).l1.isEmpty then s1 else s1.modCore n fun c => { c with l1 := [] }

/-- A line is dropped, dirty bytes written home. -/
def State.l1DropLine (s : State) (n line : Nat) : State :=
  (s.l1Flush n fun a _ => lineOf a == line).modCore n fun c => { c with l1 := c.l1.filter fun e => lineOf e.1 != line }

/-- Lines of 128 bytes in the 128 KB of an L1 (R2, R139). -/
def l1Size : Nat := 1024

/-- The lines that an L1 holds, in order. -/
def Core.l1Lines (c : Core) : List Nat :=
  c.l1.foldr (fun e ls => if ls.head? = some (lineOf e.1) then ls else lineOf e.1 :: ls) []

/-- The lines of an L1 whose dirty bytes may leave for home now (R287). -/
def State.l1Loose (s : State) (n : Nat) : List Nat := (s.core n).l1Lines.filter fun l => s.flushOpen n fun a _ => lineOf a == l

/-- Whether an L1 has a line for a byte, or can make room for one now. -/
def State.l1Ready (s : State) (n place : Nat) : Bool :=
  let ls := (s.core n).l1Lines
  decide (ls.length < l1Size) || ls.contains (lineOf place) || !(s.l1Loose n).isEmpty

/-- Room for the line of a byte: a full L1 drops a line, of those whose dirty bytes may leave now. Which one is a free value (R2, R139,
log 129). -/
def State.l1Room (s : State) (n place : Nat) : State :=
  let ls := (s.core n).l1Lines
  if ls.length < l1Size ∨ ls.contains (lineOf place) then s else
  let vs := if (s.l1Loose n).isEmpty then ls else s.l1Loose n
  { s.l1DropLine n (vs.getD (Config.freeNat s.fresh % vs.length) 0) with fresh := s.fresh + 1 }

/-- An L1 takes the bytes of a 32-byte sector that it does not hold (R139). -/
def State.l1Fill (s0 : State) (n place : Nat) : State :=
  let s := s0.l1Room n place
  let base := place / 32 * 32
  s.modCore n fun c => { c with l1 := (List.range 32).foldl (fun l i =>
    if (assoc l (base + i)).isSome then l else assocPut l (base + i) { val := s.byteAt (base + i) }) c.l1 }

/-- The copies that an L1 holds of bytes written home take the new bytes. -/
def State.l1Update (s : State) (n place : Nat) (bs : List Byte) : State :=
  if (s.core n).l1.isEmpty then s else
  s.modCore n fun c => { c with l1 := (bs.zipIdx).foldl (fun l p =>
    if (assoc l (place + p.2)).isSome then assocPut l (place + p.2) { val := p.1 } else l) c.l1 }

/-! Release and acquire (R171). -/

/-- The release half: at CLUSTER scope or wider, data that narrower stores left dirty in the L1 is written home: not the group's alone,
because a release carries what the group has read there, and any group of the core may have written that (R172, R173, log 22). -/
def State.scopeRelease (s : State) (sc : Scope) : State :=
  if s.inStream || !isWide sc then s else s.l1Flush s.curCore fun _ _ => true

/-- The acquire half: at CLUSTER scope or wider the core's L1 is emptied. -/
def State.scopeAcquire (s : State) (sc : Scope) : State := if s.inStream || !isWide sc then s else s.l1Drop s.curCore

/-- Whether what a release or an acquire at a scope writes home may leave now (R287). -/
def State.scopeOpen (s : State) (sc : Scope) : Bool := s.inStream || !isWide sc || s.flushOpen s.curCore fun _ _ => true

/-! One location at a point of coherence. -/

/-- Whether an access goes through the L1: G, page not NC, not a stream. -/
def State.usesL1 (s : State) (sp : Space) (nc : Bool) : Bool := sp == .g && !nc && !s.inStream

/-- The quadrant of the window block that an address names, the Wellhead's for the blocks beyond the cores' (R130). -/
def winQuad (a : Nat) : Nat := if a < 384 * 0x400000 then a / 0x400000 / 96 else 0

/-- The dead link of an access that the partition of the current agent makes from quadrant q, to W or to a place (R130, R289). -/
def State.deadOver (s : State) (q : Nat) (sp : Space) (place : Nat) : Option Nat :=
  if sp = .w then s.deadPath q (winQuad place) else s.deadFrom q s.curPart place

/-- The dead link of an access of the current agent in a space (R289). -/
def State.deadAt (s : State) (sp : Space) (place : Nat) : Option Nat := s.deadOver s.curQuad sp place

/-- Whether accesses that the partition of the current agent makes from quadrant q to places of a space may be made now, each over its link
(R287, log 98). -/
def State.crosses (s : State) (q : Nat) (sp : Space) (places : List Nat) : Bool :=
  let links (a : Nat) : List Nat := if q = winQuad a then [] else [quadLink q (winQuad a)]
  if sp = .w then ((places.map links).eraseDups).all (s.linksOpen s.curPart) else s.mayCross q s.curPart places

/-- Whether accesses of the current agent to places of a space may be made now (R287). -/
def State.travels (s : State) (sp : Space) (places : List Nat) : Bool := s.crosses s.curQuad sp places

/-- Whether the L1 of the current core serves an access, with no link: a store at GROUP or TEAM scope, or a load of bytes that it holds
(R139, R171). -/
def State.served (s : State) (sp : Space) (nc : Bool) (sc : Scope) (place n : Nat) (store : Bool) : Bool :=
  s.usesL1 sp nc && !isWide sc
    && (store || (List.range n).all fun i => (assoc (s.core s.curCore).l1 (place + i)).isSome)

/-- The dead link of an access that the L1 does not serve (R289). -/
def State.lostAt (s : State) (sp : Space) (nc : Bool) (sc : Scope) (place n : Nat) (store : Bool) : Option Nat :=
  if s.served sp nc sc place n store then none else s.deadAt sp place

/-- Bytes that nothing provides: those of a load over a dead link (R289). -/
def State.lostBytes (s : State) (n : Nat) : List Byte := (bytesOf (BitVec.ofNat 64 (Config.freeNat s.fresh)) 8).take n

/-- A read of n bytes, with the poison of their units. -/
def State.readAt (s : State) (sp : Space) (nc : Bool) (sc : Scope) (place n : Nat) : State × List Byte × Bool :=
  match s.lostAt sp nc sc place n false with
  | some k => ({ s.countLost k with fresh := s.fresh + 1 }, s.lostBytes n, true)
  | none =>
    if sp = .w then ({ s with fresh := s.fresh + 1 }, s.winRead place n) else
    if s.usesL1 sp nc then
      let k := s.curCore
      let s1 := if isWide sc then s.l1DropLine k (lineOf place) else s
      let s2 := if s.served sp nc sc place n false then s1 else s1.l1Fill k place
      let l1 := (s2.core k).l1
      (s2, (List.range n).map fun i => ((assoc l1 (place + i)).map (·.val)).getD (s2.byteAt (place + i)),
        (s.homeRead place n).2)
    else (s, s.homeRead place n)

/-- A write of bytes with their poison mark. -/
def State.writeAt (s : State) (sp : Space) (nc : Bool) (sc : Scope) (place : Nat) (bs : List Byte) (poison : Bool) : State :=
  match s.lostAt sp nc sc place bs.length true with
  | some k => s.countLost k
  | none =>
    if sp = .w then s.winWrite place bs poison else
    if s.usesL1 sp nc && !isWide sc then
      let k := s.curCore
      let me : BitVec 64 := onehot 64 s.curSlot
      let s1 := (s.l1Room k place).modCore k fun c => { c with l1 := (bs.zipIdx).foldl (fun l p =>
        assocPut l (place + p.2) { val := p.1, dirty := me ||| ((assoc l (place + p.2)).getD default).dirty }) c.l1 }
      (List.range bs.length).foldl (fun u i => u.setPoison (place + i) poison) s1
    else
      let s1 := s.homeWrite place bs poison
      if s.usesL1 sp nc then s1.l1Update s.curCore place bs else s1

/-- Own narrower stores to bytes of an atomic that is performed beyond the L1 come first (R176). -/
def State.beforeAtomic (s : State) (sp : Space) (nc : Bool) (sc : Scope) (place n : Nat) : State :=
  if s.usesL1 sp nc && isWide sc then s.l1Flush s.curCore fun a _ => place ≤ a && a < place + n else s

end Sys2Proof.Machine
end

