-- ==== Sys2Proof/Machine/Scalar.lean ====
section
/-! DEFINITION. The integer scalar words of majors 0x18, 0x19 and 0x1A (R393 to R397, R325). -/

namespace Sys2Proof.Machine

open Sys2Proof

/-- A comparison of two values of a width, signed or unsigned (R301, R393). -/
def compareInt {w : Nat} (signed : Bool) (c : Cond) (x y : BitVec w) : Bool :=
  let lt := if signed then x.slt y else x.ult y
  match c with
  | .eq => x == y
  | .ne => x != y
  | .lt => lt
  | .le => lt || x == y
  | .gt => !(lt || x == y)
  | .ge => !lt
  | .un => false

/-- The larger and the smaller of two values (R393). -/
def maxInt {w : Nat} (signed : Bool) (x y : BitVec w) : BitVec w := if compareInt signed .lt x y then y else x
def minInt {w : Nat} (signed : Bool) (x y : BitVec w) : BitVec w := if compareInt signed .lt y x then y else x

/-- Bits 2w − 1 : w of the exact product (R397). -/
def mulHigh {w : Nat} (signed : Bool) (x y : BitVec w) : BitVec w :=
  if signed then BitVec.ofInt w (x.toInt * y.toInt / 2 ^ w) else BitVec.ofNat w (x.toNat * y.toNat / 2 ^ w)

/-- The quotient rounded toward zero (R397). -/
def divInt {w : Nat} (signed : Bool) (x y : BitVec w) : BitVec w :=
  if y = 0 then BitVec.allOnes w
  else if signed then BitVec.ofInt w (x.toInt.tdiv y.toInt) else BitVec.ofNat w (x.toNat / y.toNat)

/-- SADD (R393). -/
def execSadd (h : Hdr) (ty : Ty) (sd sa : BitVec 6) (b : SSrc) (s : State) : Host.Outcome State Fault Refusal :=
  finish s (intWord s h ty sd sa b (fun x y => x + y) (fun x y => x + y))

/-- SSUB (R393). -/
def execSsub (h : Hdr) (ty : Ty) (sd sa : BitVec 6) (b : SSrc) (s : State) : Host.Outcome State Fault Refusal :=
  finish s (intWord s h ty sd sa b (fun x y => x - y) (fun x y => x - y))

/-- SAND (R393). -/
def execSand (h : Hdr) (ty : Ty) (sd sa : BitVec 6) (b : SSrc) (s : State) : Host.Outcome State Fault Refusal :=
  finish s (intWord s h ty sd sa b (fun x y => x &&& y) (fun x y => x &&& y))

/-- SOR (R393). -/
def execSor (h : Hdr) (ty : Ty) (sd sa : BitVec 6) (b : SSrc) (s : State) : Host.Outcome State Fault Refusal :=
  finish s (intWord s h ty sd sa b (fun x y => x ||| y) (fun x y => x ||| y))

/-- SXOR (R393). -/
def execSxor (h : Hdr) (ty : Ty) (sd sa : BitVec 6) (b : SSrc) (s : State) : Host.Outcome State Fault Refusal :=
  finish s (intWord s h ty sd sa b (fun x y => x ^^^ y) (fun x y => x ^^^ y))

/-- SSHL: the count is taken modulo the width (R393, R404). -/
def execSshl (h : Hdr) (ty : Ty) (sd sa : BitVec 6) (b : SSrc) (s : State) : Host.Outcome State Fault Refusal :=
  finish s (intWord s h ty sd sa b (fun x y => x <<< (y.toNat % 32)) (fun x y => x <<< (y.toNat % 64)))

/-- SSHR (R393, R404). -/
def execSshr (h : Hdr) (ty : Ty) (sd sa : BitVec 6) (b : SSrc) (s : State) : Host.Outcome State Fault Refusal :=
  finish s (intWord s h ty sd sa b (fun x y => x >>> (y.toNat % 32)) (fun x y => x >>> (y.toNat % 64)))

/-- SSRA (R393, R404). -/
def execSsra (h : Hdr) (ty : Ty) (sd sa : BitVec 6) (b : SSrc) (s : State) : Host.Outcome State Fault Refusal :=
  finish s (intWord s h ty sd sa b (fun x y => x.sshiftRight (y.toNat % 32)) (fun x y => x.sshiftRight (y.toNat % 64)))

/-- SMAX (R393). -/
def execSmax (h : Hdr) (ty : Ty) (sd sa : BitVec 6) (b : SSrc) (s : State) : Host.Outcome State Fault Refusal :=
  finish s (intWord s h ty sd sa b (maxInt (signedTy ty)) (maxInt (signedTy ty)))

/-- SMIN (R393). -/
def execSmin (h : Hdr) (ty : Ty) (sd sa : BitVec 6) (b : SSrc) (s : State) : Host.Outcome State Fault Refusal :=
  finish s (intWord s h ty sd sa b (minInt (signedTy ty)) (minInt (signedTy ty)))

/-- SCMP (R393). -/
def execScmp (h : Hdr) (ty : Ty) (c : Cond) (sd sa : BitVec 6) (b : SSrc) (s : State) : Host.Outcome State Fault Refusal :=
  finish s (intWord s h ty sd sa b (fun x y => if compareInt (signedTy ty) c x y then 1 else 0)
    (fun x y => if compareInt (signedTy ty) c x y then 1 else 0))

/-- SSEL: a when c is not zero, else b (R393, R394). -/
def execSsel (h : Hdr) (ty : Ty) (sd sa sb sc : BitVec 6) (s : State) : Host.Outcome State Fault Refusal :=
  finish s (scalarWord s h
    (let a := s.cur.arch
     guardTrap (firstTrap [poisonTy a ty sa, poisonTy a ty sb, poisonTy a ty sc])
       (.done (s.modArch fun b => b.setS sd
         (if scalarWidth ty = 32 then
            extend32 ty (if (a.valS sc).setWidth 32 = (0 : Lane) then (a.valS sb).setWidth 32 else (a.valS sa).setWidth 32)
          else if a.valS sc = 0 then a.valS sb else a.valS sa)))))

/-- SMUL (R397). -/
def execSmul (h : Hdr) (ty : Ty) (sd sa : BitVec 6) (b : SSrc) (s : State) : Host.Outcome State Fault Refusal :=
  finish s (intWord s h ty sd sa b (fun x y => x * y) (fun x y => x * y))

/-- SMULH (R397). -/
def execSmulh (h : Hdr) (ty : Ty) (sd sa : BitVec 6) (b : SSrc) (s : State) : Host.Outcome State Fault Refusal :=
  finish s (intWord s h ty sd sa b (mulHigh (signedTy ty)) (mulHigh (signedTy ty)))

/-- SDIV (R397). -/
def execSdiv (h : Hdr) (ty : Ty) (sd sa : BitVec 6) (b : SSrc) (s : State) : Host.Outcome State Fault Refusal :=
  finish s (intWord s h ty sd sa b (divInt (signedTy ty)) (divInt (signedTy ty)))

/-- The effect of SMOV (R396); a copy of a scalar register reads both halves, an index register takes only the low half. -/
def movEff (s : State) (f : SMovForm) : Eff :=
  let a := s.cur.arch
  match f with
  | .ss sd sa => guardTrap (poisonS a sa) (.done (s.modArch fun b => b.setS sd (a.valS sa)))
  | .sx xd sa => guardTrap (poisonLo a sa) (.done (s.modArch fun b => b.setX xd ((a.valS sa).setWidth 8)))
  | .xs sd xa => .done (s.modArch fun b => b.setS sd ((a.getX xa).setWidth 64))

/-- SMOV (R396). -/
def execSmov (h : Hdr) (f : SMovForm) (s : State) : Host.Outcome State Fault Refusal :=
  finish s (scalarWord s h (movEff s f))

/-- SMOVI (R396). -/
def execSmovi (h : Hdr) (sd : BitVec 6) (imm : BitVec 20) (s : State) : Host.Outcome State Fault Refusal :=
  finish s (scalarWord s h (.done (s.modArch fun b => b.setS sd (imm.signExtend 64))))

/-- A word whose source is one scalar register read whole. -/
def unaryWord (s : State) (h : Hdr) (sd sa : BitVec 6) (f : Word → Word) : Eff :=
  scalarWord s h
    (guardTrap (poisonS s.cur.arch sa) (.done (s.modArch fun b => b.setS sd (f (b.valS sa)))))

/-- SHI: 16 bits of sA replaced (R396). -/
def execShi (h : Hdr) (sd sa : BitVec 6) (imm : BitVec 16) (q : BitVec 2) (s : State) : Host.Outcome State Fault Refusal :=
  finish s (unaryWord s h sd sa fun v =>
    (v &&& ~~~((0xFFFF : Word) <<< (16 * q.toNat))) ||| (imm.setWidth 64 <<< (16 * q.toNat)))

/-- SLEA (R396). -/
def execSlea (h : Hdr) (sd sa : BitVec 6) (b : SSrc) (sc : BitVec 4) (s : State) : Host.Outcome State Fault Refusal :=
  finish s (intWord s h .z64 sd sa b (fun x _ => x) (fun x y => x + (y <<< sc.toNat)))

/-- The number of leading zero bits (R396). -/
def clz (v : Word) : Nat := ((List.range 64).takeWhile fun i => !(bit v (63 - i))).length

/-- SCLZ (R396). -/
def execSclz (h : Hdr) (sd sa : BitVec 6) (s : State) : Host.Outcome State Fault Refusal :=
  finish s (unaryWord s h sd sa fun v => BitVec.ofNat 64 (clz v))

/-- SPOPC (R325). -/
def execSpopc (h : Hdr) (sd sa : BitVec 6) (s : State) : Host.Outcome State Fault Refusal :=
  finish s (unaryWord s h sd sa fun v => BitVec.ofNat 64 (popcount v))

end Sys2Proof.Machine
end

