-- ==== Sys2Proof/Machine/Queue.lean ====
section
/-! DEFINITION. The address queue of a group (R170, R171, R176, R179, R182): how accesses enter it, what holds each of them, and the
events that resolve and perform them, with the in-flight counters (R151) and the rollback of the checkpoint journal (R250, R251). -/

namespace Sys2Proof.Machine

open Sys2Proof

/-- The agent of an event: a slot of a core, or a stream of the Wellhead, for which core 384 stands. -/
def agentOf (core slot cand : Nat) : Agent := if core = 384 then .stream slot else .group core slot cand

/-- The state with a group or a stream as its agent. -/
def State.at_ (s : State) (core slot cand : Nat) : State := { s with agent := agentOf core slot cand }

/-! Entries. -/

def Access.isLoad (x : Access) : Bool := x.kind == .load || x.kind == .tblld
def Access.isFence (x : Access) : Bool := x.kind == .fence
def Access.isAtomic (x : Access) : Bool :=
  match x.kind with
  | .atomic _ => true
  | _ => false
/-- Stores and atomics. -/
def Access.stores (x : Access) : Bool := x.kind == .store || x.isAtomic

/-- Acquire and release halves of an entry's order (R167). -/
def Access.acquires (x : Access) : Bool := (x.isLoad || x.isAtomic) && (x.order == .acq || x.order == .ar)
def Access.releases (x : Access) : Bool := x.stores && (x.order == .rel || x.order == .ar)

/-- An entry whose data has all been read or written; a TBLLD then waits for its bank (R232). -/
def Access.read (x : Access) : Bool := x.pieces.all (·.done)

/-- Whether two entries are ordered by their candidates (R165, R179). -/
def Access.joined (x y : Access) : Bool := x.who &&& y.who != 0

/-- Whether two locations share a byte: by address in one space, or by place. -/
def piecesMeet (sx sy : Space) (p q : Piece) : Bool :=
  (sx == sy && decide (p.addr.toNat < q.addr.toNat + q.n) && decide (q.addr.toNat < p.addr.toNat + p.n))
  || (sx == .g && sy == .g && decide (p.place < q.place + q.n) && decide (q.place < p.place + p.n))

/-- Whether an older entry still has to access bytes of some locations. -/
def Access.meets (x : Access) (sy : Space) (ps : List Piece) : Bool :=
  x.pieces.any fun p => !p.done && ps.any fun q => piecesMeet x.space sy p q

/-- The older entries of entry idx that are not done. -/
def olderOf (aq : List Access) (idx : Nat) : List Access := (aq.take idx).filter fun x => !x.done

/-- The acquire half of a fence of entry idx can complete: every older load and atomic is performed. -/
def fenceAcq (aq : List Access) (idx : Nat) : Bool :=
  (olderOf aq idx).all fun x => !(x.isLoad && !x.read) && !x.isAtomic && !x.isFence

/-- Whether loads of entry idx may be performed: no older fence whose actions are still to complete, no older acquire, no older access to
the same bytes (R170, R176, R355). -/
def mayLoad (aq : List Access) (idx : Nat) (y : Access) (ps : List Piece) : Bool :=
  y.resolved && (olderOf aq idx).all fun x => !x.isFence && (!x.joined y || (!x.acquires && !x.meets y.space ps))

/-- Whether a fence with a release half lies between an older load that is not performed and entry idx (R170). -/
def fencedLoad (aq : List Access) (idx : Nat) : Bool :=
  match ((aq.take idx).zipIdx.filter fun p => p.1.isFence && p.1.order != .acq).getLast? with
  | none => false
  | some f => (olderOf aq f.2).any fun x => x.isLoad && !x.read

/-- Whether a store or atomic of entry idx may be performed, what its own release asks for apart (R170, R176, R182). -/
def mayWrite (aq : List Access) (idx : Nat) (y : Access) (ps : List Piece) : Bool :=
  y.resolved && (aq.take idx).all (·.resolved) && !fencedLoad aq idx && (olderOf aq idx).all fun x =>
    !x.isFence && (!x.joined y || (!x.acquires && !x.meets y.space ps))

/-- Whether entry i is a relaxed store of a wide scope that the L1 can hold and that may be performed, after older stores to the same bytes
that rest there too: at GROUP and TEAM scope it is performed there before it reaches home (R169, R171). -/
def mayRest (aq : List Access) (i : Nat) (x : Access) : Bool :=
  x.kind == .store && isWide x.scope && x.space == .g && !x.releases && x.pieces.all (!·.nc) && mayWrite aq i x []
    && (olderOf aq i).all fun y => y.stores || !y.joined x || !y.meets .g (x.pieces.filter (!·.done))

/-- Whether an older store or atomic is performed at a scope: at GROUP and TEAM scope in the L1 already (R171). -/
def performedAt (aq : List Access) (i : Nat) (x : Access) (sc : Scope) : Bool := x.done || !x.stores || (!isWide sc && mayRest aq i x)

/-- What a release y asks for: older loads read, older stores and atomics performed at its scope (R171). -/
def releaseMet (aq : List Access) (idx : Nat) (y : Access) : Bool :=
  (aq.take idx).zipIdx.all fun p => p.1.done || ((!p.1.joined y || p.1.read || p.1.stores) && performedAt aq p.2 p.1 y.scope)

/-- Whether a store or atomic of entry idx may be performed (R170, R171, R176, R182). -/
def mayStore (aq : List Access) (idx : Nat) (y : Access) (ps : List Piece) : Bool :=
  mayWrite aq idx y ps && (!y.releases || releaseMet aq idx y)

/-! Fences (R171, R355). -/

/-- The release half of a fence can complete: every older store and atomic is performed at its scope. -/
def fenceRel (aq : List Access) (idx : Nat) (sc : Scope) : Bool :=
  (aq.take idx).zipIdx.all fun p => (p.1.done || !p.1.isFence) && performedAt aq p.2 p.1 sc

/-- Whether a fence is complete. -/
def fenceDone (aq : List Access) (idx : Nat) (x : Access) : Bool :=
  match x.order with
  | .rel => fenceRel aq idx x.scope
  | .acq => fenceAcq aq idx
  | .sc => x.granted && fenceAcq aq idx
  | _ => fenceRel aq idx x.scope && fenceAcq aq idx

/-- The first fence of a queue that can complete now, of those that a test lets pass. -/
def readyFence (aq : List Access) (may : Access → Bool) : Option (Nat × Access) :=
  (aq.zipIdx.find? fun p => p.1.isFence && !p.1.done && may p.1 && fenceDone aq p.2 p.1).map fun p => (p.2, p.1)

/-- The path of an entry (R151). -/
def Access.path (x : Access) : Option Path := if x.dst = .scale then none else if x.isLoad then some .ld else if x.stores then some .st else none

/-- Finished entries leave the queue: a load or a store once every older one of its path has, a fence once nothing older is left
(R151). -/
def popDone (kept : List Access) (aq : List Access) : List Access :=
  match aq with
  | [] => kept
  | x :: r =>
    let blocked := match x.path with
      | none => !kept.isEmpty
      | some p => kept.any fun y => y.path == some p
    if x.done && !blocked then popDone kept r else popDone (kept ++ [x]) r

/-- Text of a core is discarded: runs fetched and not started are fetched again, and only the slices of open loops keep what they
hold (R360). -/
def State.discardText (s : State) (n : Nat) : State :=
  let keep : List Nat := (List.range 64).flatMap fun k =>
    ((List.range 8).filter fun sl => !((s.group n k).arch.slice sl).loops.isEmpty).map fun sl => 8 * k + sl
  let old (t : TextBuf) : TextBuf := { t with keepers := some (match t.keepers with
    | some l => l.filter keep.contains
    | none => keep) }
  let s1 := s.modCore n fun c => { c with text := (c.text.map old).filter fun t => t.keepers != some [] }
  (List.range 64).foldl (fun (u : State) k =>
    if (u.group n k).arch.cands.any (fun c => c.run.isSome && !c.started) then
      u.modGroup n k fun g => { g with arch := { g.arch with
        cands := g.arch.cands.map fun c => if c.started then c else { c with run := none, readyAt := none } } }
    else u) s1

/-- A store writes a unit poisoned when any of the word's elements in that unit is (R270, log 20). -/
def unitPoison (ps : List Piece) (p : Piece) : Bool := ps.any fun q => q.poison && poisonUnit q.place == poisonUnit p.place

/-- The wider stores before entry idx that are not performed become visible in the L1, and reach home later (R171, R185). -/
def State.restOlder (s : State) (idx : Nat) : State :=
  (List.range idx).foldl (fun (u : State) i =>
    match u.cur.aq[i]? with
    | none => u
    | some x =>
      if x.done || x.kind != .store || !isWide x.scope then u else
      let v := (x.pieces.filter fun p => !p.done && !p.inL1).foldl (fun (w : State) p =>
        w.writeAt x.space p.nc .team p.place (bytesOf p.val p.n) (unitPoison x.pieces p)) u
      v.modCur fun g => { g with aq := modNth g.aq i fun y =>
        { y with pieces := y.pieces.map fun p => if p.done then p else { p with inL1 := true } } }) s

/-- The release half of entry idx at a scope: what narrower stores left in the L1 reaches home; at GROUP and TEAM scope the older wide
stores become visible in the L1 (R171). -/
def State.releaseAt (s : State) (idx : Nat) (sc : Scope) : State := if isWide sc then s.scopeRelease sc else s.restOlder idx

/-- Fences that can complete do so, once what they write home may leave (R287); then finished entries leave. -/
def settleFences (fuel : Nat) (s : State) : State :=
  match fuel with
  | 0 => s
  | fuel + 1 =>
    match readyFence s.cur.aq fun x => s.scopeOpen x.scope with
    | none => s
    | some (i, x) =>
      let s1 := if x.order = .acq then s else s.releaseAt i x.scope
      let s2 := if x.order = .rel then s1 else s1.scopeAcquire x.scope
      let s3 := if x.icinv then s2.discardText s.curCore else s2
      settleFences fuel (s3.modCur fun g =>
        { g with aq := modNth g.aq i fun y => { y with done := true },
                 arch := if x.space = .s then g.arch.setCand x.cand fun c => { c with fenced := true } else g.arch })

def State.settleQueue (s : State) : State :=
  let s1 := settleFences s.cur.aq.length s
  s1.modCur fun g => { g with aq := popDone [] g.aq }

/-- A merge of candidates into slices `set`: every access of the joined candidates is ordered before what any of them does next, though
they part again (R179). -/
def State.orderJoined (s : State) (set : BitVec 8) : State :=
  if s.cur.aq.isEmpty then s else
  s.modCur fun g => { g with aq := g.aq.map fun x => if x.who &&& set != 0 then { x with who := x.who ||| set } else x }

/-! Entering the queue. -/

/-- Whether the group's words are save code (R265, R270). -/
def State.saveCode (s : State) : Bool := s.privd || s.uncounted

/-- Keys of load destinations. -/
def dstKey (d : Dst) (lane : Nat) : Option Nat :=
  match d with
  | .scal r => if r = 0 then none else some (scalKey r)
  | .vec r => some (vecKey r lane)
  | .temp t => some (tempKey t lane)
  | .none | .table | .scale => none

/-- The destinations of a load become pending; earlier loads give them up (R403, R429). -/
def Arch.claim (a : Arch) (seq : Nat) (keys : List Nat) : Arch :=
  { a with pend := (a.pend.filter fun p => !keys.contains p.2) ++ keys.map fun k => (seq, k) }

/-- The run of the candidate of slice low notes that its word of number seq has registers still to write (R311). -/
def Arch.noteWrite (a : Arch) (low seq : Nat) : Arch :=
  a.setCand low fun c => { c with run := c.run.map fun r => { r with own := r.own ++ [seq] } }

/-- An entry at the end of the group's queue. -/
def State.pushAccess (s : State) (x : Access) : State :=
  s.modCur fun g =>
    let y := { x with seq := g.seq, word := if x.word = 0 then g.seq else x.word }
    let keys := y.pieces.filterMap fun p => dstKey y.dst p.lane
    let a := g.arch.claim g.seq keys
    { g with seq := g.seq + 1, aq := g.aq ++ [y], arch := if keys.isEmpty then a else a.noteWrite s.curLow g.seq }

/-- What every entry of the word being issued records. -/
def State.newAccess (s : State) : Access :=
  { epc := s.pc, cand := s.curLow, who := s.curCand.slices, privd := s.privd, save := s.saveCode, ckpt := s.cur.arch }

/-- The fence half of an sc access, or a FENCE. -/
def State.fenceEntry (s : State) (ord : Order) (sc : Scope) (inS : Bool) : Access :=
  { s.newAccess with kind := .fence, order := ord, scope := sc, space := if inS then .s else .g, resolved := true, ckpt := {} }

/-- The order that an sc access has after its fence half (R170). -/
def plainOrder (k : AccKind) (o : Order) : Order :=
  if o = .sc then (match k with
    | .load => .acq
    | .store => .rel
    | _ => .ar) else o

/-- Whether an access of the current agent at a scope can synchronise with another one: a stream is within SYSTEM scope alone of the groups,
and a group whose team has no other group left, while its slices run as one candidate, is alone within GROUP and TEAM scope, and within
CLUSTER scope where its team has no cluster or is the whole of it (R166, R172, R398). -/
def State.reaches (s : State) (sc : Scope) : Bool :=
  if s.inStream then sc == .sys
  else (isWide sc && (sc != .clus || decide (1 < s.ranks.length))) || decide (1 < s.cur.arch.cands.length)
    || decide (1 < (s.heldGroups s.cur.team).length)

/-- The order of an access at a scope: one that can synchronise with nothing orders nothing (R172, R184). -/
def State.orderAt (s : State) (k : AccKind) (o : Order) (sc : Scope) : Order :=
  if s.reaches sc then plainOrder k o else .rlx

/-- A memory word outside S enters the queue: its fence half, if it is sc, and its access. Outside G it has passed its checks. -/
def State.enqueue (s : State) (x : Access) : State :=
  let first := s.cur.seq
  let s1 := if x.order = .sc then s.pushAccess (s.fenceEntry .sc x.scope false) else s
  let done := x.space != .g
  let ps := if done then x.pieces.map fun p => { p with place := s.placeOf x.space p.addr } else x.pieces
  (s1.pushAccess { x with word := first, order := s.orderAt x.kind x.order x.scope, pieces := ps, resolved := done,
                          ckpt := if done then {} else x.ckpt }).settleQueue

/-! Data arriving. -/

/-- A change of registers by entry seq also reaches the checkpoints of younger words (R251). -/
def State.arrive (s : State) (seq : Nat) (f : Arch → Arch) : State :=
  s.modCur fun g => { g with arch := f g.arch, aq := g.aq.map fun y =>
    if seq < y.seq && !y.resolved then { y with ckpt := f y.ckpt } else y }

/-- A destination that is still pending for a load takes its data. -/
def Arch.land (a : Arch) (seq key : Nat) (w : Arch → Arch) : Arch :=
  if a.pend.contains (seq, key) then
    let b := w a
    { b with pend := b.pend.filter fun p => p != (seq, key) }
  else a

/-- A scalar load's value (R306). -/
def loadScalar (ty : Ty) (bs : List Byte) : Word :=
  match ty with
  | .pi8 => (ofBytes 8 bs).signExtend 64
  | .b16 | .h16 => (ofBytes 16 bs).setWidth 64
  | .s32 => (ofBytes 32 bs).signExtend 64
  | .f32 | .b32 | .z32 => (ofBytes 32 bs).setWidth 64
  | _ => ofBytes 64 bs

/-- A lane's loaded element: 16-bit elements are widened (R322). -/
def loadLane (ty : Ty) (bs : List Byte) : Lane × Flags :=
  match ty with
  | .b16 => laneOf (fWiden fmtB16 (ofBytes 16 bs : BitVec 16).toNat)
  | .h16 => laneOf (fWiden fmtH16 (ofBytes 16 bs : BitVec 16).toNat)
  | _ => (ofBytes 32 bs, fNone)

/-- The flags that a lane's loaded data raises: none from a poisoned sector (R429). -/
def loadFlags (ty : Ty) (bs : List Byte) (poison : Bool) : Flags := if poison then fNone else (loadLane ty bs).2

/-- Data of one location into its destination. -/
def Arch.deliver (a : Arch) (seq : Nat) (ty : Ty) (d : Dst) (lane : Nat) (bs : List Byte) (poison : Bool) : Arch :=
  match d, dstKey d lane with
  | .scal r, some k => a.land seq k fun b => b.putS (BitVec.ofNat 6 r) ⟨loadScalar ty bs, poison, poison⟩
  | .vec r, some k => a.land seq k fun b => (b.putV r lane ⟨(loadLane ty bs).1, poison⟩).raise (loadFlags ty bs poison)
  | .temp t, some k => a.land seq k fun b => (b.putT t lane ⟨(loadLane ty bs).1, poison⟩).raise (loadFlags ty bs poison)
  | _, _ => a

/-! Atomics (R334, R337, R339). -/

/-- The new value of an atomic and its flags. -/
def atomicNew {w : Nat} (op : AtomicOp) (ty : Ty) (old v next : BitVec w) : BitVec w × Flags :=
  match op with
  | .add =>
    if ty = .f32 then (let r := fAdd fmtF32 .rne old.toNat v.toNat; (BitVec.ofNat w r.bits, r.flags)) else (old + v, fNone)
  | .and => (old &&& v, fNone)
  | .or => (old ||| v, fNone)
  | .xor => (old ^^^ v, fNone)
  | .max => (maxInt (signedTy ty) old v, fNone)
  | .min => (minInt (signedTy ty) old v, fNone)
  | .xch => (v, fNone)
  | .cas => (if old = v then next else old, fNone)

/-- The bytes an atomic of n bytes stores, its flags, and whether it stores and whether what it stores is poisoned. -/
def atomicStep (op : AtomicOp) (ty : Ty) (n : Nat) (old : List Byte) (poison : Bool) (v next : Word) :
    List Byte × Flags × Bool × Bool :=
  let r : List Byte × Flags :=
    if n = 4 then
      let x := atomicNew op ty (ofBytes 32 old) (v.setWidth 32) (next.setWidth 32)
      (bytesOf x.1 4, x.2)
    else
      let x := atomicNew op ty (ofBytes 64 old) v next
      (bytesOf x.1 8, x.2)
  match op with
  | .cas => (r.1, r.2, !poison && (if n = 4 then (ofBytes 32 old : Lane) == v.setWidth 32 else ofBytes 64 old == v), false)
  | .xch => (r.1, r.2, true, false)
  | _ => (r.1, r.2, true, poison)

/-- One step of an atomic at its point of coherence; the old value with its poison is returned. -/
def State.atomicAt (s : State) (op : AtomicOp) (ty : Ty) (sp : Space) (nc : Bool) (sc : Scope) (p : Piece) :
    State × List Byte × Bool × Flags :=
  let s0 := s.beforeAtomic sp nc sc p.place p.n
  let lost := (s0.lostAt sp nc sc p.place p.n false).isSome
  let r := s0.readAt sp nc sc p.place p.n
  if lost then (r.1, r.2.1, true, fNone) else
  let x := atomicStep op ty p.n r.2.1 r.2.2 p.val p.val2
  ((if x.2.2.1 then r.1.writeAt sp nc sc p.place x.1 x.2.2.2 else r.1), r.2.1, r.2.2, x.2.1)

/-! Performing. -/

/-- Whether the data that a load brings is dropped: the current group's team is ended, or is discarded and the group has stopped. What an
atomic returns is delivered: the rules name loads (R243, R266, log 114). -/
def State.dropsData (s : State) : Bool :=
  match s.agent with
  | .stream _ => false
  | .group n k _ =>
    let t := s.curTeam
    t.ending.isSome || (t.st == TeamState.discarding && ((s.core n).port (k % 4)).cur.map (·.1) != some k)

/-- One location of a load, store or atomic is performed: the state, and the location as it then stands. A load's value is fixed in the
move that fills its register: the model's choice, since R169 fixes it at any time before (log 99). -/
def State.performPiece (s : State) (x : Access) (p : Piece) : State × Piece :=
  match x.kind with
  | .load =>
    let r := s.readAt x.space p.nc x.scope p.place p.n
    (if s.dropsData then r.1 else r.1.arrive x.seq fun a => a.deliver x.seq x.ty x.dst p.lane r.2.1 r.2.2, { p with done := true })
  | .tblld =>
    let r := s.readAt x.space p.nc x.scope p.place p.n
    (r.1, { p with done := true, val := ofBytes 64 r.2.1, poison := r.2.2 })
  | .store =>
    (if p.inL1 then s.l1Flush s.curCore fun a _ => p.place ≤ a && a < p.place + p.n
     else s.writeAt x.space p.nc x.scope p.place (bytesOf p.val p.n) (unitPoison x.pieces p), { p with done := true })
  | .atomic op =>
    let r := s.atomicAt op x.ty x.space p.nc x.scope p
    (r.1.arrive x.seq fun a => (a.deliver x.seq x.ty x.dst p.lane r.2.1 r.2.2.1).raise r.2.2.2, { p with done := true })
  | .fence => (s, { p with done := true })

/-- The pieces of entry idx that a test selects are performed; the entry is done when all are, with its acquire half. -/
def State.performAt (s : State) (idx : Nat) (sel : Nat → Piece → Bool) : State :=
  match s.cur.aq[idx]? with
  | none => s
  | some x =>
    let s0 := if x.releases && x.pieces.all (!·.done) then
        s.releaseAt idx x.scope else s
    let r := (x.pieces.zipIdx).foldl (fun (u : State × List Piece) p =>
        if !p.1.done && sel p.2 p.1 then
          let q := u.1.performPiece x p.1
          (q.1, u.2 ++ [q.2])
        else (u.1, u.2 ++ [p.1])) (s0, [])
    let all := r.2.all (·.done)
    let s1 := r.1.modCur fun g => { g with aq := modNth g.aq idx fun y =>
      { y with pieces := r.2, done := all && y.kind != .tblld } }
    (if all && x.acquires then s1.scopeAcquire x.scope else s1).settleQueue

/-- Whether locations of an entry may be performed as the slots of their links stand, with what its release or its acquire writes home;
what the L1 of the core serves needs no link, and a full one makes room first (R2, R139, R171, R287). -/
def State.entryTravels (s : State) (x : Access) (ps : List Piece) : Bool :=
  let served (p : Piece) : Bool := !p.inL1 && s.served x.space p.nc x.scope p.place p.n (x.kind == .store)
  let roomy (p : Piece) : Bool := !s.usesL1 x.space p.nc || s.l1Ready s.curCore p.place
  s.travels x.space ((ps.filter fun p => !served p).map (·.place)) && ps.all roomy && (!(x.releases || x.acquires) || s.scopeOpen x.scope)

/-- The destination sector of a location (R11). -/
def sectorOf (p : Piece) : Nat := p.lane / 8

/-- LOAD_RETURN: data of a load arrives for some destination sectors, or for all of them when none is named (R11, R151). That all lanes of
a sector are read in this one move, where R128 and R165 let each lane have a moment of its own, is the model's choice (log 99). -/
def execLoadReturn (core slot idx : Nat) (sectors : List Nat) (s : State) : Host.Outcome State Fault Refusal :=
  let s1 := s.at_ core slot ((((s.at_ core slot 0).cur.aq[idx]?).map (·.cand)).getD 0)
  event s (match s1.cur.aq[idx]? with
    | none => none
    | some x =>
      let pick (p : Piece) : Bool := sectors.isEmpty || sectors.contains (sectorOf p)
      let ps := x.pieces.filter fun p => !p.done && pick p
      if x.isLoad && x.dst != .scale && !x.done && (!ps.isEmpty || x.pieces.isEmpty) && mayLoad s1.cur.aq idx x ps
          && s1.entryTravels x ps then
        some (s1.performAt idx fun _ p => pick p)
      else none)

/-- STORE_PERFORMED: one location of a store or atomic is performed at its point of coherence; with DETMODE 1 in ascending lane order
(R165, R169, R178, R182). -/
def execStorePerformed (core slot idx piece : Nat) (s : State) : Host.Outcome State Fault Refusal :=
  let s1 := s.at_ core slot ((((s.at_ core slot 0).cur.aq[idx]?).map (·.cand)).getD 0)
  event s (match s1.cur.aq[idx]? with
    | none => none
    | some x =>
      match x.pieces[piece]? with
      | none => if x.stores && x.pieces.isEmpty && !x.done && mayStore s1.cur.aq idx x [] then some (s1.performAt idx fun _ _ => true)
        else none
      | some p =>
        let turn := !s1.det || (x.pieces.take piece).all (·.done)
        if x.stores && !p.done && turn && mayStore s1.cur.aq idx x [p] && s1.entryTravels x [p] then some (s1.performAt idx fun i _ => i == piece) else none)

/-- SC_FENCE_GRANT: the sequencer of a fence's scope grants the oldest FENCE.sc of a group whose release half is complete; the grants
follow one another as the steps do, which is their total order. What older loads and atomics read is read before the grant, so that the
order agrees with happens-before (R173). -/
def execScFenceGrant (core slot : Nat) (s : State) : Host.Outcome State Fault Refusal :=
  let s0 := s.at_ core slot 0
  event s (match s0.cur.aq.zipIdx.find? fun p => p.1.isFence && !p.1.done && p.1.order == .sc && !p.1.granted with
    | none => none
    | some (x, i) =>
      if fenceRel s0.cur.aq i x.scope && fenceAcq s0.cur.aq i && s0.scopeOpen x.scope then
        let s1 := (s.at_ core slot x.cand).releaseAt i x.scope
        some (s1.modCur fun g => { g with aq := modNth g.aq i fun y => { y with granted := true } }).settleQueue
      else none)

/-- L1_DIRTY_WRITEBACK: a core writes the dirty bytes of a line home at a time of its own, and may drop the line; fences that waited for
the links of those bytes may then complete (R169, R287). -/
def execL1DirtyWriteback (core line : Nat) (evict : Bool) (s : State) : Host.Outcome State Fault Refusal :=
  event s (if !s.flushOpen core fun a _ => lineOf a == line then none else
    let s1 := if evict then s.l1DropLine core line else s.l1Flush core fun a _ => lineOf a == line
    let fenced := (List.range 64).filter fun k => (s.group core k).aq.any Access.isFence
    some { fenced.foldl (fun (u : State) k => (u.at_ core k 0).settleQueue) s1 with agent := s.agent })

/-! Resolution and rollback (R250, R251). -/

/-- The places of the pieces of a G access, or the first trap: translation and permission of every byte, then the Valve. -/
def resolvePieces (s : State) (x : Access) (acc : Acc) (ps : List Piece) : Except Trap (State × List Piece) :=
  match ps with
  | [] => .ok (s, [])
  | p :: r =>
    match translate s s.curCore s.curPart x.privd acc p.addr.toNat with
    | .error c => .error (memTrap c acc p.lane .g p.addr.toNat)
    | .ok t =>
      match resolvePieces ((s.countWalk s.curCore s.curPart p.addr.toNat).cacheXlate s.curCore t.2.2) x acc r with
      | .error e => .error e
      | .ok q => .ok (q.1, { p with place := t.1, nc := t.2.1 } :: q.2)

/-- Whether the walks that the pieces of a G access need may be made now (R287). -/
def State.piecesWalk (s : State) (ps : List Piece) : Bool := s.walksOpen s.curCore s.curPart (ps.map fun p => p.addr.toNat)

/-- The kind of access an entry makes. -/
def Access.acc (x : Access) : Acc := if x.isLoad then .load else if x.isAtomic then .atomic else .store

/-- The journal is undone to the word of an entry: state as it was when the word began to issue, younger accesses, commands and engine
operations withdrawn with their Valve entries (R251). -/
def State.rollback (s : State) (x : Access) : State :=
  let g := s.cur
  let gone : List Cmd := g.cmds.filter fun c => x.word ≤ c.seq
  let key := groupKey s.curCore s.curSlot
  let reads : List Access := g.aq.filter fun y => x.word ≤ y.seq && y.kind == .tblld
  let ops : List MOp := match g.lease with
    | some c => (s.ctx s.curCore c).ops.filter fun o => x.word ≤ o.seq
    | none => []
  let seqs := gone.map (·.seq) ++ reads.map (·.seq) ++ ops.map (·.seq)
  let s1 := seqs.foldl (fun (u : State) q => u.leaveValve key q) s
  let s2 := match g.lease with
    | some c => s1.modCtx s.curCore c fun v => { v with ops := v.ops.filter fun o => o.seq < x.word }
    | none => s1
  let s3 := if reads.isEmpty then s2 else s2.modCore s.curCore fun c =>
    { c with lut := { c.lut with queue := c.lut.queue.filter fun q => !(q.1 == s.curSlot && x.word ≤ q.2.1) } }
  s3.modCur fun h =>
    { h with arch := x.ckpt, aq := h.aq.filter fun y => y.seq < x.word, cmds := h.cmds.filter fun c => c.seq < x.word,
             reports := h.reports.map fun r => { r with younger := r.younger.filter fun q => q < x.word },
             ring := gone.reverse.foldl (fun r c => Store.put r c.ringAt c.before) h.ring }

/-- No port of the slot is in the middle of a run of the group. -/
def State.freePort (s : State) : State :=
  match s.agent with
  | .group n k _ => s.modCore n fun c => c.setPort (k % 4)
      (let p := c.port (k % 4); if p.cur.map (·.1) = some k then { p with cur := none } else p)
  | .stream _ => s

/-- ACCESS_RESOLVE: the oldest unresolved access of a group passes its translation, permission and Valve checks, or fails one: the
journal is undone and the trap taken at its word (R182, R250, R251). -/
def execAccessResolve (core slot idx : Nat) (s : State) : Host.Outcome State Fault Refusal :=
  let s1 := s.at_ core slot ((((s.at_ core slot 0).cur.aq[idx]?).map (·.cand)).getD 0)
  event s (match s1.cur.aq[idx]? with
    | none => none
    | some x =>
      if x.resolved || !((s1.cur.aq.take idx).all (·.resolved)) || !s1.piecesWalk x.pieces then none else
      let acc := x.acc
      match resolvePieces s1 x acc x.pieces with
      | .error t => some (takeTrapAt (s1.rollback x).freePort.dropReservation x.epc t 0)
      | .ok (s2, ps) =>
        match piecesValveAt s2 x.word x.space acc ps with
        | some t => some (takeTrapAt (s2.rollback x).freePort.dropReservation x.epc t 0)
        | none =>
          some (s2.modCur fun g => { g with aq := modNth g.aq idx fun y =>
            { y with pieces := ps, resolved := true, ckpt := {} } }).settleQueue)

/-! Counters (R151). -/

/-- A path counter of a group. -/
def State.counter (s : State) (n : Nat) (g : Group) (p : Path) : Nat :=
  match p with
  | .ld => (g.aq.filter fun x => x.path == some .ld).length
  | .st => (g.aq.filter fun x => x.path == some .st).length
  | .cp => (g.cmds.filter fun c => c.kind != .siph).length
  | .sg => (g.cmds.filter fun c => c.kind == .siph).length
  | .mx =>
    match g.lease with
    | some x => (s.ctx n x).batches.length
    | none => 0

end Sys2Proof.Machine
end

