-- ==== Sys2Proof/Machine/Words.lean ====
section
/-! DEFINITION. What the memory words share: widths, checks at issue, and words of space S, which complete within their run (R135, R136). -/

namespace Sys2Proof.Machine

open Sys2Proof

/-- Bytes that a type moves (R306, R408). -/
def memWidth (t : Ty) : Nat :=
  match t with
  | .pi8 => 1
  | .b16 | .h16 => 2
  | .s64 | .z64 => 8
  | _ => 4

/-- A reference as the destination of a load. -/
def dstOf (r : VRef) : Dst :=
  match r with
  | .reg n => .vec n
  | .temp t => .temp t

/-- What refuses a checked access outside G: the block of the window, or an entry of the Valve table (R132, R155). -/
def outerChecks (s : State) (sp : Space) (acc : Acc) (ps : List Piece) : Option Trap :=
  match sp with
  | .w => piecesWindow s acc ps
  | .g => none
  | _ => piecesValve s sp acc ps

/-- Checks at issue of a word with one location to each address: the space checks of the address, alignment, the space checks of the bytes
that follow it, and what else refuses it (R127, R338, R398, R402, R409). -/
def issueChecks (s : State) (sp : Space) (acc : Acc) (ps : List Piece) (align : Option Trap) : Option Trap :=
  firstTrap [piecesFault s sp acc (ps.map fun p => { p with n := 1 }), align, piecesFault s sp acc ps, outerChecks s sp acc ps]

/-- Checks at issue of a word that moves a range of bytes: the space checks of every byte come before alignment (R127, R128, R410, R415,
R416, R430). -/
def rangeChecks (s : State) (sp : Space) (acc : Acc) (ps : List Piece) (align : Option Trap) : Option Trap :=
  firstTrap [piecesFault s sp acc ps, align, outerChecks s sp acc ps]

/-! Words of space S. -/

/-- Whether the locations of a word share no byte. -/
def disjoint (ps : List Piece) : Bool :=
  match ps with
  | [] => true
  | p :: r => r.all (fun q => !piecesMeet .s .s p q) && disjoint r

/-- The order in which the lanes of a word in S are performed: ascending with DETMODE 1 or when they do not meet, else any (R165). -/
def laneOrder (s : State) (ps : List Piece) : List Nat :=
  if s.det || disjoint ps then List.range ps.length
  else sortBy (fun i => Config.freeNat (s.fresh + i)) (List.range ps.length)

/-- Banks of the pieces of one pass, each distinct unit once, and the largest number of units of a bank (R133, R136). -/
def passStrokes (units : List Nat) : Nat :=
  let us := units.eraseDups
  max 1 (maxOf (us.map fun u => (us.filter fun v => v % 48 == u % 48).length))

/-- The strokes beyond one for each pass that bank conflicts cost a word (R136). -/
def extraStrokes (passes : Nat) (ps : List Piece) : Nat :=
  let per := 32 / passes
  sumOf ((List.range passes).map fun k =>
    passStrokes ((ps.filter fun p => p.lane / per = k).map fun p => (p.place - scratchBase) % 0x100000 / 8) - 1)

/-- The scratchpad beats of a word: in each pass one for each distinct unit that its lanes ask for, read, written or, of an atomic, both
(R91, R136, log 90). -/
def beatEvents (passes : Nat) (x : Access) : List Nat :=
  let per := 32 / passes
  let n := sumOf ((List.range passes).map fun k =>
    ((x.pieces.filter fun p => p.lane / per = k).map fun p => p.place / 8).eraseDups.length)
  (if x.isLoad || x.isAtomic then List.replicate n 24 else []) ++ (if x.stores then List.replicate n 25 else [])

/-- Counts with one more of each event of a list. -/
def countEvents (m : Store Nat) (l : List Nat) : Store Nat := l.foldl (fun m e => Store.put m e (Store.get m e + 1)) m

/-- The activity that the word being issued adds to what it counts at its last pass (R91). -/
def State.addWork (s : State) (es : List Nat) : State :=
  match s.agent with
  | .stream _ => s
  | .group n k _ => s.modCore n fun c =>
    let p := c.port (k % 4)
    c.setPort (k % 4) { p with work := countEvents p.work es }

/-- The beats that an access adds, of a word in S (R91, log 90). -/
def State.addBeats (s : State) (passes : Nat) (x : Access) : State := if x.space = .s then s.addWork (beatEvents passes x) else s

/-- The passes of the port that issues the current word. -/
def State.curPasses (s : State) : Nat := ((s.core s.curCore).port (s.curSlot % 4)).passes

/-- The fence half of an sc word in S is asked for, and the word holds its port (R135, R170). -/
def State.askFence (s : State) (sc : Scope) : State :=
  let mine (x : Access) : Bool := x.isFence && x.space == .s && x.cand == s.curLow && !x.done
  (if s.cur.aq.any mine then s else (s.pushAccess (s.fenceEntry .sc sc true)).settleQueue).hold1

/-- Whether an older access holds a word of S: an acquire, a fence, for a store a load that is older than a fence with a release half, for a
release anything older that its scope asks for (R135, R170, R171, R355). -/
def scratchHeld (s : State) (x : Access) : Bool :=
  let aq := s.cur.aq
  (x.stores && fencedLoad aq aq.length) || (x.releases && !releaseMet aq aq.length x)
    || (olderOf aq aq.length).any fun y => y.isFence || (y.joined x && y.acquires)

/-- A word of S: it is performed at issue, in its run, once nothing older holds it (R135, R250). -/
def scratchWord (s : State) (x0 : Access) : Eff :=
  let x := { x0 with order := plainOrder x0.kind x0.order, resolved := true, ckpt := {},
                     pieces := x0.pieces.map fun p => { p with place := s.placeOf .s p.addr } }
  if (x.stores && s.cur.unresolved) || ((x.releases || x.acquires) && !s.scopeOpen x.scope) then .retry
  else if x0.order = .sc ∧ !s.curCand.fenced then .final (s.askFence x0.scope)
  else if scratchHeld s x then .retry
  else
    let seq := s.cur.seq
    let y := { x with seq := seq }
    let s1 := if y.releases then s.releaseAt s.cur.aq.length y.scope else s
    let s2 := s1.modCur fun g =>
      { g with seq := seq + 1, arch := g.arch.claim seq (y.pieces.filterMap fun p => dstKey y.dst p.lane) }
    let order := laneOrder s y.pieces
    let s3 := order.foldl (fun u i => match y.pieces[i]? with
      | some p => (u.performPiece y p).1
      | none => u) s2
    let s4 := if s.det || disjoint y.pieces then s3 else { s3 with fresh := s3.fresh + order.length }
    let s5 := if y.acquires then s4.scopeAcquire y.scope else s4
    .done ((s5.longer (extraStrokes s.curPasses y.pieces)).addBeats s.curPasses y)

/-- A memory word that passed its checks at issue. -/
def memWord (s : State) (x : Access) : Eff := if x.space = .s then scratchWord s x else .done (s.enqueue x)

end Sys2Proof.Machine
end

