-- ==== Sys2Proof/Machine/ScalarMem.lean ====
section
/-! DEFINITION. SLD, SST (R401 to R403, R408, R409), TBLLD and the switch of the lookup table (R231 to R233, R414, R415). -/

namespace Sys2Proof.Machine

open Sys2Proof

/-- The address of a scalar memory word (R127). -/
def scalarAddr (a : Arch) (sb : BitVec 6) {w : Nat} (off : BitVec w) : Word := a.valS sb + off.signExtend 64

/-- SLD (R401). -/
def execSld (h : Hdr) (ty : Ty) (m : MemF) (sd : BitVec 6) (off : BitVec 16) (s : State) : Host.Outcome State Fault Refusal :=
  finish s (scalarWord s h
    (let a := s.cur.arch
     let n := memWidth ty
     let at_ := scalarAddr a m.sb off
     let ps : List Piece := [{ addr := at_, n := n }]
     guardTrap (firstTrap [poisonS a m.sb, issueChecks s m.space .load ps (alignFault m.space .load 0 at_ n)])
       (memWord s { s.newAccess with kind := .load, ty := ty, space := m.space, order := m.order, scope := m.scope,
                                     dst := .scal sd.toNat, pieces := ps })))

/-- Whether a load or an atomic has still to write a scalar register. A scalar store waits for the register it stores (R177, R186); that a
vector store reads its register under R11, as spec/18_program_context_save.md:207 takes it, is the model's reading (log 128). -/
def Arch.awaits (a : Arch) (r : BitVec 6) : Bool := a.pend.any fun p => r != 0 && p.2 == scalKey r.toNat

/-- SST (R408). -/
def execSst (h : Hdr) (ty : Ty) (m : MemF) (sv : BitVec 6) (off : BitVec 16) (s : State) : Host.Outcome State Fault Refusal :=
  finish s (scalarWord s h
    (let a := s.cur.arch
     let n := memWidth ty
     let at_ := scalarAddr a m.sb off
     let ps : List Piece := [{ addr := at_, n := n, val := a.valS sv }]
     if a.awaits sv then .retry else
     guardTrap (firstTrap [poisonS a m.sb, if n = 8 then poisonS a sv else poisonLo a sv,
         issueChecks s m.space .store ps (alignFault m.space .store 0 at_ n)])
       (memWord s { s.newAccess with kind := .store, ty := ty, space := m.space, order := m.order, scope := m.scope,
                                     pieces := ps })))

/-- The 256 entries of a TBLLD as locations. -/
def tablePieces (a : Word) : List Piece := (List.range 256).map fun i => { addr := a + BitVec.ofNat 64 (4 * i), n := 4 }

/-- The locations of a TBLLD in S read at issue (R135, R414). -/
def readNow (s : State) (x : Access) : List Piece :=
  x.pieces.map fun p => (s.performPiece x { p with place := s.placeOf x.space p.addr }).2

/-- A TBLLD goes behind those of earlier strokes, and among those of its own stroke behind the ones of lower ports (R232). -/
def queueTblld (l : List (Nat × Nat × Word)) (e : Nat × Nat × Word) : List (Nat × Nat × Word) :=
  match l with
  | [] => [e]
  | q :: r => if q.2.2 = e.2.2 ∧ e.1 % 4 < q.1 % 4 then e :: q :: r else q :: queueTblld r e

/-- The scope of a TBLLD's read (R414). -/
def tblldScope (sp : Space) : Scope := if sp = .s then .team else .dev

/-- The effect of a TBLLD: its range and its place among the core's TBLLDs are taken, the read enters the queue (R232, R414). -/
def tblldEff (s : State) (sp : Space) (at_ : Word) (ps : List Piece) : Eff :=
  let x := { s.newAccess with kind := .tblld, ty := .z32, space := sp, scope := tblldScope sp,
                              dst := .table, pieces := ps }
  let seq := s.cur.seq
  let s1 := (s.enterValve sp at_ 1024 false (groupKey s.curCore s.curSlot) seq).modCore s.curCore fun c =>
    { c with lut := { c.lut with queue := queueTblld c.lut.queue (s.curSlot, seq, c.strokes) } }
  let suspend (t : State) : Eff := if s.det && !s.atLastWord then .leave t .suspended else .done t
  if sp = .s then
    (if scratchHeld s x then .retry
     else suspend ((s1.pushAccess { x with pieces := readNow s x, resolved := true, ckpt := {} }).addBeats s.curPasses x))
  else suspend (s1.enqueue x)

/-- TBLLD (R414, R415). With DETMODE 1 one whose guard is false in every executing lane loads no table and is no switch point, as R233
ties the switch to the load; R48 leaves that open; the model's choice (log 39). -/
def execTblld (h : Hdr) (sp : Space) (sb : BitVec 6) (off : BitVec 16) (s : State) : Host.Outcome State Fault Refusal :=
  finish s (groupScalarWord s h
    (let a := s.cur.arch
     let at_ := scalarAddr a sb off
     let ps := tablePieces at_
     guardTrap (firstTrap [poisonS a sb, rangeChecks s sp .load ps (alignFault sp .load 0 at_ 128)])
       (if !s.valveFits [(sp, at_)] then .retry else tblldEff s sp at_ ps)))

/-- Bank entries from the locations of a TBLLD. -/
def bankOf (cur : Bool) (ps : List Piece) : List (Nat × Elt) :=
  ps.zipIdx.map fun p => (256 * (!cur).toNat + p.2, ⟨p.1.val.setWidth 32, p.1.poison⟩)

/-- TBLLD_SWITCH: the oldest TBLLD of a core, its data read, writes the bank that is not current once no word in flight holds it, and
makes it current: at a later stroke than that of its issue, on which a lower port may still issue another (R231 to R233, R414), and not
while an older word of its group could still withdraw it (R251). The data of one whose team is ended or discarded is dropped (R243, R266). -/
def execTblldSwitch (core : Nat) (s : State) : Host.Outcome State Fault Refusal :=
  event s (match (s.core core).lut.queue with
    | [] => none
    | (slot, seq, w) :: rest =>
      let c := s.core core
      let held := c.windows.any fun w => w.bank == some (!c.lut.cur)
      match (s.group core slot).aq.find? fun x => x.seq == seq with
      | none => some (s.modCore core fun k => { k with lut := { k.lut with queue := rest } })
      | some x =>
        if held || ((s.group core slot).aq.any fun y => y.seq ≤ seq && !y.resolved) || !x.read || c.strokes = w then none else
        let s1 := s.modCore core fun k =>
          { k with lut := if (s.at_ core slot x.cand).dropsData then { k.lut with queue := rest }
              else { elts := Store.putAll k.lut.elts (bankOf k.lut.cur x.pieces), cur := !k.lut.cur, queue := rest } }
        let s2 := (s1.leaveValve (groupKey core slot) seq).at_ core slot x.cand
        let s3 := s2.modTeam s2.cur.team fun t =>
          { t with tblld := some (x.space, ((x.pieces.head?).map (·.addr)).getD 0, x.privd) }
        let s4 := (s3.modCur fun g => { g with aq := g.aq.map fun y => if y.seq == seq then { y with done := true } else y }).settleQueue
        some s4.switchPoint)

end Sys2Proof.Machine
end

