-- ==== Sys2Proof/Machine/Atomics.lean ====
section
/-! DEFINITION. The atomics (R129, R178, R180, R334 to R340). -/

namespace Sys2Proof.Machine

open Sys2Proof

/-- DETXATOM with its scope and the kind of word (R180). -/
def detxTrap (sc : Scope) (kind : Nat) : Trap :=
  { cause := .detxatom, einfo := BitVec.ofNat 64 (scopeCode sc * 2 ^ 8 + kind) }

/-- DETXATOM where a deterministic group names a scope wider than TEAM. -/
def detxFault (s : State) (sc : Scope) (kind : Nat) : Option Trap := if s.det && isWide sc then some (detxTrap sc kind) else none

/-- The access of an atomic word. -/
def atomicAccess (s : State) (op : AtomicOp) (f : AtomF) (d : Dst) (ps : List Piece) : Access :=
  { s.newAccess with kind := .atomic op, ty := f.ty, space := f.space, order := f.order, scope := f.scope, dst := d, pieces := ps }

/-- The scalar form: one step when the guard is true in an executing lane (R337). -/
def atomicScalar (s : State) (h : Hdr) (op : AtomicOp) (f : AtomF) (sv sx : BitVec 6) : Eff :=
  scalarWord s h
    (let a := s.cur.arch
     let n := memWidth f.ty
     let at_ := scalarAddr a f.sb f.off
     let ps : List Piece := [{ addr := at_, n := n, val := a.valS sv, val2 := a.valS (sv + 1) }]
     let poison (r : BitVec 6) : Option Trap := if n = 8 then poisonS a r else poisonLo a r
     guardTrap (firstTrap [poisonS a f.sb, poison sv, if op = .cas then poison (sv + 1) else none,
         detxFault s f.scope 1,
         issueChecks s f.space .atomic ps (piecesAlign f.space .atomic ps n)])
       (memWord s (atomicAccess s op f (.scal sx.toNat) ps)))

/-- The register after a reference. -/
def nextRef (r : VRef) : VRef :=
  match r with
  | .reg n => .reg (n + 1)
  | .temp t => .temp (t + 1)

/-- REGBOUND of the value operand: ACAS reads two registers (R336). -/
def boundValue (allot : Nat) (op : AtomicOp) (r : VRef) : Option Trap :=
  match r with
  | .reg n => boundRange allot 2 n (if op = .cas then 2 else 1)
  | .temp _ => none

/-- The vector form: one step for each executing lane (R337). -/
def atomicVector (s : State) (h : Hdr) (op : AtomicOp) (f : AtomF) (vv vx : VOp) : Eff :=
  groupWord s h fun m =>
    let g := s.cur
    let a := g.arch
    let v := vref a vv
    let x := vref a vx
    let base := scalarAddr a f.sb f.off
    let ps : List Piece := (lanes m).map fun l =>
      { lane := l, addr := base + (a.getRef x l).bits.setWidth 64, n := 4, val := (a.getRef v l).bits.setWidth 64,
        val2 := (a.getRef (nextRef v) l).bits.setWidth 64 }
    guardTrap (firstTrap [boundRef g.allot 0 x, boundValue g.allot op v,
        if m = 0 then none else poisonS a f.sb, poisonRef a v m, if op = .cas then poisonRef a (nextRef v) m else none,
        poisonRef a x m,
        if m = 0 then none else detxFault s f.scope 1,
        issueChecks s f.space .atomic ps (piecesAlign f.space .atomic ps 4)])
      (memWord s (atomicAccess s op f (dstOf x) ps))

/-- An atomic word. -/
def atomicWord (s : State) (h : Hdr) (op : AtomicOp) (f : AtomF) : Eff :=
  match f.opnd with
  | .scal sv sx => atomicScalar s h op f sv sx
  | .vec vv vx => atomicVector s h op f vv vx

/-- AADD (R334). -/
def execAadd (h : Hdr) (a : AtomF) (s : State) : Host.Outcome State Fault Refusal := finish s (atomicWord s h .add a)
/-- AAND (R334). -/
def execAand (h : Hdr) (a : AtomF) (s : State) : Host.Outcome State Fault Refusal := finish s (atomicWord s h .and a)
/-- AOR (R334). -/
def execAor (h : Hdr) (a : AtomF) (s : State) : Host.Outcome State Fault Refusal := finish s (atomicWord s h .or a)
/-- AXOR (R334). -/
def execAxor (h : Hdr) (a : AtomF) (s : State) : Host.Outcome State Fault Refusal := finish s (atomicWord s h .xor a)
/-- AMAX (R334). -/
def execAmax (h : Hdr) (a : AtomF) (s : State) : Host.Outcome State Fault Refusal := finish s (atomicWord s h .max a)
/-- AMIN (R334). -/
def execAmin (h : Hdr) (a : AtomF) (s : State) : Host.Outcome State Fault Refusal := finish s (atomicWord s h .min a)
/-- AXCH (R334). -/
def execAxch (h : Hdr) (a : AtomF) (s : State) : Host.Outcome State Fault Refusal := finish s (atomicWord s h .xch a)
/-- ACAS (R334). -/
def execAcas (h : Hdr) (a : AtomF) (s : State) : Host.Outcome State Fault Refusal := finish s (atomicWord s h .cas a)

end Sys2Proof.Machine
end

