-- ==== Sys2Proof/Machine/Special.lean ====
section
/-! DEFINITION. The special functions by their reference procedures, the activations, the counter hash and the lane tree
(R116 to R124). Every function takes and gives FP32 encodings. -/

namespace Sys2Proof.Machine

open Sys2Proof

/-- T[j], the integer nearest to 2^(30 + j/64) (R119). -/
def expTable : List Nat :=
  [1073741824, 1085434106, 1097253708, 1109202018, 1121280436, 1133490379, 1145833280, 1158310587]
  ++ [1170923762, 1183674286, 1196563654, 1209593378, 1222764986, 1236080024, 1249540052, 1263146652]
  ++ [1276901417, 1290805962, 1304861917, 1319070932, 1333434672, 1347954824, 1362633090, 1377471191]
  ++ [1392470869, 1407633882, 1422962010, 1438457051, 1454120821, 1469955159, 1485961921, 1502142985]
  ++ [1518500250, 1535035634, 1551751076, 1568648537, 1585730000, 1602997467, 1620452965, 1638098541]
  ++ [1655936265, 1673968228, 1692196547, 1710623359, 1729250827, 1748081133, 1767116489, 1786359126]
  ++ [1805811301, 1825475297, 1845353420, 1865448001, 1885761398, 1906295993, 1927054196, 1948038440]
  ++ [1969251188, 1990694927, 2012372174, 2034285470, 2056437387, 2078830522, 2101467502, 2124350982]

/-- C1, C2, C3 of R119 and L of R120. -/
def expC1 : Nat := 2977044472
def expC2 : Nat := 1031764991
def expC3 : Nat := 238388332
def expL : Nat := 3098164009

/-- EXP2 of the finite value (−1)^neg × m × 2^e (R119). -/
def exp2Of (neg : Bool) (m : Nat) (e : Int) : FRes :=
  let r := roundInt .rne neg m (e + 32)
  let a : Int := signedInt neg r.1
  let sc := roundInt .rz false m e
  if !neg && 128 ≤ sc.1 then infRes fmtF32 false (fOvf ||| fInx)
  else if neg && (150 < sc.1 || (sc.1 == 150 && sc.2)) then ⟨0, fUnf ||| fInx⟩
  else
    let n : Int := a / 2 ^ 32
    let fr : Nat := (a % 2 ^ 32).toNat
    let lo := fr % 2 ^ 26
    let pol := 2 ^ 32 + (lo * (expC1 + (lo * (expC2 + lo * expC3 / 2 ^ 32)) / 2 ^ 32)) / 2 ^ 32
    let mm := expTable.getD (fr / 2 ^ 26) 0 * pol / 2 ^ 31
    let res := roundTo fmtF32 .rne false mm (n - 31)
    ⟨res.bits, (res.flags &&& (fOvf ||| fUnf)) ||| flagIf (sc.2 || res.flags &&& fInx != 0) fInx⟩

/-- EXP2 (R118, R119). -/
def fExp2 (a : Nat) : FRes :=
  match unpack fmtF32 a with
  | .nan sig => nanRes fmtF32 (flagIf sig fInv)
  | .inf n => if n then zeroRes fmtF32 false else infRes fmtF32 false fNone
  | .fin n m e => exp2Of n m e

/-- EXP: EXP2 of x × L / 2^31 (R120). -/
def fExp (a : Nat) : FRes :=
  match unpack fmtF32 a with
  | .nan sig => nanRes fmtF32 (flagIf sig fInv)
  | .inf n => if n then zeroRes fmtF32 false else infRes fmtF32 false fNone
  | .fin n m e => exp2Of n (m * expL) (e - 31)

/-- RCP (R118, R121). -/
def fRcp (a : Nat) : FRes :=
  match unpack fmtF32 a with
  | .nan sig => nanRes fmtF32 (flagIf sig fInv)
  | .inf n => zeroRes fmtF32 n
  | .fin n m e =>
    if m = 0 then infRes fmtF32 n fDz else
    let sh := 24 - bitLen m
    let mant := m * 2 ^ sh
    let ex : Int := e - sh + 23
    roundTo fmtF32 .rne n (2 ^ 48 / mant) (-ex - 25) (2 ^ 48 % mant != 0)

/-- A positive finite value with an even exponent. -/
def evenExp (m : Nat) (e : Int) : Nat × Int := if e % 2 = 0 then (m, e) else (2 * m, e - 1)

/-- SQRT (R117, R118). -/
def fSqrt (a : Nat) : FRes :=
  match unpack fmtF32 a with
  | .nan sig => nanRes fmtF32 (flagIf sig fInv)
  | .inf n => if n then nanRes fmtF32 fInv else infRes fmtF32 false fNone
  | .fin n m e =>
    if m = 0 then zeroRes fmtF32 n else if n then nanRes fmtF32 fInv else
    let (m1, e1) := evenExp m e
    let v := m1 * 2 ^ 64
    let r := isqrt v
    roundTo fmtF32 .rne false r (e1 / 2 - 32) (r * r != v)

/-- RSQ (R117, R118). -/
def fRsq (a : Nat) : FRes :=
  match unpack fmtF32 a with
  | .nan sig => nanRes fmtF32 (flagIf sig fInv)
  | .inf n => if n then nanRes fmtF32 fInv else zeroRes fmtF32 false
  | .fin n m e =>
    if m = 0 then infRes fmtF32 n fDz else if n then nanRes fmtF32 fInv else
    let (m1, e1) := evenExp m e
    let r := isqrt (2 ^ 104 / m1)
    roundTo fmtF32 .rne false r (-(e1 / 2) - 52) (r * r * m1 != 2 ^ 104)

/-- Partial sums of atanh z = z + z^3 / 3 + …, in units of 2^-192; p is the current power of z, i its exponent. -/
def atanhSum (fuel : Nat) (z2 p i acc : Nat) : Nat :=
  match fuel with
  | 0 => acc
  | fuel + 1 => atanhSum fuel z2 (p * z2 / 2 ^ 192) (i + 2) (acc + p / i)

/-- ln (num / den) × 2^192 for 1 ≤ num / den ≤ 2, by 2 atanh ((num − den) / (num + den)); the error is below 2^-180. -/
def lnRatio (num den : Nat) : Nat :=
  let z := (num - den) * 2 ^ 192 / (num + den)
  2 * atanhSum 64 (z * z / 2 ^ 192) z 1 0

/-- LOG: ln x correctly rounded by RNE, from ln x to 160 bits (R117, R118, log 18). -/
def fLog (a : Nat) : FRes :=
  match unpack fmtF32 a with
  | .nan sig => nanRes fmtF32 (flagIf sig fInv)
  | .inf n => if n then nanRes fmtF32 fInv else infRes fmtF32 false fNone
  | .fin n m e =>
    if m = 0 then infRes fmtF32 true fDz else if n then nanRes fmtF32 fInv else
    let k : Int := (bitLen m : Int) - 1 + e
    let d := 2 ^ (bitLen m - 1)
    -- x = (m / d) × 2^k; above √2 the ratio is halved, so that no leading bits cancel
    let v : Int :=
      if 2 * d * d < m * m then (k + 1) * lnRatio 2 1 - (lnRatio (2 * d) m : Int)
      else k * lnRatio 2 1 + lnRatio m d
    if v = 0 then zeroRes fmtF32 false
    else roundTo fmtF32 .rne (decide (v < 0)) v.natAbs (-192) true

/-! The activations (R122). A step's result, whether a step so far was inexact. -/

/-- The result of a composition: OVF and UNF of the last step, INX if any step was inexact. -/
def compose (last : FRes) (before : Flags) : FRes :=
  ⟨last.bits, (last.flags &&& (fOvf ||| fUnf)) ||| ((last.flags ||| before) &&& fInx)⟩

def f32One : Nat := 0x3F800000
def f32Half : Nat := 0x3F000000
/-- κ and γ of R122. -/
def f32Kappa : Nat := 0x3F4C422A
def f32Gamma : Nat := 0x3D372713

def add32 (a b : Nat) : FRes := fAdd fmtF32 .rne a b
def sub32 (a b : Nat) : FRes := fSub fmtF32 .rne a b
def mul32 (a b : Nat) : FRes := fMul fmtF32 .rne a b
def neg32 (a : Nat) : Nat := fNeg fmtF32 a
def abs32 (a : Nat) : Nat := a % 2 ^ 31

/-- sigm of a finite x: RCP(1 + EXP(−x)). -/
def sigmFin (x : Nat) : FRes :=
  let e := fExp (neg32 x)
  let d := add32 f32One e.bits
  compose (fRcp d.bits) (e.flags ||| d.flags)

/-- tanh of x, infinite or finite. -/
def tanhNum (x : Nat) : FRes :=
  let n := x / 2 ^ 31 % 2 = 1
  if abs32 x < 0x39800000 then ⟨x, fNone⟩
  else if 0x41100000 ≤ abs32 x then ⟨signBit fmtF32 n + f32One, fNone⟩
  else
    let y := mul32 0xC0000000 (abs32 x)
    let t := fExp y.bits
    let u := sub32 f32One t.bits
    let v := add32 f32One t.bits
    let r := fRcp v.bits
    let p := mul32 u.bits r.bits
    compose ⟨signBit fmtF32 n + p.bits, p.flags⟩ (y.flags ||| t.flags ||| u.flags ||| v.flags ||| r.flags)

/-- An activation of a finite x (R122). -/
def actFin (mode : Act) (x : Nat) : FRes :=
  let pos := x ≠ 0 ∧ x < 2 ^ 31
  match mode with
  | .relu => ⟨if pos then x else 0, fNone⟩
  | .sigm => sigmFin x
  | .tanh => tanhNum x
  | .silu =>
    let s := sigmFin x
    compose (mul32 x s.bits) s.flags
  | .gelu =>
    let h := mul32 f32Half x
    let a := mul32 x x
    let b := mul32 a.bits x
    let c := mul32 f32Gamma b.bits
    let d := add32 x c.bits
    let e := mul32 f32Kappa d.bits
    let t := tanhNum e.bits
    let u := add32 f32One t.bits
    compose (mul32 h.bits u.bits)
      (h.flags ||| a.flags ||| b.flags ||| c.flags ||| d.flags ||| e.flags ||| t.flags ||| u.flags)
  | .softplus =>
    if pos ∧ 0x41A00000 < x then ⟨x, fNone⟩
    else
      let e := fExp (neg32 (abs32 x))
      let d := add32 f32One e.bits
      let l := fLog d.bits
      compose (add32 (if pos then x else 0) l.bits) (e.flags ||| d.flags ||| l.flags)

/-- An activation (R122). -/
def fAct (mode : Act) (a : Nat) : FRes :=
  match unpack fmtF32 a with
  | .nan sig => nanRes fmtF32 (flagIf sig fInv)
  | .inf n =>
    match mode with
    | .relu | .softplus => if n then zeroRes fmtF32 false else infRes fmtF32 false fNone
    | .sigm => ⟨if n then 0 else f32One, fNone⟩
    | .tanh => ⟨signBit fmtF32 n + f32One, fNone⟩
    | .silu | .gelu => if n then zeroRes fmtF32 true else infRes fmtF32 false fNone
  | .fin _ _ _ => actFin mode a

/-- VGATE: act(y) times x, with the flags of both steps (R123). -/
def fGate (mode : Act) (x y : Nat) : FRes :=
  let r := fAct mode y
  let p := mul32 x r.bits
  ⟨p.bits, r.flags ||| p.flags⟩

/-! The counter hash (R124). -/

/-- One round of H. -/
def hashRound (i : Nat) (v : Lane × Lane × Lane × Lane) : Lane × Lane × Lane × Lane :=
  let (a, b, c, d) := v
  let a := a + b
  let d := (d ^^^ a).rotateLeft 16
  let c := c + d
  let b := (b ^^^ c).rotateLeft 12
  let a := a + b + BitVec.ofNat 32 (0x9E3779B9 * (i + 1))
  let d := (d ^^^ a).rotateLeft 8
  let c := c + d
  let b := (b ^^^ c).rotateLeft 7
  (a, b, c, d)

/-- H(seed, ctr), word w (R124). -/
def hashWord (seed ctr : Word) (w : Nat) : Lane :=
  let c0 : Lane := ctr.extractLsb' 0 32
  let c1 : Lane := ctr.extractLsb' 32 32
  let s0 : Lane := seed.extractLsb' 0 32
  let s1 : Lane := seed.extractLsb' 32 32
  let (a, b, c, d) := (List.range 10).foldl (fun v i => hashRound i v) (c0, c1, s0, s1)
  match w with
  | 0 => a + c0
  | 1 => b + c1
  | 2 => c + s0
  | _ => d + s1

/-- (w >> 8) × 2^-24 as FP32, exact (R125). -/
def unitFloat (w : Lane) : Nat := (roundTo fmtF32 .rne false (w.toNat / 2 ^ 8) (-24)).bits

/-! The lane tree (R116). -/

/-- One combination; an empty node passes the other on. -/
def treeNode {α : Type} (f : α → α → α × Flags) (x y : Option α) : Option α × Flags :=
  match x, y with
  | some a, some b => let r := f a b; (some r.1, r.2)
  | some a, none => (some a, fNone)
  | none, y => (y, fNone)

/-- One level of the tree: neighbours are combined in pairs. -/
def treeLevel {α : Type} (f : α → α → α × Flags) (l : List (Option α)) : List (Option α) × Flags :=
  match l with
  | x :: y :: r =>
    let n := treeNode f x y
    let rest := treeLevel f r
    (n.1 :: rest.1, n.2 ||| rest.2)
  | l => (l, fNone)

/-- The tree over 2^k leaves, with the flags of every step. -/
def laneTree {α : Type} (f : α → α → α × Flags) (k : Nat) (l : List (Option α)) : Option α × Flags :=
  match k with
  | 0 => (l.headD none, fNone)
  | k + 1 =>
    let r := treeLevel f l
    let t := laneTree f k r.1
    (t.1, r.2 ||| t.2)

end Sys2Proof.Machine
end

