-- ==== Sys2Proof/Machine/Lane.lean ====
section
/-! DEFINITION. Lane code (R222 to R230, R450 to R454) and the reads of the lookup table (R231, R235, R432, R433). -/

namespace Sys2Proof.Machine

open Sys2Proof

/-! The lookup table. -/

/-- Entry i of the current bank, or of the other one. -/
def Core.table (c : Core) (other : Bool) (i : Nat) : Elt := Store.get c.lut.elts (256 * (c.lut.cur ^^ other).toNat + i)

/-- A rounded by RZ and clamped to 0–255, NaN giving 0 (R224). -/
def lutIndex (a : Nat) : Nat :=
  match unpack fmtF32 a with
  | .nan _ => 0
  | .inf n => if n then 0 else 255
  | .fin n m e => if n then 0 else min 255 (roundInt .rz false m e).1

/-- The interpolation point of a number that is no NaN: the entry i and f as an integer times a power of two (R235). -/
def lutPoint (a : Nat) : Nat × Int × Int :=
  match unpack fmtF32 a with
  | .nan _ => (0, 0, 0)
  | .inf n => if n then (0, 0, 0) else (254, 1, 0)
  | .fin n m e =>
    if n then (0, 0, 0) else
    let fl := (roundInt .rz false m e).1
    if 255 ≤ fl then (254, 1, 0) else
    let i := min fl 254
    let d := sumExact false m e true i 0
    (i, d.1, d.2)

/-- The entries an interpolation reads (R235). -/
def lutReads (a : Nat) : List Nat :=
  if (unpack fmtF32 a).isNan then [] else
  let p := lutPoint a
  if p.2.1 = 0 then [p.1] else [p.1, p.1 + 1]

/-- The interpolation of R235 with table values t. -/
def lutInterp (t : Nat → Nat) (a : Nat) : FRes :=
  match unpack fmtF32 a with
  | .nan sig => nanRes fmtF32 (flagIf sig fInv)
  | _ =>
    let (i, f, e) := lutPoint a
    let x := unpack fmtF32 (t i)
    let y := unpack fmtF32 (t (i + 1))
    if f = 0 then (if x.isNan then nanRes fmtF32 (sigFlag [x]) else ⟨t i, fNone⟩)
    else match x, y with
    | .nan _, _ | _, .nan _ => nanRes fmtF32 (sigFlag [x, y])
    | .inf _, _ => nanRes fmtF32 fInv
    | .fin _ _ _, .inf n => infRes fmtF32 n fNone
    | .fin n1 m1 e1, .fin n2 m2 e2 =>
      let d := sumExact n2 m2 e2 (!n1) m1 e1
      let p := d.1 * f
      let v := sumExact (decide (p < 0)) p.natAbs (d.2 + e) n1 m1 e1
      roundSigned fmtF32 .rne v.1 v.2 false

/-- The table entries that a lane of a VLUT reads (R432). -/
def vlutReads (ty : Ty) (x : Lane) : List Nat := if ty = .f32 then lutReads (f32 x) else [x.toNat % 256]

/-- POISON of table entries that lanes read: the lowest entry is named (R433). -/
def poisonTable (c : Core) (reads : List (Nat × Nat)) : Option Trap :=
  match minBy id ((reads.filter fun p => (c.table false p.2).poison).map (·.2)) with
  | none => none
  | some i => some (poisonTrap (maskOf 32 ((reads.filter fun p => p.2 == i).map (·.1))) 4 i)

/-- VLUT (R235, R432, R433). -/
def execVlut (h : Hdr) (ty : Ty) (vd va : VOp) (_rm : RMode) (s : State) : Host.Outcome State Fault Refusal :=
  finish s (groupWord s h fun m =>
    let g := s.cur
    let a := g.arch
    let c := s.core s.curCore
    let d := vref a vd
    let r := vref a va
    let x (l : Nat) : Lane := (a.getRef r l).bits
    let t (i : Nat) : Nat := (c.table false i).bits.toNat
    guardTrap (firstTrap [boundAll g.allot [d, r] 0, poisonRef a r m,
        poisonTable c ((lanes m).flatMap fun l => (vlutReads ty (x l)).map fun i => (l, i))])
      (let res := (lanes m).map fun l =>
         (l, if ty = .f32 then lutInterp t (f32 (x l)) else ⟨t ((x l).toNat % 256), fNone⟩)
       .done (s.modArch fun b =>
         (b.writeLanes d (res.map fun p => (p.1, BitVec.ofNat 32 p.2.bits))).raise (orFlags (res.map fun p => p.2.flags)))))

/-! Lane words (R222). -/

def laneOp (w : Lane) : Nat := (w.extractLsb' 24 8).toNat
def laneSelA (w : Lane) : Nat := (w.extractLsb' 16 8).toNat
def laneSelB (w : Lane) : Nat := (w.extractLsb' 8 8).toNat
/-- CLEAR ignores its POP field (R223). -/
def lanePop (w : Lane) : Nat := if laneOp w = 0x07 then 0 else (w.extractLsb' 6 2).toNat
def laneImm (w : Lane) : Int := (w.extractLsb' 0 6).toInt

/-- How many selectors a lane opcode uses; none when it is not defined (R224, R225). -/
def laneUses (op : Nat) : Option Nat :=
  if op ≤ 0x0F then
    (if op = 0x01 ∨ op = 0x04 ∨ op = 0x05 ∨ 0x08 ≤ op then some 1 else if op = 0x06 then some 2 else some 0)
  else if op ≤ 0x17 then some 2
  else if op ≤ 0x1E then some 1
  else if op = 0x1F then some 2
  else if op ≤ 0x2B then some 1
  else if op ≤ 0x35 then some 2
  else if op = 0x36 then some 1
  else if op = 0x37 then some 2
  else if op ≤ 0x39 then some 1
  else if op ≤ 0x3D then some 2
  else if op ≤ 0x4F then some 1
  else if op ≤ 0x58 then some 2
  else if op ≤ 0x5B then some 1
  else if op = 0x5C then some 2
  else if op ≤ 0x5E then some 1
  else if op = 0x5F then some 0
  else if op = 0xF0 then some 1
  else none

/-- The entries a lane opcode reads besides its selectors (R224). -/
def laneImplicit (op : Nat) : List Nat :=
  if op = 0x02 then [0, 1]
  else if op = 0x03 then [0, 1, 2]
  else if 0x08 ≤ op ∧ op ≤ 0x0F then [op % 8]
  else if op = 0x13 ∨ op = 0x17 ∨ op = 0x1F ∨ op = 0x34 ∨ op = 0x35 then [0]
  else []

/-- The constants a lane opcode reads besides its selectors: c0 to ck of POLY k (R224). -/
def laneConsts (op : Nat) : List Nat := if 0x48 ≤ op ∧ op ≤ 0x4F then List.range (op % 8 + 1) else []

/-- Whether a lane opcode pushes a result (R224). -/
def lanePushes (op : Nat) : Bool :=
  !(op == 0x00 || op == 0x02 || op == 0x03 || op == 0x07 || (0x08 ≤ op && op ≤ 0x0F))

/-- Whether a selector is legal (R222). -/
def selLegal (k : Nat) : Bool := k ≤ 0x07 || (0x10 ≤ k && k ≤ 0x13) || (0x20 ≤ k && k ≤ 0x27) || k == 0x30 || k == 0x31

/-- The classes of lane opcodes (R224, R225). -/
def laneClass (op : Nat) : Nat :=
  if op = 0x16 ∨ (0x20 ≤ op ∧ op ≤ 0x25) ∨ op = 0x5C then 2
  else if 0x27 ≤ op ∧ op ≤ 0x2F then 3
  else if (0x10 ≤ op ∧ op ≤ 0x13) ∨ op = 0x17 ∨ (0x1C ≤ op ∧ op ≤ 0x1E) ∨ op = 0x38 ∨ op = 0x39 ∨ (0x40 ≤ op ∧ op ≤ 0x4F)
    ∨ op = 0x52 ∨ op = 0xF0 then 1
  else 0

/-- What a lane finds besides its stack: feeds with their registers, constants, the seed, the table. -/
structure LaneIn where
  lane : Nat
  privd : Bool
  feeds : List (Nat × Elt)
  consts : List Elt
  seed : Word
  core : Core

/-- The stack of a lane inside a word, its flags, what stopped it: a cause of R226 with its step, or a poisoned operand by kind
and number (R249). -/
structure LaneRun where
  slots : List Elt
  sp : Nat
  flags : Flags
  fault : Option (Nat × Nat)
  bad : Option (Nat × Nat)

/-- Stack entry i, 0 the top one (R223). -/
def LaneRun.entry (r : LaneRun) (i : Nat) : Elt := r.slots.getD (r.sp - 1 - i) {}
def LaneRun.setEntry (r : LaneRun) (i : Nat) (e : Elt) : LaneRun := { r with slots := r.slots.set (r.sp - 1 - i) e }

/-- The value of an integer as FP32. -/
def f32OfInt (n : Int) : Nat := (fFromInt true .rne (BitVec.ofInt 32 n)).bits

/-- The operand a selector names, and where it stands for POISON. -/
def laneOperand (x : LaneIn) (r : LaneRun) (imm : Int) (sel : Nat) : Elt × Nat × Nat :=
  if sel < 8 then (r.entry sel, 2, r.sp - 1 - sel)
  else if sel < 0x14 then (let f := x.feeds.getD (sel - 0x10) (0, {}); (f.2, 0, f.1))
  else if sel < 0x28 then (x.consts.getD (sel - 0x20) {}, 1, 56 + (sel - 0x20))
  else (⟨BitVec.ofNat 32 (f32OfInt (if sel = 0x30 then imm else x.lane)), false⟩, 0, 0)

/-! The operations of R224. -/

/-- A rounded to an integral value, INX not raised. -/
def fRint (rm : RMode) (a : Nat) : FRes :=
  match unpack fmtF32 a with
  | .nan sig => nanRes fmtF32 (flagIf sig fInv)
  | .inf n => infRes fmtF32 n fNone
  | .fin n m e =>
    let r := (roundInt rm n m e).1
    if r = 0 then zeroRes fmtF32 n else ⟨(roundTo fmtF32 .rne n r 0).bits, fNone⟩

/-- A rounded to BF16 or FP16 precision and range, kept in FP32. -/
def fRnd (f : FFmt) (a : Nat) : FRes :=
  match unpack fmtF32 a with
  | .nan sig => nanRes fmtF32 (flagIf sig fInv)
  | .inf n => infRes fmtF32 n fNone
  | .fin n m e =>
    let r := roundTo f .rne n m e
    ⟨(fWiden f r.bits).bits, r.flags⟩

/-- floor (log2 |A|). -/
def fIlogb (a : Nat) : FRes :=
  match unpack fmtF32 a with
  | .nan sig => nanRes fmtF32 (flagIf sig fInv)
  | .inf _ => infRes fmtF32 false fNone
  | .fin _ m e => if m = 0 then infRes fmtF32 true fDz else ⟨f32OfInt ((bitLen m : Int) - 1 + e), fNone⟩

/-- The class number of FCLASS. -/
def fClass (a : Nat) : Nat :=
  match unpack fmtF32 a with
  | .nan sig => if sig then 8 else 9
  | .inf n => if n then 0 else 7
  | .fin n m _ =>
    if m = 0 then (if n then 3 else 4)
    else if m < 2 ^ 23 then (if n then 2 else 5) else (if n then 1 else 6)

/-- A comparison as 1.0 or +0. -/
def fTruth (c : Cond) (a b : Nat) : FRes := ⟨if fCompare fmtF32 c a b then f32One else 0, compareFlags fmtF32 a b⟩

/-- POWN: k multiplications from r. -/
def fPown (k : Nat) (a r : Nat) (fl : Flags) : FRes :=
  match k with
  | 0 => ⟨r, fl⟩
  | k + 1 => let p := mul32 r a; fPown k a p.bits (fl ||| p.flags)

/-- POLY: Horner steps down the coefficients. -/
def fPoly (cs : List Nat) (a r : Nat) (fl : Flags) : FRes :=
  match cs with
  | [] => ⟨r, fl⟩
  | c :: cs => let p := fFma fmtF32 .rne r a c; fPoly cs a p.bits (fl ||| p.flags)

/-- Operations on floating-point values, A and B and entry 0 as encodings (R224). CHKFIN pushes the bits of A, a NaN with its payload: the
table says A, and R97 lets no operation that produces a NaN pass a payload on; the model's choice (log 104). -/
def laneFloat (x : LaneIn) (op : Nat) (imm : Int) (a b e0 : Nat) : FRes :=
  let t (i : Nat) : Nat := (x.core.table false i).bits.toNat
  match op with
  | 0x10 => add32 a b
  | 0x11 => sub32 a b
  | 0x12 => mul32 a b
  | 0x13 => fFma fmtF32 .rne a b e0
  | 0x14 => fMin fmtF32 a b
  | 0x15 => fMax fmtF32 a b
  | 0x16 => fDiv fmtF32 .rne a b
  | 0x17 => fFma fmtF32 .rne (neg32 a) b e0
  | 0x18 => fRint .rne a
  | 0x19 => fRint .rdn a
  | 0x1A => fRint .rup a
  | 0x1B => fRint .rz a
  | 0x1C => let f := fRint .rdn a; let r := sub32 a f.bits; ⟨r.bits, f.flags ||| r.flags⟩
  | 0x1D => mul32 a a
  | 0x1E => mul32 a ((127 + imm).toNat * 2 ^ 23)
  | 0x1F => let r := fMax fmtF32 a b; let q := fMin fmtF32 r.bits e0; ⟨q.bits, r.flags ||| q.flags⟩
  | 0x20 => fExp2 a
  | 0x21 => fExp a
  | 0x22 => fLog a
  | 0x23 => fRcp a
  | 0x24 => fRsq a
  | 0x25 => fSqrt a
  | 0x26 => fAct .relu a
  | 0x27 => fAct .sigm a
  | 0x28 => fAct .tanh a
  | 0x29 => fAct .silu a
  | 0x2A => fAct .gelu a
  | 0x2B => fAct .softplus a
  | 0x2C => fGate .sigm a b
  | 0x2D => fGate .tanh a b
  | 0x2E => fGate .silu a b
  | 0x2F => fGate .gelu a b
  | 0x30 => fTruth .eq a b
  | 0x31 => fTruth .lt a b
  | 0x32 => fTruth .le a b
  | 0x33 => fTruth .un a b
  | 0x36 =>
    match unpack fmtF32 a with
    | .nan sig => nanRes fmtF32 (flagIf sig fInv)
    | .inf n => ⟨signBit fmtF32 n + f32One, fNone⟩
    | .fin n m _ => if m = 0 then zeroRes fmtF32 n else ⟨signBit fmtF32 n + f32One, fNone⟩
  | 0x37 => fTruth .ge a b
  | 0x39 => lutInterp t a
  | 0x59 => fRnd fmtB16 a
  | 0x5A => fRnd fmtH16 a
  | 0x5B => fIlogb a
  | 0x5E => ⟨a, flagIf (a / 2 ^ 23 % 256 == 255) fInv⟩
  | _ =>
    let k := op % 8
    let fl := sigFlag [unpack fmtF32 a]
    if op ≤ 0x47 then fPown k a f32One fl
    else
      let c (j : Nat) : Nat := (x.consts.getD j {}).bits.toNat
      fPoly ((List.range k).reverse.map c) a (c k) fl

/-- The result and flags of an opcode that pushes (R224, R225). -/
def laneResult (x : LaneIn) (op : Nat) (imm : Int) (sp : Nat) (a b e0 : Lane) : Lane × Flags :=
  match op with
  | 0x01 => (a, fNone)
  | 0x04 => (a ^^^ 0x80000000, fNone)
  | 0x05 => (a &&& 0x7FFFFFFF, fNone)
  | 0x06 => ((a &&& 0x7FFFFFFF) ||| (b &&& 0x80000000), fNone)
  | 0x34 => (if e0 &&& 0x7FFFFFFF = 0 then b else a, fNone)
  | 0x35 => (if fCompare fmtF32 .gt (f32 e0) 0 then a else b, fNone)
  | 0x38 => ((x.core.table false (lutIndex (f32 a))).bits, fNone)
  | 0xF0 => ((x.core.table true (lutIndex (f32 a))).bits, fNone)
  | 0x3A => (a &&& b, fNone)
  | 0x3B => (a ||| b, fNone)
  | 0x3C => (a ^^^ b, fNone)
  | 0x3D => (a &&& ~~~b, fNone)
  | 0x3E => laneOf (fFromInt true .rne a)
  | 0x3F => fToInt true .rne (f32 a)
  | 0x50 => (a + b, fNone)
  | 0x51 => (a - b, fNone)
  | 0x52 => (a * b, fNone)
  | 0x53 => (minInt true a b, fNone)
  | 0x54 => (maxInt true a b, fNone)
  | 0x55 => (if a.slt b then 1 else 0, fNone)
  | 0x56 => (a <<< (b.toNat % 32), fNone)
  | 0x57 => (a >>> (b.toNat % 32), fNone)
  | 0x58 => (a.sshiftRight (b.toNat % 32), fNone)
  | 0x5C => (BitVec.ofNat 32 (unitFloat (hashWord x.seed (b ++ a) 0)), fNone)
  | 0x5D => (BitVec.ofNat 32 (f32OfInt (fClass (f32 a))), fNone)
  | 0x5F => (BitVec.ofNat 32 (f32OfInt sp), fNone)
  | _ => laneOf (laneFloat x op imm (f32 a) (f32 b) (f32 e0))

/-- Table entries an opcode reads, with the bank they stand in. -/
def laneTableReads (op : Nat) (a : Lane) : List (Bool × Nat) :=
  match op with
  | 0x38 => [(false, lutIndex (f32 a))]
  | 0x39 => (lutReads (f32 a)).map fun i => (false, i)
  | 0xF0 => [(true, lutIndex (f32 a))]
  | _ => []

/-- The cause of R226 that a lane word reaches before any operand is read (R223). -/
def laneCause (privd : Bool) (sp : Nat) (w : Lane) : Nat :=
  let op := laneOp w
  if 0xF0 ≤ op ∧ !privd then 2 else
  match laneUses op with
  | none => 1
  | some u =>
    let sels := [laneSelA w, laneSelB w].take u
    if !(sels.all selLegal) then 1 else
    let need := maxOf ((sels.filter (· < 8)).map (· + 1) ++ (laneImplicit op).map (· + 1))
    if sp < need ∨ sp < lanePop w then 3
    else if lanePushes op && sp - lanePop w == 8 then 4 else 0

/-- The elements that a lane word reads from its stack, the feeds and the constants, with their place for POISON (R223, R249, R270). -/
def laneReads (x : LaneIn) (r : LaneRun) (w : Lane) : List (Elt × Nat × Nat) :=
  let op := laneOp w
  ([laneSelA w, laneSelB w].take ((laneUses op).getD 0)).map (laneOperand x r (laneImm w))
    ++ (laneImplicit op).map (fun i => (r.entry i, 2, r.sp - 1 - i))
    ++ (laneConsts op).map fun j => (x.consts.getD j {}, 1, 56 + j)

/-- Of several poisoned operands the one that is named: the first in the order vector register, scalar register, stack slot, table entry,
and by number (R249, log 19). -/
def firstPoison (l : List (Nat × Nat)) : Option (Nat × Nat) := minBy (fun p => 1024 * p.1 + p.2) l

/-- One lane word on a lane's stack (R223). -/
def laneStep (x : LaneIn) (r : LaneRun) (step : Nat) (w : Lane) : LaneRun :=
  if r.fault.isSome || r.bad.isSome then r else
  match laneCause x.privd r.sp w with
  | 0 =>
    let op := laneOp w
    let ops := ([laneSelA w, laneSelB w].take ((laneUses op).getD 0)).map (laneOperand x r (laneImm w))
    let val (i : Nat) : Lane := (ops.getD i ({}, 0, 0)).1.bits
    let a := val 0
    let read := ((laneReads x r w).filter fun p => p.1.poison).map (·.2)
    let table := ((laneTableReads op a).filter fun p => (x.core.table p.1 p.2).poison).map fun p => (4, p.2)
    match firstPoison (read ++ table) with
    | some p => { r with bad := some p }
    | none =>
      let e (i : Nat) : Elt := r.entry i
      let res := laneResult x op (laneImm w) r.sp a (val 1) (e 0).bits
      let r1 : LaneRun :=
        if op = 0x02 then (r.setEntry 0 (e 1)).setEntry 1 (e 0)
        else if op = 0x03 then ((r.setEntry 0 (e 2)).setEntry 1 (e 0)).setEntry 2 (e 1)
        else if 0x08 ≤ op ∧ op ≤ 0x0F then r.setEntry (op % 8) ⟨a, false⟩
        else r
      let sp := if op = 0x07 then 0 else r.sp - lanePop w
      if lanePushes op then { r1 with slots := r1.slots.set sp ⟨res.1, false⟩, sp := sp + 1, flags := r.flags ||| res.2 }
      else { r1 with sp := sp }
  | c => { r with fault := some (c, step) }

/-- The class a lane word adds, none for an illegal or privileged code (R78). -/
def laneWordClass (privd : Bool) (sp : Nat) (w : Lane) : Nat :=
  let c := laneCause privd sp w
  if c = 1 ∨ c = 2 then 0 else laneClass (laneOp w)

/-- The classes a lane's words add, step by step: none once it has faulted (R78, R228). -/
def laneClasses (x : LaneIn) (r : LaneRun) (step : Nat) (ws : List Lane) : List Nat :=
  match ws with
  | [] => []
  | w :: ws =>
    (if r.fault.isSome then 0 else laneWordClass x.privd r.sp w) :: laneClasses x (laneStep x r step w) (step + 1) ws

/-- A lane word that the lane executes counts as a lane step, a function of R117, EXP2 to GGELU, as a special-function result, and each
table entry it reads (R91, log 90). -/
def laneWordEvents (x : LaneIn) (r : LaneRun) (w : Lane) : List Nat :=
  let op := laneOp w
  21 :: (if 0x20 ≤ op ∧ op ≤ 0x2F then [22] else [])
    ++ (laneTableReads op (laneOperand x r (laneImm w) (laneSelA w)).1.bits).map fun _ => 23

/-- The stack slots that a lane word writes (R223, R224). -/
def laneWordSlots (r : LaneRun) (w : Lane) : List Nat :=
  let op := laneOp w
  if lanePushes op then [r.sp - lanePop w]
  else if op = 0x02 then [r.sp - 1, r.sp - 2]
  else if op = 0x03 then [r.sp - 1, r.sp - 2, r.sp - 3]
  else if 0x08 ≤ op ∧ op ≤ 0x0F then [r.sp - 1 - op % 8]
  else []

/-- What f says of each lane word that a lane executes, from step to step. -/
def laneSteps {α : Type} (f : LaneRun → Lane → List α) (x : LaneIn) (r : LaneRun) (step : Nat) (ws : List Lane) : List α :=
  match ws with
  | [] => []
  | w :: ws =>
    let q := laneStep x r step w
    if q.fault.isSome || q.bad.isSome then [] else f r w ++ laneSteps f x q (step + 1) ws

/-! XV and XVN (R228, R452, R454). -/

/-- The effective feed registers (R229). -/
def feedRegs (a : Arch) (f : Feeds) : List Nat :=
  [f.f0, f.f1, f.f2, f.f3].map fun b => b.toNat + (a.getX f.fix).toNat

/-- What a lane finds at the issue of an XV or XVN. -/
def State.laneIn (s : State) (f : Feeds) (l : Nat) : LaneIn :=
  let a := s.cur.arch
  { lane := l, privd := s.privd, seed := s.cur.seed, core := s.core s.curCore,
    feeds := (feedRegs a f).map fun r => (r, a.getV r l),
    consts := (List.range 8).map fun k =>
      let v := a.getS (BitVec.ofNat 6 (56 + k))
      ⟨v.bits.setWidth 32, v.lo⟩ }

/-- The stack of a lane as it stands. -/
def Arch.laneRun (a : Arch) (l : Nat) : LaneRun :=
  { slots := (List.range 8).map (a.getStk l), sp := a.getSp l, flags := fNone, fault := none, bad := none }

/-- A lane's words. -/
def laneWords (a : Arch) (w n l : Nat) : List Lane := (List.range n).map fun j => (a.getV (w + j) l).bits

/-- A lane through all the steps. -/
def State.runLane (s : State) (f : Feeds) (w n l : Nat) : LaneRun :=
  let a := s.cur.arch
  ((laneWords a w n l).zipIdx).foldl (fun r p => laneStep (s.laneIn f l) r p.2 p.1) (a.laneRun l)

/-- A committed lane: its stack, LFS 0 and vD (R223, R226). A top entry that is poisoned goes to vD with its mark: whether that copy reads
the slot, so that POISON is raised, R270 and R454 leave open; the model's choice (log 105). -/
def Arch.commitLane (a : Arch) (vd : Nat) (l : Nat) (r : LaneRun) : Arch :=
  let a := (r.slots.zipIdx).foldl (fun b p => b.setStk l p.2 p.1) a
  let a := (a.setSp l r.sp).setLfs l 0
  let a := a.setV vd l (if r.sp = 0 then {} else r.entry 0)
  a.raise r.flags

/-- POISON of lane code: a poisoned lane word of any step, then a poisoned operand; of several the one first in the order vector
register, scalar register, stack slot, table entry, and by number (R249, R454, log 19). -/
def lanePoison (a : Arch) (w n : Nat) (m : Mask) (runs : List (Nat × LaneRun)) : Option Trap :=
  match firstTrap ((List.range n).map fun j => poisonRef a (.reg (w + j)) m) with
  | some t => some t
  | none =>
    match firstPoison (runs.filterMap fun p => p.2.bad) with
    | none => none
    | some p =>
      let who : Mask := if p.1 = 1 then 0xFFFFFFFF else maskOf 32 ((runs.filter fun q => q.2.bad == some p).map (·.1))
      some (poisonTrap who p.1 p.2)

/-- The effect of XV and XVN with n steps (R452). -/
def laneCode (s : State) (h : Hdr) (n opnd : Nat) (vd vw : VOp) (f : Feeds) : Eff :=
  if vd.isTemp || vw.isTemp then .trap s.undef else
  groupWord s h fun m0 =>
    let m := m0 &&& s.curRun.resume.getD 0xFFFFFFFF
    let g := s.cur
    let a := g.arch
    let d := effReg a vd
    let w := effReg a vw
    let runs := (lanes m).map fun l => (l, s.runLane f w n l)
    guardTrap (firstTrap ([boundRange g.allot 0 d 1, boundRange g.allot 1 w n]
        ++ ((feedRegs a f).zipIdx.map fun p => boundRange g.allot (opnd + p.2) p.1 1)
        ++ [lanePoison a w n m runs]))
      (let s1 := s.modArch fun b => runs.foldl (fun c p =>
         match p.2.fault with
         | none => c.commitLane d p.1 p.2
         | some (cause, step) => c.setLfs p.1 (BitVec.ofNat 8 (16 * step + cause))) b
       let failed := runs.filterMap fun p => p.2.fault.map fun q => (p.1, q.2)
       match minBy id (failed.map (·.2)) with
       | none => .done s1
       | some st =>
         .trapAfter (s1.modCand fun c => { c with run := c.run.map fun r => { r with resume := some m } })
           { cause := .lanefault,
             einfo := BitVec.ofNat 64 (st * 2 ^ 32) ||| (maskOf 32 (failed.map (·.1))).setWidth 64 })

/-- XV (R451, R452). -/
def execXv (h : Hdr) (vd vw : VOp) (f : Feeds) (s : State) : Host.Outcome State Fault Refusal :=
  finish s (laneCode s h 1 2 vd vw f)

/-- XVN of n + 1 steps (R228, R451). -/
def execXvn (h : Hdr) (n : BitVec 4) (vd vw : VOp) (f : Feeds) (s : State) : Host.Outcome State Fault Refusal :=
  finish s (laneCode s h (n.toNat + 1) 3 vd vw f)

/-- XLSP and XLFS: a value of each executing lane into vD (R230, R450). -/
def laneRead (s : State) (h : Hdr) (vd : VOp) (f : Arch → Nat → Nat) : Eff :=
  if vd.isTemp then .trap s.undef else
  groupWord s h fun m =>
    let g := s.cur
    let a := g.arch
    let d := effReg a vd
    guardTrap (boundRange g.allot 0 d 1)
      (.done (s.modArch fun b => b.writeLanes (.reg d) ((lanes m).map fun l => (l, BitVec.ofNat 32 (f a l)))))

/-- XLSP (R450). -/
def execXlsp (h : Hdr) (vd : VOp) (s : State) : Host.Outcome State Fault Refusal :=
  finish s (laneRead s h vd fun a l => a.getSp l)

/-- XLFS (R450). -/
def execXlfs (h : Hdr) (vd : VOp) (s : State) : Host.Outcome State Fault Refusal :=
  finish s (laneRead s h vd fun a l => (a.getLfs l).toNat)

/-- XCLR: bit 0 of WHAT clears LFS, bit 1 the stack pointer (R450). -/
def execXclr (h : Hdr) (what : BitVec 2) (s : State) : Host.Outcome State Fault Refusal :=
  finish s (groupWord s h fun m =>
    if what = 0 then .trap s.undef else
    .done (s.modArch fun b => (lanes m).foldl (fun c l =>
      let c := if bit what 0 then c.setLfs l 0 else c
      if bit what 1 then c.setSp l 0 else c) b))

end Sys2Proof.Machine
end

