-- ==== Sys2Proof/Machine/Lease.lean ====
section
/-! DEFINITION. Lease contexts as the words of a group close batches, give leases up and end (R35, R194 to R196, R204), and the reports
that a group raises at its waits or ends its team with (R35, R161, R206, R220, R449). -/

namespace Sys2Proof.Machine

open Sys2Proof

/-! Batches and leases. -/

/-- The number after a batch number (R204). -/
def nextBatch (n : BitVec 32) : BitVec 32 := if n = 0xFFFFFFFF then 1 else n + 1

/-- Operations queued since the last close. -/
def Ctx.openOps (c : Ctx) : List MOp := c.ops.filter fun o => o.batch.isNone

/-- Operations of a partial batch that count for the open batch: once a batch is closed, they belong to that one (R204, R458). -/
def Ctx.openPart (c : Ctx) : Nat := if c.batches.isEmpty then c.part.count else 0

/-- An operation of a path is issued: the reports of older ones of the path take note (R151, R449). -/
def notePath (p : Path) (seq : Nat) (l : List Report) : List Report :=
  l.map fun r => if r.path = p then { r with younger := r.younger ++ [seq] } else r

/-- The open operations of context x of the current group's core become a batch (R204). -/
def State.closeBatch (s : State) (x : Nat) : State :=
  let seq := s.cur.seq
  let s1 := s.modCtx s.curCore x fun c =>
    { c with last := nextBatch c.last, batches := c.batches ++ [{ num := nextBatch c.last, close := seq }],
             ops := c.ops.map fun o => if o.batch.isNone then { o with batch := some seq } else o }
  s1.modCur fun g => { g with seq := seq + 1, reports := notePath .mx seq g.reports }

/-- A context that was given up is free once every batch of its group has committed or failed (R196). -/
def State.settleLease (s : State) (n x : Nat) : State :=
  let c := s.ctx n x
  match c.holder with
  | some k =>
    if c.freed && c.batches.isEmpty && c.ops.isEmpty then
      (s.modCtx n x fun c => { c with holder := none, freed := false }).modGroup n k fun g => { g with lease := none }
    else s
  | none => s

/-- Groups held at an MLEASE may be made current again (R49). -/
def State.wakeLeases (s : State) (n : Nat) : State :=
  (List.range 64).foldl (fun (u : State) k =>
    if (u.group n k).arch.cands.any fun c => c.hold == .mlease then
      u.modGroup n k fun g => { g with arch := { g.arch with
        cands := g.arch.cands.map fun c => if c.hold == .mlease then { c with hold := .none } else c } }
    else u) s

/-- The current group's lease ends: what is open is closed, and the context is free once its batches are done (R35, R196). -/
def State.freeLease (s : State) : State :=
  match s.cur.lease with
  | none => s
  | some x =>
    let n := s.curCore
    let c := s.ctx n x
    let s1 := if c.openOps.isEmpty && c.openPart = 0 then s else s.closeBatch x
    let s2 := s1.modCtx n x fun c => { c with freed := true }
    (s2.wakeLeases n).settleLease n x

/-! Reports. -/

/-- The trap that a report raises (R161, R206, R220, R247). -/
def Report.trap (r : Report) : Trap :=
  { cause := r.cause, einfo := r.einfo, space := spaceCode r.space, engine := true, ticket := r.ticket }

/-- The order of the paths at a wait (R449). -/
def pathRank (p : Path) : Nat :=
  match p with
  | .cp => 0
  | .sg => 1
  | _ => 2

/-- The first of some reports (R449). -/
def firstReport (l : List Report) : Option Report := (sortBy (fun r => pathRank r.path * 2 ^ 64 + r.seq) l).head?

/-- A group in DONE with a report pending ends its team (R35). -/
def State.reportEnd (s : State) (n k : Nat) : State :=
  let g := s.group n k
  match g.st, firstReport g.reports with
  | .done, some r => s.endTeam g.team .trap (ecauseOf r.trap false) (g.endPc.setWidth 64) r.einfo
  | _, _ => s

/-! Completion of team barriers (R342). -/

/-- The release half of an arrival at a scope; GROUP scope orders execution only (R174). -/
def State.arriveFence (s : State) (sc : Scope) : State :=
  if sc = .group then s else (s.pushAccess (s.fenceEntry .rel sc false)).settleQueue

/-- The acquire half after a barrier (R174). -/
def State.acquireFence (s : State) (sc : Scope) : State :=
  if sc = .group then s else (s.pushAccess (s.fenceEntry .acq sc false)).settleQueue

/-- The release half of an arrival has completed: its fence is done, and no older access is left but stores that rest in the L1 as the
fence's scope allows (R171, R342). -/
def Group.released (g : Group) (seq : Nat) : Bool :=
  g.aq.all fun x => seq < x.seq || x.done || (x.isLoad && x.read) || (x.kind == .store && x.pieces.all fun p => p.done || p.inL1)

/-- Candidates of a group that wait for a barrier go on, with the acquire that follows (R174, R342, R352). -/
def State.releaseHeld (s : State) (n k : Nat) (sel : Hold → Option Scope) : State :=
  (s.group n k).arch.cands.foldl (fun (u : State) c =>
    match sel c.hold with
    | none => u
    | some sc => ((u.at_ n k c.low).modCand fun d => { d with hold := .none }).acquireFence sc) s

/-- Team barrier b completes (R342). -/
def State.completeTeam (s : State) (t b : Nat) : Option State :=
  let tm := s.team t
  let r := Store.get tm.barriers b
  let gs := s.groupsOf t
  let ready := r.pending.all fun p => match gs[p.1]? with
    | some g => g.2.2.released p.2
    | none => true
  if r.arrived = 0 || !s.teamArrived t b || !ready then none
  else
    let s1 := s.modTeam t fun v => { v with barriers := Store.put v.barriers b { r with arrived := 0, pending := [] } }
    let s2 := (s.heldGroups t).foldl (fun (u : State) g => u.releaseHeld g.1 g.2.1 fun h => match h with
      | .barrier i sc => if i = b then some (sc.getD .group) else none
      | _ => none) s1
    some (s2.wakeCore tm.core)

/-! The end of a group. -/

/-- A group leaves the member sets of its team's barriers (R36). -/
def State.leaveBarriers (s : State) (t j : Nat) : State :=
  s.modTeam t fun v => { v with barriers := (List.range 16).foldl (fun m b =>
    let r := Store.get m b
    Store.put m b { r with left := r.left ||| onehot 32 j, arrived := r.arrived &&& ~~~(onehot 32 j),
                           pending := r.pending.filter fun p => p.1 != j }) v.barriers }

/-- Every team barrier that now waits for nothing completes at once (R36). -/
def State.completeBarriers (s : State) (t : Nat) : State :=
  { (List.range 16).foldl (fun (u : State) b => (u.completeTeam t b).getD u) s with agent := s.agent }

/-- The current group, whose last lane has exited, enters DONE (R18, R33, R35, R36, R353). -/
def State.endGroup (s : State) : State :=
  let n := s.curCore
  let k := s.curSlot
  let s1 := s.freeLease
  let s2 := s1.releasePort n k s.curLow
  let g := s2.cur
  let s3 := s2.setCur { g with st := .done, handler := none, arch := { g.arch with cands := [] } }
  ((s3.leaveBarriers g.team g.index).completeBarriers g.team).reportEnd n k

/-- Whether every lane of the current group has exited. -/
def State.allExited (s : State) : Bool := s.cur.arch.liveSlices == 0

end Sys2Proof.Machine
end

