-- ==== Sys2Proof/Machine/Branch.lean ====
section
/-! DEFINITION. Branches, calls, returns and ends (R53 to R58, R63 to R65, R73, R346 to R353, R390), with the control stacks and their
spill areas. -/

namespace Sys2Proof.Machine

open Sys2Proof

/-! The spill areas (R57, R65, R143). -/

/-- The address of a group's 32 KB private area (R143). -/
def State.privateArea (s : State) (g : Group) : Nat :=
  let t := s.team g.team
  let r := (s.launch t.launch).info
  r.pbase.toNat + 0x8000 * (t.priv.getD 0 * ceilDiv r.threads 32 + g.index)

/-- The addresses of entry n of a slice's return and divergence spill (R65). -/
def State.retSpillAt (s : State) (sl n : Nat) : Nat := s.privateArea s.cur + 0x1000 * sl + 8 * n
def State.divSpillAt (s : State) (sl n : Nat) : Nat := s.privateArea s.cur + 0x1000 * sl + 0x800 + 16 * n

/-- The places of n bytes of a control-stack access, a spill (acc a store) or a fill (a load), with their NC bits; the first byte that
fails its checks traps (R57, R155). -/
def stackPlaces (s : State) (acc : Acc) (va n : Nat) : Except Trap (List (Nat × Bool)) :=
  match n with
  | 0 => .ok []
  | n + 1 =>
    match stackPlaces s acc va n with
    | .error e => .error e
    | .ok ps =>
      let a := (va + n) % 2 ^ 64
      if s.inStream then .error (memTrap .memperm .stack 0 .g a)
      else if 2 ^ 57 ≤ a then .error (memTrap .memxlate .stack 0 .g a)
      else match translate s s.curCore s.curPart s.privd acc a with
        | .error c => .error (memTrap c .stack 0 .g a)
        | .ok r =>
          match valveFault s .g acc 0 (BitVec.ofNat 64 a) 1 with
          | some t => .error { memTrap .valve .stack 0 .g a with conflict := t.conflict }
          | none => .ok (ps ++ [(r.1, r.2.1)])

/-- Whether a control-stack access of n bytes may be made as the slots of its links stand, with its walks; what the L1 serves needs no
link, and a full one makes room first (R139, R287). -/
def State.stackOpen (s : State) (acc : Acc) (va n : Nat) : Bool :=
  s.walksOpen s.curCore s.curPart (blocksOf va n) && (match stackPlaces s acc va n with
    | .error _ => true
    | .ok ps => s.travels .g ((ps.filter fun p => !s.served .g p.2 .group p.1 1 (acc == .store)).map (·.1))
        && ps.all fun p => p.2 || s.l1Ready s.curCore p.1)

/-- A spill (R57). -/
def State.spillWrite (s : State) (va : Nat) (bs : List Byte) : Except Trap State :=
  match stackPlaces s .store va bs.length with
  | .error t => .error t
  | .ok ps => .ok ((List.zip ps bs).foldl (fun (u : State) p => u.writeAt .g p.1.2 .group p.1.1 [p.2] false) s)

/-- A fill (R57). -/
def State.spillRead (s : State) (va n : Nat) : Except Trap (State × List Byte) :=
  match stackPlaces s .load va n with
  | .error t => .error t
  | .ok ps => .ok (ps.foldl (fun (u : State × List Byte) p =>
      let r := u.1.readAt .g p.2 .group p.1 1
      (r.1, u.2 ++ r.2.1)) (s, []))

/-- The image of a divergence entry (R55). -/
def DivEntry.image (e : DivEntry) : BitVec 128 :=
  e.prior ++ BitVec.ofBool e.phase ++ (0 : BitVec 2) ++ e.join ++ e.taken ++ (0 : BitVec 3) ++ e.target

/-- The entry of an image; reserved bits are ignored. -/
def divOfImage (v : BitVec 128) : DivEntry :=
  { prior := v.extractLsb' 124 4, phase := bit v 123, join := v.extractLsb' 64 57, taken := v.extractLsb' 60 4,
    target := v.extractLsb' 0 57 }

/-- Hardware entries of the divergence and return stacks (R55, R65), and entries of their spill areas. -/
def divDepth : Nat := 16
def retDepth : Nat := 8
def divArea : Nat := 128
def retArea : Nat := 256

/-! Slices of the current candidate. -/

def State.slice (s : State) (sl : Nat) : Slice := s.cur.arch.slice sl
def State.modSlice (s : State) (sl : Nat) (f : Slice → Slice) : State := s.modArch fun a => a.modSlice sl f

/-- The slices of the candidate that have an active lane, each with its lanes of m and its active lanes. -/
def State.slicePlan (s : State) (m : Mask) : List (Nat × BitVec 4 × BitVec 4) :=
  ((bitsOf s.curCand.slices).map fun sl =>
    let act := (s.slice sl).active
    (sl, sliceBits m sl &&& act, act)).filter fun p => p.2.2 != 0

/-- Whether a slice is divided by its guard (R56). -/
def divides (p : Nat × BitVec 4 × BitVec 4) : Bool := p.2.1 != 0 && p.2.1 != p.2.2

/-- A push on a slice's divergence stack; the bottom entry of a full one is spilled (R57). -/
def State.pushDiv (s : State) (sl : Nat) (e : DivEntry) : Except Trap State :=
  let v := s.slice sl
  if v.div.length < divDepth then .ok (s.modSlice sl fun w => { w with div := e :: w.div })
  else if divArea ≤ v.divSpill then .error (memTrap .memperm .stack 0 .g (s.divSpillAt sl v.divSpill))
  else match s.spillWrite (s.divSpillAt sl v.divSpill) (bytesOf ((v.div.getLast?).getD default).image 16) with
    | .error t => .error t
    | .ok u => .ok (u.modSlice sl fun w => { w with div := e :: w.div.dropLast, divSpill := w.divSpill + 1 })

/-- A push on a slice's return stack (R65). -/
def State.pushRet (s : State) (sl : Nat) (a : Addr) : Except Trap State :=
  let v := s.slice sl
  if v.ret.length < retDepth then .ok (s.modSlice sl fun w => { w with ret := a :: w.ret })
  else if retArea ≤ v.retSpill then .error (memTrap .memperm .stack 0 .g (s.retSpillAt sl v.retSpill))
  else match s.spillWrite (s.retSpillAt sl v.retSpill) (bytesOf (((v.ret.getLast?).getD 0).setWidth 64) 8) with
    | .error t => .error t
    | .ok u => .ok (u.modSlice sl fun w => { w with ret := a :: w.ret.dropLast, retSpill := w.retSpill + 1 })

/-! Branches (R53, R54, R56, R58, R347, R349). -/

def pcwrapTrap (v : Int) : Trap := { cause := .pcwrap, einfo := (BitVec.ofInt 57 v).setWidth 64 }

/-- PCWRAP of an address outside the code space (R53). -/
def addrCheck (v : Int) : Option Trap := checkThat (decide (0 ≤ v) && decide (v < 2 ^ 57)) (pcwrapTrap v)

/-- The address at a word offset from the word being issued (R53). -/
def State.relative {w : Nat} (s : State) (off : BitVec w) : Int := (s.pc.toNat : Int) + 8 * off.toInt

/-- One slice resolves a branch: t are the lanes that take it, act its active lanes; a call pushes its return address (R56, R63). -/
def branchSlice (target join : Addr) (ret : Option Addr) (acc : Except Trap State) (p : Nat × BitVec 4 × BitVec 4) :
    Except Trap State :=
  match acc with
  | .error t => .error t
  | .ok u =>
    let sl := p.1
    let taken := p.2.1
    if taken = 0 then .ok u
    else
      let u1 : Except Trap State :=
        if taken = p.2.2 then .ok (u.modSlice sl fun w => { w with pc := target, moved := true })
        else match u.pushDiv sl { prior := p.2.2, phase := false, join := join, taken := taken, target := target } with
          | .error t => .error t
          | .ok v => .ok (v.modSlice sl fun w => { w with active := w.active &&& ~~~taken })
      match u1, ret with
      | .ok v, some a => v.pushRet sl a
      | r, _ => r

/-- The entries that a branch of some slices spills, as addresses and bytes. -/
def State.branchSpills (s : State) (call : Bool) (plan : List (Nat × BitVec 4 × BitVec 4)) : List (Nat × Nat) :=
  plan.flatMap fun p =>
    let v := s.slice p.1
    (if divides p && decide (divDepth ≤ v.div.length) then [(s.divSpillAt p.1 v.divSpill, 16)] else [])
      ++ (if call && p.2.1 != 0 && decide (retDepth ≤ v.ret.length) then [(s.retSpillAt p.1 v.retSpill, 8)] else [])

/-- The effect of a branch that passed its checks. -/
def branchEff (s : State) (m : Mask) (target join : Addr) (ret : Option Addr) : Eff :=
  let plan := s.slicePlan m
  let go : Eff := match plan.foldl (branchSlice target join ret) (.ok s) with
    | .error t => .trap t
    | .ok u => .done u
  match s.branchSpills ret.isSome plan with
  | [] => go
  | l => if l.all fun e => s.stackOpen .store e.1 e.2 then afterResolved s go else .retry

/-- A branch with JOIN 0 may not divide a slice (R54). -/
def joinCheck (s : State) (m : Mask) (join : BitVec 16) : Option Trap :=
  if join = 0 ∧ (s.slicePlan m).any divides then some s.undef else none

/-- BRA (R346, R347). -/
def execBra (h : Hdr) (off : BitVec 26) (join : BitVec 16) (s : State) : Host.Outcome State Fault Refusal :=
  finish s (anyWord s h fun m => whenAny s m
    (guardTrap (firstTrap [joinCheck s m join, addrCheck (s.relative off), addrCheck (s.relative join)])
      (branchEff s m (BitVec.ofInt 57 (s.relative off)) (BitVec.ofInt 57 (s.relative join)) none)))

/-- The checks on a code address taken from a register or a linkage entry (R349, R351). -/
def codeChecks (v : Word) : List (Option Trap) :=
  [checkThat (v.extractLsb' 0 3 == 0) (memTrap .align .load 0 .g v.toNat),
   checkThat (v.extractLsb' 57 7 == 0) { cause := .pcwrap, einfo := (v.setWidth 57).setWidth 64 }]

/-- BRX (R349). -/
def execBrx (h : Hdr) (sr : BitVec 6) (join : BitVec 16) (s : State) : Host.Outcome State Fault Refusal :=
  let a := s.cur.arch
  let v := a.valS sr
  finish s (anyWord s h fun m => whenAny s m
    (guardTrap (firstTrap ([joinCheck s m join, poisonS a sr] ++ codeChecks v ++ [addrCheck (s.relative join)]))
      (branchEff s m (v.setWidth 57) (BitVec.ofInt 57 (s.relative join)) none)))

/-- The return address of a call: the word after its trailer (R350). -/
def State.returnAt (s : State) : Int := (s.pc.toNat : Int) + 16

/-- A call to an address (R63). -/
def callEff (s : State) (m : Mask) (target : Addr) : Eff :=
  branchEff s m target (BitVec.ofInt 57 s.returnAt) (some (BitVec.ofInt 57 s.returnAt))

/-- CALL (R350). A return address of 2^57 raises PCWRAP at the call, in a CALLX too, even where the call divides no slice: the rules name
targets, joins and counters that fall through; the model's choice (log 96). -/
def execCall (h : Hdr) (off : BitVec 26) (s : State) : Host.Outcome State Fault Refusal :=
  finish s (anyWord s h fun m => whenAny s m
    (guardTrap (firstTrap [addrCheck (s.relative off), addrCheck s.returnAt])
      (callEff s m (BitVec.ofInt 57 (s.relative off)))))

/-- CALLX: the word has issued and counts, its linkage entry is asked for, and the call is made when it returns (R83, R351). -/
def execCallx (h : Hdr) (sr : BitVec 6) (s : State) : Host.Outcome State Fault Refusal :=
  let a := s.cur.arch
  let v := a.valS sr
  finish s (anyWord s h fun m => whenAny s m
    (guardTrap (firstTrap [poisonS a sr,
        checkThat (v.extractLsb' 57 7 == 0) (memTrap .memxlate .load 0 .g v.toNat),
        checkThat (v.extractLsb' 0 3 == 0) (memTrap .align .load 0 .g v.toNat),
        addrCheck s.returnAt])
      (.final (s.countWord.holdCand (.linkage m s.cur.seq v)))))

/-- Whether a linkage entry may be read as the slots of its links stand, with its walk and its acquire; a full L1 makes room first (R139,
R287). -/
def State.linkageOpen (s : State) (a : Word) : Bool :=
  s.walksOpen s.curCore s.curPart [a.toNat] && s.scopeOpen .dev && (match translate s s.curCore s.curPart s.privd .load a.toNat with
    | .error _ => true
    | .ok t => s.travels .g [t.1] && (t.2.1 || s.l1Ready s.curCore t.1))

/-- A CALLX with its entry's address: the read at DEVICE scope with its acquire, the checks on the entry, the call (R351). -/
def linkageEff (s : State) (m : Mask) (a : Word) : Eff :=
  if !s.linkageOpen a then .retry else
  match translate s s.curCore s.curPart s.privd .load a.toNat with
  | .error c => .trap (memTrap c .load 0 .g a.toNat)
  | .ok t =>
    guardTrap (valveFault s .g .load 0 a 8)
      (let r := ((s.countWalk s.curCore s.curPart a.toNat).cacheXlate s.curCore t.2.2).readAt .g t.2.1 .dev t.1 8
       let v : Word := ofBytes 64 r.2.1
       guardTrap (firstTrap ([checkThat (!r.2.2) (poisonTrap 0xFFFFFFFF 5 0)] ++ codeChecks v))
         (callEff (r.1.scopeAcquire .dev) m (v.setWidth 57)))

/-- The location of a linkage entry; its place, where its translation gives one, tells the older stores through another mapping of its page
(R176, R351). -/
def State.linkagePiece (s : State) (a : Word) : Piece :=
  { addr := a, n := 8,
    place := match translate s s.curCore s.curPart s.privd .load a.toNat with
      | .error _ => 0
      | .ok t => t.1 }

/-- LINKAGE_RETURN: the entry that a CALLX of the group reads returns, after the group's older accesses; a CALLX that now traps is not
counted (R83, R351). -/
def execLinkageReturn (core slot : Nat) (s : State) : Host.Outcome State Fault Refusal :=
  let g := (s.at_ core slot 0).cur
  event s ((g.arch.cands.findSome? fun c => match c.hold with
      | .linkage m q a => some (c, m, q, a)
      | _ => none).bind fun (c, m, q, a) =>
    let s1 := s.at_ core slot ((bitsOf c.slices).headD 0)
    let older := g.aq.filter fun x => x.seq < q && !x.done
    let free := older.all fun x =>
      !x.isFence && !((x.who &&& c.slices != 0) && x.acquires) && !x.meets .g [s1.linkagePiece a]
    if g.unresolved || !free then none
    else
      let s2 := (s1.modCand fun d => { d with hold := .none }).uncountWord
      match linkageEff s2 m a with
      | .retry => none
      | e => some (settleEff s2 e))

/-! Returns and ends (R64, R73, R353, R390). -/

/-- Lanes of slices exit (R73). -/
def State.exitLanes (s : State) (m : Mask) : State :=
  (s.slicePlan m).foldl (fun (u : State) p => u.modSlice p.1 fun w =>
    { w with exited := w.exited ||| p.2.1, active := w.active &&& ~~~p.2.1 }) s

/-- A word after which lanes have exited: the group or the stream may have ended, once its older memory words have passed their checks
(R250, R274). END is a switch point however it ends (R48). -/
def exitEff (s s1 : State) (m : Mask) (switch : Bool) : Eff :=
  match s.agent with
  | .stream k => if m = 0 then .done s1 else afterResolved s (.final (s1.retire.modStream k fun v => { v with state := 0, hold := .none }))
  | .group _ _ _ =>
    if s1.allExited then afterResolved s (.final ((s1.modCur fun g => { g with endPc := s.pc }).retire.endGroup.switchPoint))
    else if switch then .switch s1 .none else .done s1

/-- END (R353). -/
def execEnd (h : Hdr) (s : State) : Host.Outcome State Fault Refusal :=
  finish s (anyWord s h fun m => exitEff s (s.exitLanes m) m true)

/-- The newest entry of a slice's return spill, read back (R65). -/
def State.readRet (s : State) (sl : Nat) : Except Trap (State × Addr) :=
  match s.spillRead (s.retSpillAt sl ((s.slice sl).retSpill - 1)) 8 with
  | .error t => .error t
  | .ok r => .ok (r.1, (ofBytes 64 r.2 : Word).setWidth 57)

/-- A return that has emptied the hardware stack of a slice reads the newest spilled entry back: its fault is the RET's, and the slice's
next run waits until the entry has come (R57, R65, R390). -/
def State.refillRet (s : State) (sl : Nat) : Except Trap State :=
  let v := s.slice sl
  if !v.ret.isEmpty || v.retSpill = 0 then .ok s
  else match s.readRet sl with
    | .error t => .error t
    | .ok r => .ok (r.1.modSlice sl fun w => { w with retIn := some r.2 })

/-- One slice returns: its lanes with a return address go there, those of a slice with none exit (R64). -/
def retSlice (acc : Except Trap (State × Mask)) (p : Nat × BitVec 4 × BitVec 4) : Except Trap (State × Mask) :=
  match acc with
  | .error t => .error t
  | .ok (u, gone) =>
    if p.2.1 = 0 then .ok (u, gone) else
    let v := u.slice p.1
    let went (r : Except Trap State) : Except Trap (State × Mask) := match r with
      | .error t => .error t
      | .ok u1 => .ok (u1, gone)
    match v.ret with
    | a :: r => went ((u.modSlice p.1 fun w => { w with pc := a, moved := true, ret := r }).refillRet p.1)
    | [] =>
      if v.retSpill = 0 then .ok (u, gone ||| (p.2.1.setWidth 32 <<< (4 * p.1)))
      else match u.readRet p.1 with
        | .error t => .error t
        | .ok r => went ((r.1.modSlice p.1 fun w => { w with pc := r.2, moved := true, retSpill := w.retSpill - 1 }).refillRet p.1)

/-- Whether the entries that a return of a slice reads back may be read as the slots of their links stand (R287). -/
def State.fillOpen (s : State) (p : Nat × BitVec 4 × BitVec 4) : Bool :=
  let v := s.slice p.1
  let entry (i : Nat) : Bool := decide (v.retSpill ≤ i) || s.stackOpen .load (s.retSpillAt p.1 (v.retSpill - 1 - i)) 8
  p.2.1 == 0 || decide (2 ≤ v.ret.length) || (entry 0 && (!v.ret.isEmpty || entry 1))

/-- RET (R64, R390). With DETMODE 1 a RET that acts as END is a switch point when it ends the group, and none while other lanes live: R48
names END and the exit of the last lane, not such a RET; the model's choice (log 95). -/
def execRet (h : Hdr) (s : State) : Host.Outcome State Fault Refusal :=
  finish s (anyWord s h fun m =>
    let plan := s.slicePlan m
    if plan.any divides then .trap s.undef
    else if !plan.all s.fillOpen then .retry
    else match plan.foldl retSlice (.ok (s, 0)) with
      | .error t => .trap t
      | .ok (u, gone) => if gone = 0 then .done u else exitEff s (u.exitLanes gone) gone false)

/-! Breakpoints (R71, R348). -/

/-- BRK: it fires in each slice with an executing lane. -/
def execBrk (h : Hdr) (s : State) : Host.Outcome State Fault Refusal :=
  finish s (groupWord s h fun m => whenAny s m
    (.trap { cause := .brkpt, einfo := (maskOf 8 ((List.range 8).filter fun sl => sliceBits m sl != 0) : BitVec 8).setWidth 64 }))

end Sys2Proof.Machine
end

