-- ==== Sys2Proof/Machine/Loops.lean ====
section
/-! DEFINITION. Hardware loops and what a slice does at a run start: reconvergence, loop ends, LEXIT (R56, R66, R67, R363 to R365), and
the words that join candidates (R61, R62, R368, R389). -/

namespace Sys2Proof.Machine

open Sys2Proof

/-! LOOPMAX (R67). -/

def loopTrap (id : BitVec 6) (kind trips : Nat) : Trap :=
  { cause := .loopmax, einfo := BitVec.ofNat 64 (trips * 2 ^ 8 + kind * 2 ^ 6 + id.toNat) }

/-- Open loops a slice may have (R66). -/
def loopDepth : Nat := 8

/-! Run-start tests (R56, R66). -/

/-- Entries on a slice's divergence stack, spilled ones included. -/
def Slice.depth (v : Slice) : Nat := v.div.length + v.divSpill

/-- Lanes parked in any open loop of a slice. -/
def Slice.dormant (v : Slice) : BitVec 4 := v.loops.foldl (fun m l => m ||| l.dormant) 0

/-- The innermost loop closes (R66). -/
def Slice.closeLoop (v : Slice) : Slice :=
  match v.loops with
  | [] => v
  | l :: r => { v with active := (v.active ||| l.dormant) &&& ~~~v.exited, loops := r, pc := l.stop }

/-- The top divergence entry goes to its target path, or is popped (R56). -/
def Slice.unwind (v : Slice) : Slice :=
  match v.div with
  | [] => v
  | e :: r =>
    let m := e.taken &&& ~~~v.exited
    if !e.phase && m != 0 then { v with active := m, pc := e.target, div := { e with phase := true } :: r }
    else { v with active := e.prior &&& ~~~v.exited &&& ~~~v.dormant, pc := e.join, div := r }

/-- The test at the end of the innermost loop; p are the slice's bits of its exit predicate (R66). -/
def Slice.loopEnd (v : Slice) (p : BitVec 4) : Except Trap Slice :=
  match v.loops with
  | [] => .ok v
  | l :: r =>
    let n := l.trips + 1
    if l.counted then
      .ok (if n < l.limit then { v with pc := l.start, loops := { l with trips := n } :: r }
        else Slice.closeLoop { v with loops := { l with trips := n } :: r })
    else
      let gone := v.active &&& p
      let rest := v.active &&& ~~~p
      if rest = 0 then .ok (Slice.closeLoop { v with active := 0, loops := { l with trips := n, dormant := l.dormant ||| gone } :: r })
      else if n = l.limit then .error (loopTrap l.id 0 n)
      else .ok { v with active := rest, pc := l.start, loops := { l with trips := n, dormant := l.dormant ||| gone } :: r }

/-- Whether a stack of a slice waits for an entry of its spill area (R57, R65). -/
def Slice.needsFill (v : Slice) : Bool := (v.div.isEmpty && v.divSpill != 0) || (v.ret.isEmpty && v.retSpill != 0)

/-- The run-start tests of a slice, repeated until none applies: an entry pushed after the innermost loop opened comes before it. The
trap of a loop end that finds its maximum is returned with the state before that step. `pred` gives the slice's bits of a predicate. A
slice left with no active lane inside a loop newer than its top entry closes that loop and wakes its dormant lanes before R56 applies:
R73 says so of LEXIT, and for END, or a RET that acts as END, it is the model's choice (log 94). -/
def settleSlice (fuel : Nat) (pred : BitVec 4 → BitVec 4) (v : Slice) : Slice × Option Trap :=
  match fuel with
  | 0 => (v, none)
  | fuel + 1 =>
    if v.div.isEmpty && v.divSpill != 0 then (v, none)
    else
      let live := v.active != 0
      let join := (v.div.head?).map (·.join)
      match v.loops with
      | [] =>
        if join.isSome && (!live || join == some v.pc) then settleSlice fuel pred v.unwind else (v, none)
      | l :: _ =>
        let inner := join.isSome && decide (l.depth < v.depth)
        let met := join == some v.pc && (inner || v.pc != l.stop)
        if (inner && !live) || (live && met) then settleSlice fuel pred v.unwind
        else if !live then settleSlice fuel pred v.closeLoop
        else if v.pc = l.stop then
          match v.loopEnd (pred l.pk) with
          | .error t => (v, some t)
          | .ok w => settleSlice fuel pred w
        else (v, none)

/-- More run-start steps than any slice can make: a loop of an empty body makes at most 65,535. -/
def settleFuel : Nat := 1048576

/-! LOOP and LEXIT. -/

/-- LOOP opens an entry in every slice of the candidate that has an active lane, or skips a body of count 0 (R13, R66, R365). -/
def openLoops (s : State) (l : LoopEntry) (skip : Bool) : State :=
  (s.slicePlan 0xFFFFFFFF).foldl (fun (u : State) p => u.modSlice p.1 fun v =>
    if skip then { v with pc := l.stop, moved := true }
    else { v with pc := l.start, moved := true, loops := { l with depth := v.depth } :: v.loops }) s

/-- The addresses that a LOOP makes: with a count the counter goes to the body start, which may be 2^57, without one to the end (R66,
R74). An end address outside the code space raises PCWRAP at the LOOP, with a count that is not zero too: the checks of R365 and the targets
of R53 do not name it; the model's choice (log 111). -/
def State.loopAddrs (s : State) (n : Nat) (stop : BitVec 15) : Option Trap :=
  firstTrap [if n = 0 then none else addrCheck s.returnAt, addrCheck (s.relative stop)]

/-- The effect of a LOOP whose entry is l and whose count is n. Its checks come in the order in which R365 lists them (log 138). -/
def loopEff (s : State) (l : LoopEntry) (n max : Nat) (stop : BitVec 15) : Eff :=
  let full := (s.slicePlan 0xFFFFFFFF).any fun p => decide (loopDepth ≤ (s.slice p.1).loops.length)
  guardTrap (firstTrap [if full ∧ n ≠ 0 then some (loopTrap l.id 2 0) else none,
      if max < n then some (loopTrap l.id 1 0) else none, s.loopAddrs n stop])
    (.done (openLoops s { l with start := BitVec.ofInt 57 s.returnAt, stop := BitVec.ofInt 57 (s.relative stop), limit := n } (n = 0)))

/-- An entry without its addresses. -/
def loopEntry (id : BitVec 6) (counted : Bool) (pk : BitVec 4) : LoopEntry :=
  { id := id, counted := counted, pk := pk, start := 0, stop := 0, limit := 0, trips := 0, dormant := 0, depth := 0 }

/-- LOOP.c (R364, R365). -/
def execLoopC (h : Hdr) (id cnt : BitVec 6) (max : BitVec 16) (stop : BitVec 15) (s : State) : Host.Outcome State Fault Refusal :=
  let a := s.cur.arch
  finish s (plainWord s h (guardTrap (poisonS a cnt)
    (loopEff s (loopEntry id true 0) (a.valS cnt).toNat max.toNat stop)))

/-- LOOP.w: it opens without testing, and its first trip runs (R364, R365). -/
def execLoopW (h : Hdr) (id : BitVec 6) (pk : BitVec 4) (max : BitVec 16) (stop : BitVec 15) (s : State) :
    Host.Outcome State Fault Refusal :=
  finish s (plainWord s h (loopEff s (loopEntry id false pk) max.toNat max.toNat stop))

/-- LEXIT: the executing lanes go dormant in the innermost loop of their slice, which must be the one named (R67, R363). -/
def execLexit (h : Hdr) (id : BitVec 6) (s : State) : Host.Outcome State Fault Refusal :=
  finish s (anyWord s h fun m =>
    let plan := (s.slicePlan m).filter fun p => p.2.1 != 0
    if plan.all fun p => (((s.slice p.1).loops.head?).map (·.id)) == some id then
      .done (plan.foldl (fun (u : State) p => u.modSlice p.1 fun v =>
        { v with active := v.active &&& ~~~p.2.1, loops := modNth v.loops 0 fun l => { l with dormant := l.dormant ||| p.2.1 } }) s)
    else .trap s.undef)

/-! Joining candidates (R61, R62). -/

/-- REGANG: it issues once its candidate holds every named slice that has a lane not exited (R61, R389). -/
def execRegang (h : Hdr) (mask : BitVec 8) (s : State) : Host.Outcome State Fault Refusal :=
  finish s (groupWord s h fun _ => plainWord s h
    (if mask &&& s.cur.arch.liveSlices &&& ~~~s.curCand.slices = 0 then .done s else .stall (.regang mask)))

/-- MERGE: it steers which candidate a port chooses, and issues as a NOP does (R62, R368). -/
def execMerge (h : Hdr) (_mask : BitVec 8) (s : State) : Host.Outcome State Fault Refusal :=
  finish s (groupWord s h fun _ => plainWord s h (.done s))

end Sys2Proof.Machine
end

