-- ==== Sys2Proof/Machine/Runs.lean ====
section
/-! DEFINITION. Runs: their fetch and its checks (R8 to R10, R308), what makes a candidate ready (R34, R152, R311), which one a port
starts (R37, R47, R62), what happens at a run start (R56 to R60, R66, R265) and at a trailer (R305, R310, R311, R455). -/

namespace Sys2Proof.Machine

open Sys2Proof

/-! The trailer (R310, R311, R392, R455). -/

/-- Codes of the registers in `Arch.exports`: vector register n, scalar register n. -/
def exportVec (n : Nat) : Nat := n
def exportScal (n : Nat) : Nat := 256 + n

/-- The export code of a load destination's key; none for a temporary. -/
def codeOfKey (k : Nat) : Option Nat :=
  if k < 16384 then some (exportVec (k / 32)) else if 32768 ≤ k then some (exportScal (k - 32768)) else none

/-- Vector registers that a queued engine operation will write at its batch's commit. -/
def MOp.regs (o : MOp) : List Nat :=
  match o.kind with
  | .toVec base _ => (List.range 8).map (base + ·)
  | .ftsolv base _ _ | .ftldet base => [base]
  | _ => []

/-- Operations queued in the current group's context. -/
def State.myOps (s : State) : List MOp :=
  match s.cur.lease with
  | some x => (s.ctx s.curCore x).ops
  | none => []

/-- The writes still to come to registers of the group, by the number of what writes them (R311). -/
def State.pendingWrites (s : State) : List (Nat × Nat) :=
  (s.cur.arch.pend.filterMap fun p => (codeOfKey p.2).map fun c => (p.1, c))
  ++ (s.myOps.flatMap fun o => o.regs.map fun r => (o.seq, exportVec r))

/-- The code of an export field; predicates, and vector registers at or above ALLOT, are never pending (R311). -/
def exportCode (allot : Nat) (e : Export) : Option Nat :=
  match e with
  | .vec n => if n.toNat < allot then some (exportVec n.toNat) else none
  | .scal n => some (exportScal n.toNat)
  | .pred _ => none

/-- Writes still to come of a run's own words to registers that it exports: they are pending from the issue of the word that writes
them, whatever else the group issues to the register. -/
def State.exportedAs (s : State) (r : Run) (es : List Export) : List (Nat × Nat) :=
  let codes := es.filterMap (exportCode s.cur.allot)
  s.pendingWrites.filter fun p => r.own.contains p.1 && codes.contains p.2

/-- Such writes of a run under way, by its trailer. -/
def State.exportedBy (s : State) (r : Run) : List (Nat × Nat) :=
  match decode r.trailer with
  | .ok (.runend _ es) => s.exportedAs r es
  | _ => []

/-- The exports that are still pending, with those of a run that ends or is given up (R311). -/
def State.keepExports (s : State) (new : List (Nat × Nat)) : State :=
  let all := s.pendingWrites
  s.modArch fun a => { a with exports := (a.exports.filter fun p => all.contains p) ++ new }

/-- The runs of the group that have started and not ended, but for the current candidate's own: those of other candidates, and one that
a handler interrupts. -/
def State.otherRuns (s : State) : List Run :=
  ((s.cur.arch.cands.filter fun c => c.started && c.slices != s.curCand.slices).filterMap (·.run))
  ++ ((s.cur.handler.bind (·.run)).toList)

/-- Registers exported and not yet written (R311). -/
def State.stillPending (s : State) : List Nat :=
  let all := s.pendingWrites
  ((s.cur.arch.exports.filter fun p => all.contains p) ++ s.otherRuns.flatMap s.exportedBy).map (·.2)

/-- The end of the run of the current candidate (R305, R310, R311, R455). -/
def State.endRun (s : State) (cls : BitVec 2) (es : List Export) : State :=
  let c := s.curCand
  let r := s.curRun
  let g := s.cur
  let all := s.pendingWrites
  let d := (s.cluster s.curTeam.cluster).decision
  let parks := c.yielding && (d == some 1 || d == some 3)
  let temp (k : Nat) : Bool := 16384 ≤ k && k < 32768 && bit c.slices ((k - 16384) % 32 / 4)
  let s1 := s.modArch fun a =>
    let b := { a with temps := tempsOut a.temps c.slices, pend := a.pend.filter fun p => !temp p.2,
                      exports := (a.exports.filter fun p => all.contains p) ++ s.exportedAs r es }
    let b := (bitsOf c.slices).foldl (fun (x : Arch) sl => x.modSlice sl fun v =>
      { v with pc := if v.moved then v.pc else r.trailerAddr + 8, moved := false }) b
    b.setCand s.curLow fun x =>
      { x with run := none, started := false, settled := false, switched := false, yielding := false, readyAt := none,
               hold := if parks then .parked else .none }
  let s2 := match s.agent with
    | .group n k _ => s1.modCore n fun v => v.setPort (k % 4) { v.port (k % 4) with cls := cls, cur := none }
    | .stream _ => s1
  let s3 := if parks then s2.modCluster s2.curTeam.cluster fun v => { v with yielded := true } else s2
  if c.yielding then s3.switchPoint else s3

/-- A run whose last word a TRET has skipped, and whose trailer is the last word of the code space, falls through to 2^57: the trap is
that of the last word (R74, R241). -/
def State.wrapAtTrailer (s : State) : State :=
  let last := s.curRun.words.length - 1
  if s.cur.unresolved then s
  else takeTrapAt (s.modCand fun c => { c with run := c.run.map fun r => { r with pos := last } }) (s.curRun.addrOf last)
    { cause := .pcwrap, einfo := 0 } s.activeMask

/-- RUNEND: the trailer closes its run (R392). -/
def execRunend (cls : BitVec 2) (exports : List Export) (s : State) : Host.Outcome State Fault Refusal :=
  finish s (.final (if s.fallsOut s then s.wrapAtTrailer else s.endRun cls exports))

/-! Candidates held while the group is in a handler (R60, R72). -/

def Group.handlerHolds (g : Group) (stopAll : Bool) (c : Cand) : Bool :=
  match g.handler with
  | some h => c.slices &&& h.slices = 0 && (stopAll || h.cause != .brkpt)
  | none => false

/-- Whether the entry that a hold of the current group names still stands in its table, or its range before the group (R242, R386). -/
def State.conflictStands (s : State) (h : Hold) : Bool :=
  match h with
  | .valve n owner seq => ((s.core n).valve ++ s.cur.pastEntries n).any fun e => e.owner = owner && e.seq = seq
  | _ => false

/-- Whether a group waits for a Valve entry that its word has met (R242, log 69). -/
def State.valveWaits (s : State) (g : Group) : Bool := g.arch.cands.any fun c => s.conflictStands c.hold

/-- Whether the current agent may start or fetch runs at all. -/
def State.mayRun (s : State) : Bool :=
  match s.agent with
  | .stream k => (s.stream k).state = 1 && (s.stream k).hold = .none
  | .group n _ _ =>
    let g := s.cur
    let t := s.curTeam
    g.st = .resident && t.st = .resident && t.ending.isNone && !g.handlerHolds (s.core n).stopAll s.curCand && !s.valveWaits g

/-! Fetch (R308, R74, R290). -/

/-- Held text that a candidate may issue from. -/
def Core.textAt (c : Core) (p slot : Nat) (slices : BitVec 8) (start : Addr) : Option (List Word) :=
  (c.text.find? fun t => t.part = p && t.start = start && (match t.keepers with
    | none => true
    | some l => (bitsOf slices).all fun sl => l.contains (8 * slot + sl))).map (·.words)

/-- Whether a fetch or a run-start test that traps or moves a slice may be made now: with DETMODE 1 only in the group's turn, so that
its order among the groups follows from the program alone (R47, R48, R66). -/
def State.inTurn (s : State) : Bool := s.inStream || s.turn s.curCore s.curSlot

/-- Words from an address up to a trailer, at most n; the address of a word that cannot be fetched, as every one from 2^57 on (log 34).
A word beyond a link that has been down for 1 ms is no word of memory (R289, log 113). -/
def readText (s : State) (n : Nat) (a : Nat) : Except Nat (List Word) :=
  match n with
  | 0 => .ok []
  | n + 1 =>
    match (if a < 2 ^ 57 then translate s s.curCore s.curPart s.privd .fetch a else .error .fetch) with
    | .error _ => .error a
    | .ok t =>
      let w : Word := if (s.deadLink s.curPart t.1).isSome then BitVec.ofNat 64 (Config.freeNat (s.fresh + 4 + n))
        else ofBytes 64 (s.homeBytes t.1 8)
      if majorOf w = 0x2F then .ok [w]
      else match readText s n (a + 8) with
        | .error e => .error e
        | .ok ws => .ok (w :: ws)

/-- The places of n words of text from an address. -/
def State.textPlaces (s : State) (a n : Nat) : List Nat :=
  (List.range n).filterMap fun i => (s.lookup s.curCore s.curPart (a + 8 * i)).map (placeUnder s s.curPart (a + 8 * i))

/-- Whether n words of text may be fetched from an address as the slots of their links stand, with their walks (R287). -/
def State.textOpen (s : State) (a n : Nat) : Bool :=
  s.walksOpen s.curCore s.curPart ((List.range n).map fun i => a + 8 * i) && s.travels .g (s.textPlaces a n)

/-- A fetch of n words over a dead link is counted (R289, R457). -/
def State.countText (s : State) (a n : Nat) : State :=
  if n = 0 then s else
  match ((s.textPlaces a n).filterMap (s.deadLink s.curPart)).head? with
  | some k => { s.countLost k with fresh := s.fresh + 64 }
  | none => s.countWalk s.curCore s.curPart a

/-- RUNBAD with its reason and position (R249). -/
def runbadTrap (reason pos : Nat) : Trap := { cause := .runbad, einfo := BitVec.ofNat 64 (reason * 2 ^ 8 + pos) }

/-- Words of a run with its trailer. -/
def runWords : Nat := 25

/-- The fetch checks in order: the trap and the word it names (R308). -/
def fetchCheck (start : Addr) (ws : List Word) : Option (Trap × Addr) :=
  let body := ws.dropLast
  let tr := (ws.getLast?).getD 0
  let at_ (i : Nat) : Addr := start + BitVec.ofNat 57 (8 * i)
  if majorOf tr ≠ 0x2F then some (runbadTrap 5 24, start)
  else if body = [] then some ({ cause := .undef, einfo := tr }, start)
  else match instrOf tr with
    | .runend cls _ =>
      (firstTrap [(tempUnwritten body [] 0).map (runbadTrap 1), (outOfPlace body).map (runbadTrap 3),
        (joinInside body).map (runbadTrap 4), (tooSlow body cls.toNat).map (runbadTrap 2)]).map fun t => (t, start)
    | _ => some ({ cause := .undef, einfo := tr }, at_ body.length)

/-- The counter of the current candidate's slices. -/
def State.candPc (s : State) : Addr := (s.slice s.curLow).pc

/-- RUN_FETCH: the next run of a candidate is fetched and checked (R8 to R10, R74, R290, R308). -/
def execRunFetch (core slot cand : Nat) (s : State) : Host.Outcome State Fault Refusal :=
  let s0 := s.at_ core slot cand
  let c := s0.curCand
  let s1 := s.at_ core slot ((bitsOf c.slices).headD cand)
  let pc := s1.candPc
  event s (if !c.has cand || !c.settled || c.run.isSome || c.hold != .none || !s1.mayRun then none else
    let held := if s1.inStream then none else (s1.core core).textAt s1.curPart slot c.slices pc
    let got := match held with
      | some ws => Except.ok ws
      | none => readText s1 runWords pc.toNat
    let n := match held, got with
      | some _, _ => 0
      | none, .ok ws => ws.length
      | none, .error a => (a - pc.toNat) / 8 + 1
    if !s1.textOpen pc.toNat n then none else
    let s2 := s1.countText pc.toNat n
    match got with
    | .error a =>
      if s1.inTurn then some (takeTrapAt s2 (BitVec.ofNat 57 a) { cause := .fetch, einfo := (memTrap .fetch .fetch 0 .g a).einfo } 0) else none
    | .ok ws =>
      match fetchCheck pc ws with
      | some (t, a) => if s1.inTurn then some (takeTrapAt s2 a t 0) else none
      | none =>
        let s2 := s2.modCand fun d => { d with run := some { start := pc, words := ws.dropLast, trailer := (ws.getLast?).getD 0 } }
        some (if s1.inStream || held.isSome then s2
          else s2.modCore core fun v => { v with text := v.text ++ [{ part := s1.curPart, start := pc, words := ws }] }))

/-- RUN_BUFFER_EVICTION: a core drops the text of a run at a time of its own; a run that is fetched and not started is fetched again
(R290). -/
def execRunBufferEviction (core : Nat) (start : Addr) (s : State) : Host.Outcome State Fault Refusal :=
  event s (if (s.core core).text.any fun t => t.start = start then
      some (s.modCore core fun c => { c with text := c.text.filter fun t => t.start != start })
    else none)

/-! Run-start tests of a candidate (R56, R58, R59, R66). -/

/-- The candidate of slices that share a counter: those of `l` with slice values. -/
def partOf (l : List (Nat × Slice × Option Trap)) (pc : Addr) : List (Nat × Slice × Option Trap) := l.filter fun p => p.2.1.pc = pc

/-- Two candidates that merge at a run start: the ready time is that of the longest-ready part (R59). -/
def mergeReady (x y : Option Nat) : Option Nat :=
  match x, y with
  | some a, some b => some (min a b)
  | some a, none => some a
  | none, y => y

/-- Whether a candidate stands at a run start, its tests made, not held. -/
def Cand.standing (c : Cand) : Bool := c.settled && !c.started && c.hold == .none

/-- A candidate joins one that stands at the same counter; those that a handler holds apart do not merge (R59, R60). One that is held at a
REGANG there is not joined by a candidate that comes with all the slices named, and so passes without it: R59 could be read to merge them;
the model's choice (log 102). -/
def joinCand (g : Group) (pcOf : Cand → Addr) (cands : List Cand) (c : Cand) : List Cand :=
  let apart (d : Cand) : Bool := match g.handler with
    | some h => (c.slices &&& h.slices = 0) != (d.slices &&& h.slices = 0)
    | none => false
  let same (d : Cand) : Bool := c.standing && d.standing && pcOf d == pcOf c && !apart d
  match cands.find? same with
  | some d => (cands.filter fun x => x != d) ++
      [{ d with slices := d.slices ||| c.slices, run := if d.run.isSome then d.run else c.run, readyAt := mergeReady d.readyAt c.readyAt }]
  | none => cands ++ [c]

/-- Whether a slice needs a return entry read back that no RET has read. -/
def Slice.needsRet (v : Slice) : Bool := v.ret.isEmpty && v.retSpill != 0 && v.retIn.isNone

/-- The fault of a fill that slices of a candidate need, if its place cannot be read (R57). -/
def State.fillFault (s : State) (slices : BitVec 8) : Option Trap :=
  (bitsOf slices).findSome? fun sl =>
    let v := s.slice sl
    let check (a n : Nat) : Option Trap := match stackPlaces s .load a n with
      | .error t => some t
      | .ok _ => none
    firstTrap [if v.div.isEmpty && v.divSpill != 0 then check (s.divSpillAt sl (v.divSpill - 1)) 16 else none,
      if v.needsRet then check (s.retSpillAt sl (v.retSpill - 1)) 8 else none]

/-- Whether the walks for the entries that slices of the current candidate have spilled may be made now (R287). -/
def State.fillsOpen (s : State) : Bool :=
  s.walksOpen s.curCore s.curPart ((bitsOf s.curCand.slices).flatMap fun sl =>
    let v := s.slice sl
    (if v.divSpill != 0 then [s.divSpillAt sl (v.divSpill - 1)] else []) ++ (if v.needsRet then [s.retSpillAt sl (v.retSpill - 1)] else []))

/-- Whether the run-start tests of a slice have set its counter to a body start, or closed its last loop: from its loops before and after
them. A loop that closed after starting again has an empty body (R66, R360). -/
def tripOver (old new : List LoopEntry) : Bool :=
  let key (l : LoopEntry) : BitVec 6 × Nat := (l.id, l.trips)
  let gone := old.take (old.length - new.length)
  (new.isEmpty && !old.isEmpty) || (old.drop gone.length).map key != new.map key
    || gone.any fun l => l.start == l.stop && decide (l.trips + 1 < l.limit)

/-- The slices whose trip has ended fetch afresh (R360). -/
def State.endTrips (s : State) (sls : List Nat) : State :=
  match s.agent with
  | .stream _ => s
  | .group n k _ =>
    if (s.core n).text.any fun t => t.keepers.isSome then
      let drop (t : TextBuf) : TextBuf := { t with keepers := t.keepers.map fun l => l.filter fun i => !(sls.map (8 * k + ·)).contains i }
      s.modCore n fun c => { c with text := (c.text.map drop).filter fun t => t.keepers != some [] }
    else s

/-- The slices of the current candidate with what their run-start tests make of them. -/
def State.settledSlices (s : State) : List (Nat × Slice × Option Trap) :=
  let a := s.cur.arch
  (bitsOf s.curCand.slices).map fun sl => (sl, settleSlice settleFuel (fun p => sliceBits (a.getP p) sl) (a.slice sl))

/-- Whether the run-start tests leave every slice of the current candidate as it is. -/
def State.settlesPlainly (s : State) : Bool :=
  s.settledSlices.all fun p => p.2.2.isNone && p.2.1 == s.slice p.1 && !p.2.1.needsFill

/-- The run-start tests of the current candidate: its slices settle, part by their counters, and merge with what stands there; a loop
end that finds its maximum, and a fill that cannot be made, trap. R57 takes the fault of a fill at the word that caused it: a RET has read
what it needs itself; for a fill that a pop at a run start needs, it is the run start, with the slice's new counter as EPC; the model's
choice (log 97). -/
def State.settleCand (s : State) : State :=
  let c := s.curCand
  let a := s.cur.arch
  let res := s.settledSlices
  let live := res.filter fun p => p.2.1.exited != 0xF
  let pcs := (live.map fun p => p.2.1.pc).eraseDups
  let part (pc : Addr) : Cand :=
    let l := partOf live pc
    let fill := l.any fun p => p.2.1.needsFill
    let bad := l.any fun p => p.2.2.isSome
    { slices := maskOf 8 (l.map (·.1)), settled := !bad && !fill, hold := if fill then .fill else .none, readyAt := c.readyAt }
  let s1 := s.modArch fun b =>
    let b := res.foldl (fun (x : Arch) p => x.setSlice p.1 p.2.1) b
    let pcOf (d : Cand) : Addr := (b.slice d.low).pc
    { b with cands := (pcs.map part).foldl (joinCand s.cur pcOf) (b.cands.filter fun d => !d.has s.curLow) }
  let ended := res.filterMap fun p =>
    if tripOver (a.slice p.1).loops p.2.1.loops then some p.1 else none
  let met := s1.cur.arch.cands.filter fun d => d.slices &&& c.slices != 0 && d.slices &&& ~~~c.slices != 0
  let s2 := (met.foldl (fun (u : State) d => u.orderJoined d.slices) s1).endTrips ended
  let trapped := live.findSome? fun p => p.2.2.map fun t => (p.1, p.2.1.pc, t)
  match trapped with
  | some (sl, pc, t) => takeTrapAt (s2.at_ s.curCore s.curSlot ((s2.cur.arch.cand sl).low)) pc t 0
  | none =>
    match s2.cur.arch.cands.findSome? fun d =>
        if d.hold == .fill then (s2.fillFault d.slices).map fun t => (d, t) else none with
    | some (d, t) =>
      let s3 := s2.at_ s.curCore s.curSlot d.low
      takeTrapAt (s3.modCand fun x => { x with hold := .none }) s3.candPc t 0
    | none => s2

/-- SPILL_FILL_RETURN: the entry that a slice's stack waits for returns (R57, R65, R390). -/
def execSpillFillReturn (core slot slice : Nat) (s : State) : Host.Outcome State Fault Refusal :=
  let s0 := s.at_ core slot slice
  let c := s0.curCand
  let s1 := s.at_ core slot c.low
  let v := s1.slice slice
  event s (if !c.has slice || c.hold != .fill || !v.needsFill then none else
    let ret := !(v.div.isEmpty && v.divSpill != 0)
    let more (s2 : State) : State :=
      if (bitsOf c.slices).any fun sl => (s2.slice sl).needsFill then s2 else s2.modCand fun d => { d with hold := .none }
    let landed (u : State) (a : Addr) : State := u.modSlice slice fun w => { w with ret := [a], retSpill := w.retSpill - 1, retIn := none }
    if let (true, some a) := (ret, v.retIn) then some (more (landed s1 a)) else
    let at_ := if ret then s1.retSpillAt slice (v.retSpill - 1) else s1.divSpillAt slice (v.divSpill - 1)
    if !s1.stackOpen .load at_ (if ret then 8 else 16) then none else
    match s1.spillRead at_ (if ret then 8 else 16) with
    | .error t => some (takeTrapAt (s1.modCand fun d => { d with hold := .none }) s1.candPc t 0)
    | .ok r =>
      some (more (if ret then landed r.1 ((ofBytes 64 r.2 : Word).setWidth 57)
        else r.1.modSlice slice fun w => { w with div := [divOfImage (ofBytes 128 r.2)], divSpill := w.divSpill - 1 })))

/-! Readiness (R34, R152, R153, R195, R206, R311, R448). -/

/-- A counter of the current group. -/
def State.count (s : State) (p : Path) : Nat := s.counter s.curCore s.cur p

/-- Limits of a wait on a set of paths. -/
def State.within (s : State) (lims : List (Path × Nat)) : Bool := lims.all fun p => s.count p.1 ≤ p.2

/-- The limits that a WAIT or WAITP names; MWAIT names its batch. -/
def State.waitLimits (s : State) (i : Instr) : List (Path × Nat) :=
  match i with
  | .wait _ ld st cp sg mx => [(.ld, ld.toNat), (.st, st.toNat), (.cp, cp.toNat), (.sg, sg.toNat), (.mx, mx.toNat)]
  | .waitp _ p sk => [(p, min (s.cur.arch.valS sk).toNat 255)]
  | _ => []

/-- The context that the current group leases and has not given up (R196). -/
def State.leased (s : State) : Option Nat :=
  s.cur.lease.bind fun x => if (s.ctx s.curCore x).freed then none else some x

/-- The open batch of the group's context that an MWAIT names (R206, R378). -/
def State.namedBatch (s : State) (sk : BitVec 6) : Option Batch :=
  let n : BitVec 32 := (s.cur.arch.valS sk).setWidth 32
  s.cur.lease.bind fun x => (s.ctx s.curCore x).batches.reverse.find? fun b => b.num = n

/-- A lease context that nothing holds or has reserved. -/
def Core.freeCtx (c : Core) : Option Nat :=
  (List.range 4).find? fun x => (c.ctx x).holder.isNone && (c.ctx x).reserved.isNone

/-- Whether the current slot has a context reserved for a run that begins with MLEASE (R195). -/
def State.holdsReservation (s : State) : Bool :=
  (List.range 4).any fun x => (s.ctx s.curCore x).reserved == some s.curSlot

/-- Whether a context has been given up and not released yet. -/
def Core.ctxPending (c : Core) : Bool := (List.range 4).any fun x => (c.ctx x).holder.isSome && (c.ctx x).freed

/-- Whether the first word of a run lets it start (R34): waits are satisfied, an MLEASE finds a context. A switch of R48 comes before
any of these tests. -/
def State.firstOk (s : State) (w : Word) : Bool :=
  let first := s.det && !s.curCand.switched
  let a := s.cur.arch
  match instrOf w with
  | .wait h ld st cp sg mx => first || !plainGuard h || s.within (s.waitLimits (.wait h ld st cp sg mx))
  | .waitp h p sk => first || !plainGuard h || (poisonS a sk).isSome || s.within (s.waitLimits (.waitp h p sk))
  | .mwait h sk =>
    first || badGuard h || s.leased.isNone || s.execMask h = 0 || (poisonS a sk).isSome || (s.namedBatch sk).isNone
  | .mlease .. =>
    s.inStream || first || (if s.det then !(s.core s.curCore).ctxPending
      else s.holdsReservation || ((s.core s.curCore).freeCtx).isSome)
  | _ => true

/-- Whether a word is an MLEASE. -/
def isMlease (w : Word) : Bool :=
  match instrOf w with
  | .mlease .. => true
  | _ => false

/-- Whether a first word is one that is tested before it issues, in a run that has started too: a wait, or an MLEASE that a TRET goes back
to (R34, R195). -/
def isWait (w : Word) : Bool :=
  match instrOf w with
  | .wait .. | .waitp .. | .mwait .. | .mlease .. => true
  | _ => false

/-- Entries of the core's command buffer in use: those of commands that have not completed, been cancelled or faulted (R152). -/
def State.commandsInUse (s : State) (n : Nat) : Nat :=
  sumOf ((List.range 64).map fun k => ((s.group n k).cmds.filter fun c => c.state == .queued || c.state == .running).length) + (s.core n).lut.queue.length

/-- The room that a run needs before it starts (R152). -/
def State.roomFor (s : State) (r : Run) : Bool :=
  let is := r.words.map instrOf
  let n := s.curCore
  let paths := [Path.ld, .st, .cp, .sg, .mx].all fun p =>
    s.count p + (is.filter fun i => raises i == some p).length ≤ 255
  let valve := (s.core n).valveRoom (sumOf (is.map valveNeed))
  let cmds := sumOf (is.map commandNeed)
  let ops := sumOf (is.map queueNeed)
  let leases := (r.words.head?).any isMlease
  let queue := match s.cur.lease with
    | some x => ops = 0 || leases || (s.ctx n x).ops.length + ops ≤ 32 || (s.ctx n x).batches.isEmpty
    | none => true
  if s.inStream then paths
  else paths && valve && (cmds = 0 || s.commandsInUse n + cmds ≤ 32) && queue

/-- Registers that a word reads, as export codes, but those that an index register of a list moves (R311). -/
def readCodes (a : Arch) (moved : List (BitVec 2)) (i : Instr) : List Nat :=
  ((readSpans i).flatMap fun p =>
    if p.1.isTemp || moved.contains p.1.idx then [] else (List.range p.2).map fun j => exportVec (effReg a p.1 + j))
  ++ (match feedsOf i with
    | some f => if moved.contains f.fix then [] else (feedRegs a f).map exportVec
    | none => [])
  ++ (scalReads i).map fun r => exportScal r.toNat

/-- Whether words read none of some registers, with the index registers as the run's own SMOVs leave them: one whose new value the run has
still to compute is `moved`, and its operands are tested when their word issues (R34, R311, log 112). -/
def readsNone (p : List Nat) (a : Arch) (moved : List (BitVec 2)) (set : List (BitVec 6)) (ws : List Word) : Bool :=
  match ws with
  | [] => true
  | w :: r =>
    let i := instrOf w
    (readCodes a moved i).all (fun c => !p.contains c) && (match i with
      | .smov h (.sx x y) =>
        if plainGuard h && !set.contains y then readsNone p (a.setX x ((a.valS y).setWidth 8)) (moved.filter (· != x)) set r
        else readsNone p a (x :: moved) set r
      | _ => readsNone p a moved (set ++ scalWrites i) r)

/-- Whether what is left of a run reads no register that is still pending (R34, R311). -/
def State.exportsOk (s : State) (r : Run) : Bool :=
  let p := s.stillPending
  p.isEmpty || readsNone p s.cur.arch [] [] (r.words.drop r.pos)

/-- The slices of the candidates held at the same word as the current one (R60). -/
def State.heldHere (s : State) : BitVec 8 :=
  let here := s.pc
  s.cur.arch.cands.foldl (fun m c =>
    let at_ := (c.run.map fun r => r.addrOf r.pos) == some here
    match s.curCand.hold, c.hold with
    | .regang _, .regang _ => if at_ then m ||| c.slices else m
    | .convergent _, .convergent _ => if at_ then m ||| c.slices else m
    | _, _ => m) s.curCand.slices

/-- Whether what holds the current candidate lets it go on (R60, R61, R68). -/
def State.holdOver (s : State) : Bool :=
  match s.curCand.hold with
  | .none | .suspended => true
  | .valve _ _ _ => !s.conflictStands s.curCand.hold
  | .regang m => m &&& s.cur.arch.liveSlices &&& ~~~s.heldHere = 0
  | .convergent m => slicesWith (m &&& ~~~s.cur.arch.exitedMask) &&& ~~~s.heldHere = 0
  | .barrier _ _ | .cbar _ | .fill | .linkage _ _ _ | .parked | .mlease => false

/-- Whether nothing but the rotation of a deterministic core keeps the current candidate from issuing (R34). -/
def State.poised (s : State) : Bool :=
  let c := s.curCand
  match c.run with
  | none => false
  | some r =>
    let w := (r.words ++ [r.trailer]).getD r.pos 0
    s.mayRun && c.settled && s.holdOver
      && (r.pos != 0 || (if c.started && !isWait w then true else s.firstOk w))
      && (c.started || s.roomFor r) && s.exportsOk r

/-- Whether the current candidate is ready (R34, R47). -/
def State.ready (s : State) : Bool := s.poised && s.inTurn

/-! The choice of a port (R37, R47, R62). -/

/-- Those of a list for which a measure is least. -/
def keepBest {α : Type} (f : α → Nat) (l : List α) : List α :=
  match minBy f l with
  | some b => l.filter fun x => f x = f b
  | none => []

/-- The candidates that a port may choose among: those it serves that are not in the middle of their run on it, as agents. -/
def State.candsOf (s : State) (n p : Nat) : List (Nat × Cand) :=
  ((List.range 16).map fun j => 4 * j + p).flatMap fun k =>
    let g := s.group n k
    if g.st = .resident then g.arch.cands.map fun c => (k, c) else []

/-- The class of the run of a candidate. -/
def Cand.runClass (c : Cand) : Nat := ((c.run.map fun r => (hdrOf r.trailer).cls.toNat)).getD 0

/-- How long a candidate has been ready, as the stroke at which it became so. -/
def State.readySince (s : State) (n : Nat) (c : Cand) : Nat := c.readyAt.getD (s.core n).strokes.toNat

/-- Whether a run that begins with MERGE waits for slices it names (R62). -/
def State.mergeWaits (s : State) (n k : Nat) (ready : List (Nat × Cand)) (c : Cand) : Bool :=
  match c.run with
  | none => false
  | some r =>
    match r.pos, instrOf (r.words.headD 0) with
    | 0, .merge _ m => (s.core n).strokes.toNat - s.readySince n c < 256 &&
        ready.any fun d => d.1 == k && d.2 != c && d.2.slices &&& m != 0
    | _, _ => false

/-- Whether the run of the current candidate reserves a context when it starts, or goes on at its MLEASE after a trap that gave the
reservation up (R195). -/
def State.needsCtx (s : State) : Bool :=
  let c := s.curCand
  match c.run with
  | some r => !(c.started && s.holdsReservation) && !s.inStream && !s.det && r.pos = 0 && isMlease (r.words.headD 0)
  | none => false

/-- The free contexts of a core. -/
def Core.freeCtxs (c : Core) : Nat :=
  ((List.range 4).filter fun x => (c.ctx x).holder.isNone && (c.ctx x).reserved.isNone).length

/-- The candidate that a port chooses, by the tests of R37 in order, when `claimed` free contexts go to lower-numbered ports (R195). -/
def State.chooseWith (s : State) (n p claimed : Nat) : Option (Nat × Cand) :=
  let ready := (s.candsOf n p).filter fun x =>
    let s1 := s.at_ n x.1 x.2.low
    s1.ready && (!s1.needsCtx || claimed < (s.core n).freeCtxs)
  let now := (s.core n).strokes.toNat
  let since (x : Nat × Cand) : Nat := s.readySince n x.2
  let prio (x : Nat × Cand) : Nat := (s.launch (s.team (s.group n x.1).team).launch).info.prio
  let l0 := ready.filter fun x => !s.mergeWaits n x.1 ready x.2
  let l1 := keepBest (fun x => if (s.group n x.1).handler.isSome then 0 else 1) l0
  let l2 := keepBest (fun x => if 256 ≤ now - since x then since x else 2 ^ 64) l1
  let l3 := keepBest prio l2
  let l4 := keepBest (fun x => if x.2.runClass = ((s.core n).port p).cls.toNat then 0 else 1) l3
  let l5 := keepBest since l4
  (keepBest (fun x => 8 * x.1 + x.2.low) l5).head?

/-- The free contexts that runs take which the ports below p could start now (R195). -/
def State.claimed (s : State) (n p : Nat) : Nat :=
  match p with
  | 0 => 0
  | p + 1 =>
    let k := s.claimed n p
    let takes : Bool := ((s.core n).port p).cur.isNone && (match s.chooseWith n p k with
      | some (slot, c) => (s.at_ n slot c.low).needsCtx
      | none => false)
    if takes then k + 1 else k

/-- The candidate that a port chooses. -/
def State.choose (s : State) (n p : Nat) : Option (Nat × Cand) := s.chooseWith n p (s.claimed n p)

/-- With DETMODE 1 the current group's parted sets issue in ascending order of their lowest slice, those that are held apart
(R47, R389). After each run the lowest set that is free is taken again, so that it goes on until it is held or has ended: R47 does not say
whether the next set takes a turn first; the model's choice (log 36). -/
def State.chooseDet (s : State) (n p : Nat) : Option (Nat × Cand) :=
  let cur := (s.candsOf n p).filter fun x => s.turn n x.1
  let free := cur.filter fun x => (match x.2.hold with
    | .none | .suspended | .fill | .linkage _ _ _ | .valve _ _ _ => true
    | .regang _ | .convergent _ => (s.at_ n x.1 x.2.low).holdOver
    | _ => false) && !(s.group n x.1).handlerHolds (s.core n).stopAll x.2
  match minBy (fun x => x.2.low) free with
  | some x => if (s.at_ n x.1 x.2.low).ready then some x else none
  | none => none

/-- Whether a core holds a team of a deterministic launch. -/
def State.detCore (s : State) (n : Nat) : Bool := (s.core n).current.isSome

/-- A candidate that was held at a REGANG or a convergent word goes on with all that stand there as one (R59, R60, R68). The writes that
their runs have still to make are the joined run's (R311). -/
def State.gather (s : State) : State :=
  let c := s.curCand
  match c.hold with
  | .regang _ | .convergent _ =>
    let all := s.heldHere
    let low := (bitsOf all).headD 0
    let others := s.cur.arch.cands.filter fun d => d.slices &&& all = 0
    let joined := s.cur.arch.cands.filter fun d => d.slices &&& all != 0
    let ready := joined.foldl (fun r d => mergeReady r d.readyAt) none
    let own := (joined.filterMap (·.run)).flatMap (·.own)
    let d := { c with slices := all, hold := .none, readyAt := ready, run := c.run.map fun r => { r with own := own } }
    let s1 := s.modArch fun a => { a with cands := others ++ [d] }
    (s1.orderJoined all).at_ s.curCore s.curSlot low
  | _ => s

/-- The current candidate starts its run, or goes on with it, on its port (R37, R38, R87, R195). -/
def State.startRun (s : State) : State :=
  let s1 := s.gather
  let lease := s1.needsCtx
  let s2 := s1.modCand fun d => { d with
    started := true, hold := .none, readyAt := none,
    run := d.run.map fun r => if d.started then r else { r with passes := s1.passesOf s1.curCore } }
  match s2.agent with
  | .stream _ => s2
  | .group n k low =>
    let s3 := s2.modCore n fun v => v.setPort (k % 4) { v.port (k % 4) with cur := some (k, low), passes := s2.curRun.passes }
    match lease, (s3.core n).freeCtx with
    | true, some x => s3.modCtx n x fun v => { v with reserved := some k }
    | _, _ => s3

/-- Whether the current group takes PREEMPT at this run start (R265, R267). -/
def State.preemptDue (s : State) : Bool :=
  let g := s.cur
  !s.inStream && !s.curCand.started && bit g.trapen 17 && !s.det && g.handler.isNone
    && (s.cluster s.curTeam.cluster).decision == some 1

/-- PREEMPT with its window and decision (R249). -/
def State.preemptTrap (s : State) : Trap :=
  let c := s.cluster s.curTeam.cluster
  { cause := .preempt, einfo := c.pdeadline.setWidth 64 <<< 32 ||| BitVec.ofNat 64 (c.decision.getD 0) }

/-- The first candidate of a port that has its run-start tests to make. -/
def State.unsettled (s : State) (n p : Nat) : Option (Nat × Cand) :=
  (s.candsOf n p).find? fun x => !x.2.settled && (match x.2.hold with
    | .none | .valve _ _ _ => true
    | _ => false) && (let s1 := s.at_ n x.1 x.2.low; s1.mayRun && s1.fillsOpen && (s1.inTurn || s1.settlesPlainly))

/-- RUN_START: a port makes the run-start tests of a candidate, or chooses a ready candidate and starts its run; a stream does so with
its own (R37, R47, R56, R59, R66, R265, R274). -/
def execRunStart (core port : Nat) (s : State) : Host.Outcome State Fault Refusal :=
  event s (
    if core = 384 then
      let s1 := s.at_ 384 port 0
      let c := s1.curCand
      if !s1.mayRun || c.slices = 0 || c.started then none
      else if !c.settled then some s1.settleCand
      else if s1.ready then some s1.startRun
      else none
    else
      match s.unsettled core port with
      | some (k, c) => some (s.at_ core k c.low).settleCand
      | none =>
        if ((s.core core).port port).cur.isSome then none else
        match (if s.detCore core then s.chooseDet core port else s.choose core port) with
        | none => none
        | some (k, c) =>
          let s1 := s.at_ core k c.low
          some (if s1.preemptDue then takeTrapAt s1 s1.candPc s1.preemptTrap 0 else s1.startRun))

/-- At a stroke each candidate that is not issuing takes its ready time when it becomes ready, and loses it when it stops being so
(R39). -/
def State.markReady (s : State) (n : Nat) : State :=
  (List.range 64).foldl (fun (u : State) k =>
    let g := u.group n k
    if g.st != .resident then u else
    let now := (u.core n).strokes.toNat
    let mark (c : Cand) : Cand :=
      if ((u.core n).port (k % 4)).cur == some (k, c.low) then c
      else if (u.at_ n k c.low).ready then { c with readyAt := some (c.readyAt.getD now) } else { c with readyAt := none }
    u.setGroup n k { g with arch := { g.arch with cands := g.arch.cands.map mark } }) s

end Sys2Proof.Machine
end

