-- ==== Sys2Proof/Machine/Barriers.lean ====
section
/-! DEFINITION. FENCE (R354 to R356) and the barriers of teams and clusters (R36, R174, R341 to R345, R352). -/

namespace Sys2Proof.Machine

open Sys2Proof

/-- FENCE: it enters the queue, and the memory words and engine commands that follow it are held until its actions are complete (R170, R173,
R355). -/
def execFence (h : Hdr) (ord : Order) (sc : Scope) (s : State) : Host.Outcome State Fault Refusal :=
  finish s (scalarWord s h
    (guardTrap (detxFault s sc 2) (.done (s.pushAccess (s.fenceEntry ord sc false)).settleQueue)))

/-! Barrier words. -/

/-- A barrier word issues only when its candidate holds every slice that has a lane not exited; it is a deterministic switch point
even when its guard makes it do nothing (R48, R344). -/
def barrierWord (s : State) (h : Hdr) (k : Eff) : Eff :=
  groupWord s h fun m => ganged s (if m = 0 then .switch s .none else k)

/-- An arrival with its release half pending: accesses up to a program-order number (R342). -/
def Barrier.arrive (r : Barrier) (j seq : Nat) (sc : Scope) : Barrier :=
  { r with arrived := r.arrived ||| onehot 32 j, pending := if sc = .group then r.pending else r.pending ++ [(j, seq)] }

/-- Team barrier b of the current team. -/
def State.barrier (s : State) (b : Nat) : Barrier := Store.get s.curTeam.barriers b

/-- The current group arrives at team barrier b, then goes on with k; a second arrival is UNDEF (R342). -/
def arriveAt (s : State) (b : Nat) (sc : Scope) (k : State → Eff) : Eff :=
  let j := s.cur.index
  if bit (s.barrier b).arrived j then .trap s.undef
  else afterResolved s
    (k ((s.arriveFence sc).modTeam s.cur.team fun t =>
      { t with barriers := Store.put t.barriers b ((s.barrier b).arrive j s.cur.seq sc) }))

/-- BAR (R343). -/
def execBar (h : Hdr) (b : BitVec 4) (s : State) : Host.Outcome State Fault Refusal :=
  finish s (barrierWord s h (arriveAt s b.toNat .team fun t => .switch t (.barrier b.toNat (some .team))))

/-- BARA (R343). -/
def execBara (h : Hdr) (sc : Scope) (b : BitVec 4) (s : State) : Host.Outcome State Fault Refusal :=
  finish s (barrierWord s h (guardTrap (detxFault s sc 3) (arriveAt s b.toNat sc fun t => .switch t .none)))

/-- BARW (R343). -/
def execBarw (h : Hdr) (sc : Scope) (b : BitVec 4) (s : State) : Host.Outcome State Fault Refusal :=
  finish s (barrierWord s h (guardTrap (detxFault s sc 4)
    (if bit (s.barrier b.toNat).arrived s.cur.index then .switch s (.barrier b.toNat (some sc))
     else .switch (s.acquireFence sc) .none)))

/-- CBAR (R352). -/
def execCbar (h : Hdr) (b : BitVec 2) (s : State) : Host.Outcome State Fault Refusal :=
  let n := b.toNat
  finish s (barrierWord s h
    (if bit s.cur.cbars n then .trap s.undef
     else afterResolved s
      (let seq := s.cur.seq
       let s1 := (s.arriveFence .clus).modCur fun g => { g with cbars := g.cbars ||| onehot 4 n }
       .switch (s1.modCluster s.curTeam.cluster fun c =>
         let r := Store.get c.barriers n
         { c with barriers := Store.put c.barriers n { r with pending := r.pending ++ [(32 * s.curTeam.rank + s.cur.index, seq)] } })
        (.cbar n))))

/-! Completion. -/

/-- Cluster barrier b completes (R352). -/
def State.completeCluster (s : State) (c b : Nat) : Option State :=
  let cl := s.cluster c
  let r := Store.get cl.barriers b
  let ts := cl.teams.filter fun t => (s.team t).inCluster
  let gs := ts.flatMap s.groupsOf
  let ready := r.pending.all fun p =>
    match (s.groupsOf (cl.teams.getD (p.1 / 32) 0))[p.1 % 32]? with
    | some g => g.2.2.released p.2
    | none => true
  if !(gs.any fun g => bit g.2.2.cbars b) || !(ts.all (s.ranksArrived c b).contains) || !ready then none
  else
    let s1 := s.modCluster c fun v => { v with barriers := Store.put v.barriers b { r with pending := [] } }
    let s2 := (gs.filter fun g => g.2.2.st != .free).foldl (fun (u : State) g =>
      (u.modGroup g.1 g.2.1 fun v => { v with cbars := v.cbars &&& ~~~(onehot 4 b) }).releaseHeld g.1 g.2.1 fun h =>
        if h = .cbar b then some .clus else none) s1
    some (ts.foldl (fun (u : State) t => u.wakeCore (u.team t).core) s2)

/-- BARRIER_COMPLETE: a barrier whose members have all arrived, with their release halves, completes; for a cluster barrier `team` is
any team of the cluster (R342, R352). -/
def execBarrierComplete (team b : Nat) (cluster : Bool) (s : State) : Host.Outcome State Fault Refusal :=
  event s (if cluster then s.completeCluster (s.team team).cluster b else s.completeTeam team b)

end Sys2Proof.Machine
end

