-- ==== Sys2Proof/Machine/Vector.lean ====
section
/-! DEFINITION. The element-wise vector words of majors 0x01 to 0x07 (R419 to R427, R435 to R438). -/

namespace Sys2Proof.Machine

open Sys2Proof

/-- A lane operation on packed BF16 halves (R101). -/
def halves2 (f : Nat → Nat → FRes) (x y : Lane) : Lane × Flags :=
  pairLane (f (loHalf x) (loHalf y)) (f (hiHalf x) (hiHalf y))

/-- The lane operation of VADD, VSUB and VMUL for a type (R422). -/
def arith2 (t : Ty) (ff : FFmt → Nat → Nat → FRes) (fi : Lane → Lane → Lane) (x y : Lane) : Lane × Flags :=
  match t with
  | .f32 => laneOf (ff fmtF32 (f32 x) (f32 y))
  | .b16 => halves2 (ff fmtB16) x y
  | _ => (fi x y, fNone)

/-- VADD (R422). -/
def execVadd (h : Hdr) (ty : Ty) (vd va vb : VOp) (rm : RMode) (s : State) : Host.Outcome State Fault Refusal :=
  finish s (vec2 s h vd va vb (arith2 ty (fun f => fAdd f rm) (fun x y => x + y)))

/-- VSUB (R422). -/
def execVsub (h : Hdr) (ty : Ty) (vd va vb : VOp) (rm : RMode) (s : State) : Host.Outcome State Fault Refusal :=
  finish s (vec2 s h vd va vb (arith2 ty (fun f => fSub f rm) (fun x y => x - y)))

/-- VMUL (R422). -/
def execVmul (h : Hdr) (ty : Ty) (vd va vb : VOp) (rm : RMode) (s : State) : Host.Outcome State Fault Refusal :=
  finish s (vec2 s h vd va vb (arith2 ty (fun f => fMul f rm) (fun x y => x * y)))

/-- VMAX: it does not round, so RM has no effect (R103, R420, R422). -/
def execVmax (h : Hdr) (ty : Ty) (vd va vb : VOp) (_rm : RMode) (s : State) : Host.Outcome State Fault Refusal :=
  finish s (vec2 s h vd va vb (arith2 ty (fun f => fMax f) (maxInt (signedTy ty))))

/-- VMIN (R103, R422). -/
def execVmin (h : Hdr) (ty : Ty) (vd va vb : VOp) (_rm : RMode) (s : State) : Host.Outcome State Fault Refusal :=
  finish s (vec2 s h vd va vb (arith2 ty (fun f => fMin f) (minInt (signedTy ty))))

/-- VAND (R423). -/
def execVand (h : Hdr) (vd va vb : VOp) (_rm : RMode) (s : State) : Host.Outcome State Fault Refusal :=
  finish s (vec2 s h vd va vb fun x y => (x &&& y, fNone))

/-- VOR (R423). -/
def execVor (h : Hdr) (vd va vb : VOp) (_rm : RMode) (s : State) : Host.Outcome State Fault Refusal :=
  finish s (vec2 s h vd va vb fun x y => (x ||| y, fNone))

/-- VXOR (R423). -/
def execVxor (h : Hdr) (vd va vb : VOp) (_rm : RMode) (s : State) : Host.Outcome State Fault Refusal :=
  finish s (vec2 s h vd va vb fun x y => (x ^^^ y, fNone))

/-- VSHL by bits 4:0 (R423). -/
def execVshl (h : Hdr) (vd va vb : VOp) (_rm : RMode) (s : State) : Host.Outcome State Fault Refusal :=
  finish s (vec2 s h vd va vb fun x y => (x <<< (y.toNat % 32), fNone))

/-- VSHR (R423). -/
def execVshr (h : Hdr) (vd va vb : VOp) (_rm : RMode) (s : State) : Host.Outcome State Fault Refusal :=
  finish s (vec2 s h vd va vb fun x y => (x >>> (y.toNat % 32), fNone))

/-- VSRA (R423). -/
def execVsra (h : Hdr) (vd va vb : VOp) (_rm : RMode) (s : State) : Host.Outcome State Fault Refusal :=
  finish s (vec2 s h vd va vb fun x y => (x.sshiftRight (y.toNat % 32), fNone))

/-- The sign bits of a lane: bit 31, and bit 15 for packed halves (R419). -/
def signBits (t : Ty) : Lane := if t = .b16 then 0x80008000 else 0x80000000

/-- VABS (R419). -/
def execVabs (h : Hdr) (ty : Ty) (vd va : VOp) (_rm : RMode) (s : State) : Host.Outcome State Fault Refusal :=
  finish s (vec1 s h vd va fun x => (x &&& ~~~(signBits ty), fNone))

/-- VNEG (R419). -/
def execVneg (h : Hdr) (ty : Ty) (vd va : VOp) (_rm : RMode) (s : State) : Host.Outcome State Fault Refusal :=
  finish s (vec1 s h vd va fun x => (x ^^^ signBits ty, fNone))

/-- VMOV (R419). -/
def execVmov (h : Hdr) (vd va : VOp) (_rm : RMode) (s : State) : Host.Outcome State Fault Refusal :=
  finish s (vec1 s h vd va fun x => (x, fNone))

/-- VBCAST: bits 31:0 of sA in every executing lane (R419). -/
def execVbcast (h : Hdr) (vd : VOp) (sa : BitVec 6) (_rm : RMode) (s : State) : Host.Outcome State Fault Refusal :=
  finish s (vecWord s h vd [] (some sa) fun a _ _ => ((a.valS sa).setWidth 32, fNone))

/-- VFMA (R427). -/
def execVfma (h : Hdr) (ty : Ty) (vd va vb vc : VOp) (rm : RMode) (s : State) : Host.Outcome State Fault Refusal :=
  finish s (vec3 s h vd va vb vc fun x y z =>
    if ty = .b16 then
      pairLane (fFma fmtB16 rm (loHalf x) (loHalf y) (loHalf z)) (fFma fmtB16 rm (hiHalf x) (hiHalf y) (hiHalf z))
    else laneOf (fFma fmtF32 rm (f32 x) (f32 y) (f32 z)))

/-- VSEL: vA where the lane's bit of pC is 1, else vB (R427). -/
def execVsel (h : Hdr) (vd va vb : VOp) (pc : BitVec 4) (_rm : RMode) (s : State) : Host.Outcome State Fault Refusal :=
  finish s (vecWord s h vd [va, vb] none fun a l xs => match xs with
    | x :: y :: _ => (if bit (a.getP pc) l then x else y, fNone)
    | _ => (0, fNone))

/-- A VCMP condition in a lane with its flags (R424). -/
def cmpLane (c : Cond) (t : Ty) (x y : Lane) : Bool × Flags :=
  if t = .f32 then (fCompare fmtF32 c (f32 x) (f32 y), compareFlags fmtF32 (f32 x) (f32 y))
  else (compareInt (signedTy t) c x y, fNone)

/-- VCMP: the bits of executing lanes are written, the others stay (R324, R424). -/
def execVcmp (h : Hdr) (c : Cond) (ty : Ty) (pd : BitVec 4) (va vb : VOp) (_rm : RMode) (s : State) :
    Host.Outcome State Fault Refusal :=
  finish s (groupWord s h fun m =>
    let g := s.cur
    let a := g.arch
    let x := vref a va
    let y := vref a vb
    guardTrap (firstTrap [boundAll g.allot [x, y] 1, poisonRef a x m, poisonRef a y m])
      (let res := (lanes m).map fun l => (l, cmpLane c ty (a.getRef x l).bits (a.getRef y l).bits)
       let set : Mask := maskOf 32 ((res.filter fun p => p.2.1).map (·.1))
       .done (s.modArch fun b => (b.setP pd ((b.getP pd &&& ~~~m) ||| set)).raise (orFlags (res.map fun p => p.2.2)))))

/-- The format a type suffix names. -/
def fmtOf (t : Ty) : FFmt :=
  match t with
  | .b16 => fmtB16
  | .h16 => fmtH16
  | _ => fmtF32

/-- VCVT (R111, R425). -/
def execVcvt (h : Hdr) (vd : VOp) (f : CvtForm) (rm : RMode) (s : State) : Host.Outcome State Fault Refusal :=
  let ovt := s.cur.ovt
  finish s (match f with
    | .narrow dt va vb => vec2 s h vd va vb fun x y =>
        pairLane (fConvNarrow fmtF32 (fmtOf dt) rm ovt (f32 x)) (fConvNarrow fmtF32 (fmtOf dt) rm ovt (f32 y))
    | .widen st va half => vec1 s h vd va fun x => laneOf (fWiden (fmtOf st) (if half = 0 then loHalf x else hiHalf x))
    | .cross st dt va => vec1 s h vd va fun x =>
        pairLane (fConvNarrow (fmtOf st) (fmtOf dt) rm ovt (loHalf x)) (fConvNarrow (fmtOf st) (fmtOf dt) rm ovt (hiHalf x))
    | .toInt dt va => vec1 s h vd va fun x => fToInt (signedTy dt) rm (f32 x)
    | .fromInt st va => vec1 s h vd va fun x => laneOf (fFromInt (signedTy st) rm x))

/-- The plane words of 32 q values: plane 7 − m in lane m < k (R106, R436). -/
def packPlanes (k : Nat) (q : List (BitVec 8)) (m : Nat) : Lane :=
  if m < k then maskOf 32 ((q.zipIdx.filter fun p => bit p.1 (7 - m)).map (·.2)) else 0

/-- VPKN (R436, R438). -/
def execVpkn (h : Hdr) (ty : Ty) (vd va vs : VOp) (rm : RMode) (s : State) : Host.Outcome State Fault Refusal :=
  finish s (groupWord s h fun m => ganged s
    (let g := s.cur
     let a := g.arch
     let d := vref a vd
     let x := vref a va
     let c := vref a vs
     guardTrap (firstTrap [boundAll g.allot [d, x, c] 0, poisonRef a x m, poisonRef a c m])
       (whenAny s m
         (let res := (List.range 32).map fun e =>
            if bit m e then toPi ty.pik rm (loHalf (a.getRef c e).bits) (f32 (a.getRef x e).bits) else (0, fNone)
          let q := res.map (·.1)
          .done (s.modArch fun b =>
            (b.writeLanes d ((List.range 32).map fun l => (l, packPlanes ty.pik q l))).raise
              (orFlags (res.map (·.2))))))))

/-- The q value of an element from plane words (R437). -/
def unpackPlanes (k : Nat) (planes : List Lane) (l : Nat) : BitVec 8 :=
  maskOf 8 ((planes.zipIdx.filter fun p => p.2 < k && bit p.1 l).map fun p => 7 - p.2)

/-- VUPN (R437, R438). -/
def execVupn (h : Hdr) (ty : Ty) (vd va vs : VOp) (_rm : RMode) (s : State) : Host.Outcome State Fault Refusal :=
  finish s (groupWord s h fun m => ganged s
    (let g := s.cur
     let a := g.arch
     let d := vref a vd
     let x := vref a va
     let c := vref a vs
     let low : Mask := if m = 0 then 0 else maskOf 32 (List.range ty.pik)
     guardTrap (firstTrap [boundAll g.allot [d, x, c] 0, poisonRef a x low, poisonRef a c m])
       (let planes := (List.range ty.pik).map fun l => (a.getRef x l).bits
        let res := (lanes m).map fun l => (l, ofPi (loHalf (a.getRef c l).bits) (unpackPlanes ty.pik planes l))
        .done (s.modArch fun b =>
          (b.writeLanes d (res.map fun p => (p.1, BitVec.ofNat 32 p.2.bits))).raise (orFlags (res.map fun p => p.2.flags))))))

/-- The mould of the special functions (R426). -/
def specialWord (s : State) (h : Hdr) (vd va : VOp) (f : Nat → FRes) : Eff := vec1 s h vd va fun x => laneOf (f (f32 x))

/-- VEXP.e (R120, R426). -/
def execVexpE (h : Hdr) (vd va : VOp) (_rm : RMode) (s : State) : Host.Outcome State Fault Refusal :=
  finish s (specialWord s h vd va fExp)

/-- VEXP.2 (R119, R426). -/
def execVexp2 (h : Hdr) (vd va : VOp) (_rm : RMode) (s : State) : Host.Outcome State Fault Refusal :=
  finish s (specialWord s h vd va fExp2)

/-- VLOG (R117, R426). -/
def execVlog (h : Hdr) (vd va : VOp) (_rm : RMode) (s : State) : Host.Outcome State Fault Refusal :=
  finish s (specialWord s h vd va fLog)

/-- VRCP (R121, R426). -/
def execVrcp (h : Hdr) (vd va : VOp) (_rm : RMode) (s : State) : Host.Outcome State Fault Refusal :=
  finish s (specialWord s h vd va fRcp)

/-- VRSQ (R117, R426). -/
def execVrsq (h : Hdr) (vd va : VOp) (_rm : RMode) (s : State) : Host.Outcome State Fault Refusal :=
  finish s (specialWord s h vd va fRsq)

/-- VSQRT (R117, R426). -/
def execVsqrt (h : Hdr) (vd va : VOp) (_rm : RMode) (s : State) : Host.Outcome State Fault Refusal :=
  finish s (specialWord s h vd va fSqrt)

/-- VACT (R122, R421). -/
def execVact (h : Hdr) (mode : Act) (vd va : VOp) (_rm : RMode) (s : State) : Host.Outcome State Fault Refusal :=
  finish s (specialWord s h vd va (fAct mode))

/-- VGATE (R123, R421). -/
def execVgate (h : Hdr) (mode : Act) (vd vx vy : VOp) (_rm : RMode) (s : State) : Host.Outcome State Fault Refusal :=
  finish s (vec2 s h vd vx vy fun x y => laneOf (fGate mode (f32 x) (f32 y)))

end Sys2Proof.Machine
end

