-- ==== Sys2Proof/Machine/Cross.lean ====
section
/-! DEFINITION. The cross-lane words, the soft-maximum words, the row statistics and VRNG (R68, R69, R237 to R240, R325, R434 to R446). -/

namespace Sys2Proof.Machine

open Sys2Proof

/-- MEMBER with its lanes and subcode (R249). -/
def memberTrap (m : Mask) (sub : Nat) : Trap :=
  { cause := .member, einfo := m.setWidth 64 <<< 32 ||| BitVec.ofNat 64 sub }

/-- The cases of R68 in order: a trap, a wait for slices of other candidates, or the word executes. `src` names lanes that a shuffle
reads. -/
def memberCheck (s : State) (m named src : Mask) (k : Eff) : Eff :=
  let a := s.cur.arch
  let c := s.curCand
  let exited := a.exitedMask
  let off := named &&& lanesOfSlices c.slices &&& ~~~(a.activeOf c.slices) &&& ~~~exited
  let away := named &&& ~~~exited &&& ~~~(lanesOfSlices c.slices)
  if m &&& ~~~named ≠ 0 then .trap (memberTrap (m &&& ~~~named) 1)
  else if off ≠ 0 then .trap (memberTrap off 2)
  else if s.det && ((named ||| src) &&& exited) ≠ 0 then .trap (memberTrap ((named ||| src) &&& exited) 3)
  else if away ≠ 0 then .stall (.convergent named)
  else k

/-- The mould of cross-lane words (R440): field and bound checks, the cases of R68, POISON, then the effect. POISON is tested of the mask and
of the named lanes where no lane executes too: the model's choice between R270 and R440 (log 123). -/
def crossWord (s : State) (h : Hdr) (bounds : List (Option Trap)) (sk : BitVec 6) (src : Mask → Mask)
    (poison : Mask → Mask → List (Option Trap)) (k : Mask → Mask → Eff) : Eff :=
  groupWord s h fun m =>
    let a := s.cur.arch
    let named : Mask := (a.valS sk).setWidth 32
    guardTrap (firstTrap bounds)
      (memberCheck s m named (src m)
        (guardTrap (firstTrap (poison m named ++ [poisonLo a sk])) (k m named)))

/-- The identity of an operation under a type (R69). -/
def identity (op : RedOp) (t : Ty) : Lane :=
  match op, t with
  | .and, _ => 0xFFFFFFFF
  | .max, .f32 => 0xFF800000
  | .max, .s32 => 0x80000000
  | .min, .f32 => 0x7F800000
  | .min, .s32 => 0x7FFFFFFF
  | .min, _ => 0xFFFFFFFF
  | _, _ => 0

/-- One combination step of VRED and VSCAN (R442). -/
def redStep (op : RedOp) (t : Ty) (x y : Lane) : Lane × Flags :=
  match op with
  | .add => if t = .f32 then laneOf (add32 (f32 x) (f32 y)) else (x + y, fNone)
  | .and => (x &&& y, fNone)
  | .or => (x ||| y, fNone)
  | .xor => (x ^^^ y, fNone)
  | .max => if t = .f32 then laneOf (fMax fmtF32 (f32 x) (f32 y)) else (maxInt (signedTy t) x y, fNone)
  | .min => if t = .f32 then laneOf (fMin fmtF32 (f32 x) (f32 y)) else (minInt (signedTy t) x y, fNone)

/-- The leaves of a lane tree: named lanes with their values, exited ones with the identity (R69, R116). -/
def treeLeaves (named exited : Mask) (val : Nat → Lane) (ident : Lane) : List (Option Lane) :=
  (List.range 32).map fun l => if bit named l then some (if bit exited l then ident else val l) else none

/-- The value of a lane tree over 32 lanes, the identity when no lane is named (R116). -/
def treeOf (f : Lane → Lane → Lane × Flags) (named exited : Mask) (val : Nat → Lane) (ident : Lane) : Lane × Flags :=
  let r := laneTree f 5 (treeLeaves named exited val ident)
  (r.1.getD ident, r.2)

/-- VRED (R441, R442). -/
def execVred (h : Hdr) (op : RedOp) (ty : Ty) (sd : BitVec 6) (va : VOp) (sk : BitVec 6) (_rm : RMode) (s : State) :
    Host.Outcome State Fault Refusal :=
  let g := s.cur
  let a := g.arch
  let r := vref a va
  finish s (crossWord s h [boundRef g.allot 1 r] sk (fun _ => 0)
    (fun _ named => [poisonRef a r (named &&& ~~~a.exitedMask)])
    fun m named => whenAny s m
      (let t := treeOf (redStep op ty) named a.exitedMask (fun l => (a.getRef r l).bits) (identity op ty)
       .done (s.modArch fun b => (b.setS sd (extend32 ty t.1)).raise t.2)))

/-- VSCAN (R441, R442). -/
def execVscan (h : Hdr) (op : RedOp) (ty : Ty) (vd va : VOp) (sk : BitVec 6) (_rm : RMode) (s : State) :
    Host.Outcome State Fault Refusal :=
  let g := s.cur
  let a := g.arch
  let d := vref a vd
  let r := vref a va
  finish s (crossWord s h [boundAll g.allot [d, r] 0] sk (fun _ => 0)
    (fun _ named => [poisonRef a r (named &&& ~~~a.exitedMask)])
    fun m named =>
      let res := (lanes m).map fun l =>
        (l, treeOf (redStep op ty) (named &&& ((1 : Mask) <<< (l + 1) - 1)) a.exitedMask (fun j => (a.getRef r j).bits)
              (identity op ty))
      .done (s.modArch fun b =>
        (b.writeLanes d (res.map fun p => (p.1, p.2.1))).raise (orFlags (res.map fun p => p.2.2))))

/-- The lanes a VSHFL takes as sources. -/
def shuffleSources (a : Arch) (i : VRef) (named m : Mask) : Mask :=
  maskOf 32 ((lanes m).map fun l =>
    let j := (a.getRef i l).bits.toNat % 32
    if bit named j then j else l)

/-- VSHFL (R439). -/
def execVshfl (h : Hdr) (vd va vi : VOp) (sk : BitVec 6) (_rm : RMode) (s : State) : Host.Outcome State Fault Refusal :=
  let g := s.cur
  let a := g.arch
  let d := vref a vd
  let r := vref a va
  let i := vref a vi
  let ex := a.exitedMask
  finish s (crossWord s h [boundAll g.allot [d, r, i] 0] sk
    (fun m => shuffleSources a i ((a.valS sk).setWidth 32) m)
    (fun m named => [poisonRef a i m, poisonRef a r (shuffleSources a i named m &&& ~~~ex)])
    fun m named =>
      let res := (lanes m).map fun l =>
        let j := (a.getRef i l).bits.toNat % 32
        if !bit named j then (l, (a.getRef r l).bits, fNone)
        else if bit ex j then (l, 0, fMemberx)
        else (l, (a.getRef r j).bits, fNone)
      .done (s.modArch fun b =>
        (b.writeLanes d (res.map fun p => (p.1, p.2.1))).raise (orFlags (res.map fun p => p.2.2))))

/-- VVOTE (R325). -/
def execVvote (h : Hdr) (sd : BitVec 6) (pa : BitVec 4) (sk : BitVec 6) (_rm : RMode) (s : State) :
    Host.Outcome State Fault Refusal :=
  let a := s.cur.arch
  finish s (crossWord s h [] sk (fun _ => 0) (fun _ _ => [])
    fun m named => whenAny s m
      (.done (s.modArch fun b => b.setS sd ((named &&& ~~~a.exitedMask &&& a.getP pa).setWidth 64))))

/-- VRANK (R325). -/
def execVrank (h : Hdr) (vd : VOp) (sa sk : BitVec 6) (_rm : RMode) (s : State) : Host.Outcome State Fault Refusal :=
  let g := s.cur
  let a := g.arch
  let d := vref a vd
  finish s (crossWord s h [boundRef g.allot 0 d] sk (fun _ => 0) (fun m _ => [if m = 0 then none else poisonLo a sa])
    fun m named =>
      let set : Mask := (a.valS sa).setWidth 32 &&& named
      .done (s.modArch fun b => b.writeLanes d ((lanes m).map fun l =>
        (l, BitVec.ofNat 32 (popcount (set &&& ((1 : Mask) <<< l - 1)))))))

/-- Poison of the vector elements of named lanes that have not exited (R440). -/
def poisonNamed (a : Arch) (r : VRef) (named : Mask) : Option Trap := poisonRef a r (named &&& ~~~a.exitedMask)

/-- VSMAX: the maximum of the named lanes, masked positions −∞, and of the running value (R237, R445). -/
def execVsmax (h : Hdr) (sd : BitVec 6) (va : VOp) (pm : BitVec 4) (sk : BitVec 6) (_rm : RMode) (s : State) :
    Host.Outcome State Fault Refusal :=
  let g := s.cur
  let a := g.arch
  let r := vref a va
  finish s (crossWord s h [boundRef g.allot 1 r] sk (fun _ => 0)
    (fun m named => [poisonNamed a r named, if m = 0 then none else poisonLo a sd])
    fun m named => whenAny s m
      (let t := treeOf (redStep .max .f32) named a.exitedMask
          (fun l => if bit (a.getP pm) l then (a.getRef r l).bits else 0xFF800000) 0xFF800000
       let v := redStep .max .f32 ((a.valS sd).setWidth 32) t.1
       .done (s.modArch fun b => (b.setS sd (v.1.setWidth 64)).raise (t.2 ||| v.2))))

/-- A lane's e of VSEXP (R238). -/
def softExp (masked : Bool) (x m : Nat) : FRes :=
  let ux := unpack fmtF32 x
  let um := unpack fmtF32 m
  if masked || ux == .inf true then zeroRes fmtF32 false
  else if ux.isNan || um.isNan then nanRes fmtF32 (sigFlag [ux, um])
  else if um == .inf false then (if ux == .inf false then ⟨f32One, fNone⟩ else zeroRes fmtF32 false)
  else
    let d := sub32 x m
    let e := fExp d.bits
    ⟨e.bits, d.flags ||| e.flags⟩

/-- VSEXP: the flags of each e are those of executing lanes (R102, R238, R445). -/
def execVsexp (h : Hdr) (vd va : VOp) (ss sm sk : BitVec 6) (pm : BitVec 4) (s : State) :
    Host.Outcome State Fault Refusal :=
  let g := s.cur
  let a := g.arch
  let d := vref a vd
  let r := vref a va
  finish s (crossWord s h [boundRef g.allot 0 d, boundRef g.allot 2 r] sk (fun _ => 0)
    (fun m named => [poisonNamed a r named, if m = 0 then none else poisonLo a ss, if m = 0 then none else poisonLo a sm])
    fun m named => whenAny s m
      (let mx := f32 ((a.valS sm).setWidth 32)
       let es := (List.range 32).map fun l =>
         if bit (named &&& ~~~a.exitedMask) l then softExp (!bit (a.getP pm) l) (f32 (a.getRef r l).bits) mx
         else zeroRes fmtF32 false
       let e (l : Nat) : Lane := BitVec.ofNat 32 (es.getD l ⟨0, fNone⟩).bits
       let t := treeOf (redStep .add .f32) named a.exitedMask e 0
       let v := redStep .add .f32 ((a.valS ss).setWidth 32) t.1
       .done (s.modArch fun b =>
         ((b.writeLanes d ((lanes m).map fun l => (l, e l))).setS ss (v.1.setWidth 64)).raise
           (orFlags ((lanes m).map fun l => (es.getD l ⟨0, fNone⟩).flags) ||| t.2 ||| v.2))))

/-- A lane's result of VSDIV, with whether it comes from the last case (R239). -/
def softDiv (masked : Bool) (e s rcp : Nat) : FRes × Bool :=
  let ue := unpack fmtF32 e
  let us := unpack fmtF32 s
  if ue.isNan || us.isNan then (nanRes fmtF32 (sigFlag [ue, us]), false)
  else if masked || s % 2 ^ 31 == 0 then (zeroRes fmtF32 false, false)
  else (mul32 e rcp, true)

/-- VSDIV (R239, R446). -/
def execVsdiv (h : Hdr) (vd va : VOp) (ss : BitVec 6) (pm : BitVec 4) (_rm : RMode) (s : State) :
    Host.Outcome State Fault Refusal :=
  finish s (groupWord s h fun m =>
    let g := s.cur
    let a := g.arch
    let d := vref a vd
    let r := vref a va
    guardTrap (firstTrap [boundAll g.allot [d, r] 0, poisonRef a r m, if m = 0 then none else poisonLo a ss])
      (let sv := f32 ((a.valS ss).setWidth 32)
       let rcp := fRcp sv
       let res := (lanes m).map fun l => (l, softDiv (!bit (a.getP pm) l) (f32 (a.getRef r l).bits) sv rcp.bits)
       .done (s.modArch fun b =>
         (b.writeLanes d (res.map fun p => (p.1, BitVec.ofNat 32 p.2.1.bits))).raise
           (orFlags (res.map fun p => p.2.1.flags)
            ||| flagIf (res.any fun p => p.2.2) rcp.flags
            ||| flagIf (m != 0 && sv % 2 ^ 31 == 0) fEmptyrow))))

/-- VMOMS: the flags of each square are those of executing lanes (R102, R240, R434). -/
def execVmoms (h : Hdr) (sd : BitVec 6) (va : VOp) (pm : BitVec 4) (sk : BitVec 6) (_rm : RMode) (s : State) :
    Host.Outcome State Fault Refusal :=
  let g := s.cur
  let a := g.arch
  let r := vref a va
  finish s (crossWord s h [boundRef g.allot 1 r] sk (fun _ => 0)
    (fun m named => [poisonNamed a r named, if m = 0 then none else poisonS a sd])
    fun m named => whenAny s m
      (let on (l : Nat) : Bool := bit (named &&& ~~~a.exitedMask) l && bit (a.getP pm) l
       let x (l : Nat) : Lane := if on l then (a.getRef r l).bits else 0
       let sq (l : Nat) : FRes := if on l then mul32 (f32 (x l)) (f32 (x l)) else zeroRes fmtF32 false
       let t1 := treeOf (redStep .add .f32) named a.exitedMask x 0
       let t2 := treeOf (redStep .add .f32) named a.exitedMask (fun l => BitVec.ofNat 32 (sq l).bits) 0
       let v1 := redStep .add .f32 ((a.valS sd).extractLsb' 0 32) t1.1
       let v2 := redStep .add .f32 ((a.valS sd).extractLsb' 32 32) t2.1
       .done (s.modArch fun b => (b.setS sd (v2.1 ++ v1.1)).raise
         (orFlags ((lanes m).map fun l => (sq l).flags) ||| t1.2 ||| t2.2 ||| v1.2 ||| v2.2))))

/-- VRNG (R125, R443). -/
def execVrng (h : Hdr) (ty : Ty) (w : BitVec 2) (vd : VOp) (sc : BitVec 6) (_rm : RMode) (s : State) :
    Host.Outcome State Fault Refusal :=
  finish s (groupWord s h fun m =>
    let g := s.cur
    let a := g.arch
    let d := vref a vd
    guardTrap (firstTrap [boundRef g.allot 0 d, if m = 0 then none else poisonS a sc])
      (.done (s.modArch fun b => b.writeLanes d ((lanes m).map fun l =>
        let u := hashWord g.seed (a.valS sc + BitVec.ofNat 64 l) w.toNat
        (l, if ty = .f32 then BitVec.ofNat 32 (unitFloat u) else u)))))

end Sys2Proof.Machine
end

