-- ==== Sys2Proof/Machine/MatrixData.lean ====
section
/-! DEFINITION. The data of the matrix engine: fragment images (R198, R199), format blocks (R109, R110), exact sums rounded once (R113,
R114), the compression of MCOMP (R202) and the sweeps of the factor tile (R216 to R218). -/

namespace Sys2Proof.Machine

open Sys2Proof

/-! Formats. -/

def tyFmt (t : Ty) : Fmt :=
  match t with
  | .b16 => .b16
  | .h16 => .h16
  | .f32 => .f32
  | t => .pi t.pik

/-- K of the shape that a format belongs to (R110). -/
def Fmt.extent (f : Fmt) : Nat :=
  match f with
  | .f32 => 8
  | .b16 | .h16 => 16
  | .pi k => 256 / planeRoom k

def Fmt.isPi (f : Fmt) : Bool :=
  match f with
  | .pi _ => true
  | _ => false

/-- Registers of a dense fragment that are read (R198), and of sparse values (R199). -/
def Fmt.denseRegs (f : Fmt) : Nat :=
  match f with
  | .pi k => 8 * k / planeRoom k
  | _ => 8
def Fmt.sparseRegs (f : Fmt) : Nat :=
  match f with
  | .pi k => ceilDiv (k * (2 * (256 / planeRoom k))) 128
  | _ => 4

/-! Images (R198, R199). -/

/-- Element e of an image whose 32-bit words w gives and whose rows have n elements: the raw bits, for PIk the value q of 8 bits. -/
def rawElt (f : Fmt) (n : Nat) (w : Nat → Lane) (e : Nat) : Lane :=
  match f with
  | .f32 => w e
  | .b16 | .h16 => (w (e / 2) >>> (16 * (e % 2))) &&& 0xFFFF
  | .pi k => maskOf 32 (((List.range k).filter fun j => bit (w (j * n + e / 32)) (e % 32)).map (7 - ·))

/-- The image that registers from base on hold, word i in lane i mod 32 of register i div 32. -/
def imageWord (a : Arch) (base : Nat) (i : Nat) : Lane := (a.getV (base + i / 32) (i % 32)).bits

/-- The dense fragment in registers. -/
def denseFrag (a : Arch) (f : Fmt) (base : Nat) (sc : Option ScaleAt) : Frag :=
  let k := f.extent
  { fmt := f, elts := (List.range (32 * k)).map (rawElt f k (imageWord a base)), scale := sc }

/-- Index of kept element e in its group of four (R199). -/
def metaIndex (a : Arch) (base e : Nat) : Nat := (imageWord a base (e / 16)).toNat / 2 ^ (2 * (e % 16)) % 4

/-- Whether the two indices of every group of four ascend (R199). -/
def metaOk (a : Arch) (base k : Nat) : Bool :=
  (List.range (8 * k)).all fun g => metaIndex a base (2 * g) < metaIndex a base (2 * g + 1)

/-- The position among 32 rows of k elements of kept element e. -/
def keptAt (a : Arch) (base k e : Nat) : Nat := e / (k / 2) * k + 4 * (e % (k / 2) / 2) + metaIndex a base e

/-- The sparse fragment in registers, expanded: elements that are not kept are 0 (R200). -/
def sparseFrag (a : Arch) (f : Fmt) (vals md : Nat) (sc : Option ScaleAt) : Frag :=
  let k := f.extent
  let at_ := (List.range (16 * k)).map fun e => (keptAt a md k e, rawElt f (k / 2) (imageWord a vals) e)
  { fmt := f, elts := (List.range (32 * k)).map fun i => (assoc at_ i).getD 0,
    kept := some ((List.range (32 * k)).map fun i => (assoc at_ i).isSome), scale := sc }

/-! Scales (R107, R108). -/

/-- The number of the scale of element (row, k). -/
def ScaleAt.block (s : ScaleAt) (row k : Nat) : Nat := (s.org + row * 2 ^ s.pitch + k) / 2 ^ s.shift

/-- The address of a scale. -/
def ScaleAt.addr (s : ScaleAt) (block : Nat) : Nat := (s.base.toNat + 2 * block) % 2 ^ 64

/-- Whether element i is among the products of a fragment. -/
def Frag.has (f : Frag) (i : Nat) : Bool :=
  match f.kept with
  | some l => l.getD i false
  | none => true

/-- The scale of element (row, k) as an address; none when unscaled. -/
def Frag.scaleOf (f : Frag) (row k : Nat) : Option Nat := f.scale.map fun s => s.addr (s.block row k)

/-- The addresses of the scales of a fragment: those of every position of its chunk, for the element that is not kept has the value 0
and its block a scale all the same (R107, R114, R200). -/
def Frag.scaleAddrs (f : Frag) : List Nat :=
  let k := f.fmt.extent
  ((List.range (32 * k)).filterMap fun i => f.scaleOf (i / k) (i % k)).eraseDups

/-! Format blocks (R109, R110). -/

/-- The format of a code; none where the code is reserved. -/
def fmtCode (suffix : Fmt) (c : Nat) : Option Fmt :=
  match c with
  | 0 => some suffix
  | 1 => some .f32
  | 2 => some .b16
  | 3 => some .h16
  | n => if 8 ≤ n ∧ n ≤ 14 then some (.pi (n - 6)) else none

/-- One operand of a format block: its format and its scales; none where R110 makes the word UNDEF. -/
def blockOperand (suffix : Fmt) (fcode blk shift pitch : Nat) (scaled : Bool) (base : Word) (org : Nat) :
    Option (Fmt × Option ScaleAt) :=
  match fmtCode suffix fcode with
  | none => none
  | some f =>
    if f.extent ≠ suffix.extent then none
    else if !scaled then some (f, none)
    else if !f.isPi || blk = 3 || shift < 4 + blk then none
    else some (f, some { base := base, org := org, pitch := pitch, shift := shift })

/-- The operands that the format block from register n on names; n = 0 stands for the suffix, unscaled (R109). -/
def formatBlock (a : Arch) (suffix : Fmt) (n : BitVec 6) : Option ((Fmt × Option ScaleAt) × (Fmt × Option ScaleAt)) :=
  if n = 0 then some ((suffix, none), (suffix, none)) else
  let w := a.valS n
  let o := a.valS (n + 3)
  let f (lo len : Nat) : Nat := w.toNat / 2 ^ lo % 2 ^ len
  if f 48 16 ≠ 0 ∨ f 2 14 ≠ 0 then none else
  match blockOperand suffix (f 44 4) (f 38 2) (f 31 5) (f 21 5) (bit w 1) (a.valS (n + 1)) (o.toNat % 2 ^ 32),
        blockOperand suffix (f 40 4) (f 36 2) (f 26 5) (f 16 5) (bit w 0) (a.valS (n + 2)) (o.toNat / 2 ^ 32) with
  | some x, some y => some (x, y)
  | _, _ => none

/-! Exact sums (R113, R114). -/

/-- The value of a raw floating-point element. -/
def fmtVal (f : Fmt) (w : Lane) : FVal :=
  match f with
  | .f32 => unpack fmtF32 w.toNat
  | .b16 => unpack fmtB16 w.toNat
  | .h16 => unpack fmtH16 w.toNat
  | .pi _ => .fin (w.toNat ≥ 128) (if w.toNat ≥ 128 then 256 - w.toNat else w.toNat) (-7)

/-- The exact product of values, and whether forming it is invalid. -/
def mulVals (l : List FVal) : FVal × Bool :=
  let neg := (l.map fun v => match v with
    | .fin n _ _ | .inf n => n
    | .nan _ => false).foldl xor false
  let zero := l.any fun v => match v with
    | .fin _ m _ => m == 0
    | _ => false
  let inf := l.any fun v => match v with
    | .inf _ => true
    | _ => false
  if l.any FVal.isNan then (.nan false, l.any FVal.isSig)
  else if inf then (if zero then (.nan false, true) else (.inf neg, false))
  else l.foldl (fun p v => match p.1, v with
    | .fin n m e, .fin _ m' e' => (.fin n (m * m') (e + e'), false)
    | _, _ => p) (.fin neg 1 0, false)

/-- The sum of exact terms, rounded once by RNE (R113, R114). The rules give no sign to a sum that is exactly zero: here −0 where every
term is −0, else +0, a term with D = 0 taking the sign of its scales' product; the model's choice (log 92). So is that infinities of both
signs beside a NaN raise no INV (R102, log 116). -/
def sumVals (l : List (FVal × Bool)) : FRes :=
  let inv := l.any (·.2)
  let infs := l.filterMap fun p => match p.1 with
    | .inf n => some n
    | _ => none
  let fins := l.filterMap fun p => match p.1 with
    | .fin n m e => some (n, m, e)
    | _ => none
  if l.any fun p => p.1.isNan then nanRes fmtF32 (flagIf inv fInv)
  else match infs with
    | n :: r => if r.all (· == n) then infRes fmtF32 n fNone else nanRes fmtF32 fInv
    | [] =>
      let live := fins.filter fun p => p.2.1 != 0
      let e0 : Int := live.foldl (fun m p => min m p.2.2) 0
      let tot : Int := live.foldl (fun t p => t + signedInt p.1 (p.2.1 * 2 ^ (p.2.2 - e0).toNat)) 0
      roundSigned fmtF32 .rne tot e0 (!fins.isEmpty && fins.all (·.1))

/-- The scale at an address: its value and its poison. -/
def scaleVal (sc : List (Nat × BitVec 16 × Bool)) (a : Option Nat) : FVal × Bool :=
  match a with
  | none => (.fin false 1 0, false)
  | some a => match sc.find? fun p => p.1 = a with
    | some p => (unpack fmtB16 p.2.1.toNat, p.2.2)
    | none => (.fin false 0 0, true)

/-- Terms of element (m, n) of a floating-point multiply; an element that is not kept is 0, so that its product with an infinity is a
NaN, as it is in the MMA on the same operands (R113, R200). -/
def floatTerms (a b : Frag) (m n : Nat) : List (FVal × Bool) :=
  let k := a.fmt.extent
  (List.range k).map fun i => mulVals [fmtVal a.fmt (a.elts.getD (m * k + i) 0), fmtVal b.fmt (b.elts.getD (n * k + i) 0)]

/-- q of a raw PIk element. -/
def qOf (w : Lane) : Int := (w.setWidth 8).toInt

/-- Terms of element (m, n) of a PIk multiply, one for each pair of scale blocks of the chunk, and whether a scale is poisoned (R114); a
pair with no kept position has D = 0 (R200). Positions that share their scales' addresses form one pair: the rule does not say whether
ABLK and BBLK divide them further where the shift exceeds the block length, which only shows with an infinite scale; the model's choice
(log 91). -/
def planeTerms (a b : Frag) (sc : List (Nat × BitVec 16 × Bool)) (m n : Nat) : List (FVal × Bool) × Bool :=
  let k := a.fmt.extent
  let on := (List.range k).filter fun i => a.has (m * k + i)
  let key (i : Nat) : Option Nat × Option Nat := (a.scaleOf m i, b.scaleOf n i)
  let keys := ((List.range k).map key).eraseDups
  (keys.map fun c =>
      let d : Int := (on.filter fun i => key i == c).foldl
        (fun t i => t + qOf (a.elts.getD (m * k + i) 0) * qOf (b.elts.getD (n * k + i) 0)) 0
      mulVals [.fin (decide (d < 0)) d.natAbs (-14), (scaleVal sc c.1).1, (scaleVal sc c.2).1],
   keys.any fun c => (scaleVal sc c.1).2 || (scaleVal sc c.2).2)

/-- Element (m, n) of a multiply: the new element and its flags (R200, R271). That one computed from a poisoned accumulator element or a
poisoned scale raises none is the model's choice (R115, log 110). -/
def mmaElt (a b : Frag) (sc : List (Nat × BitVec 16 × Bool)) (acc : Elt) (m n : Nat) : Elt × Flags :=
  let t := if a.fmt.isPi then planeTerms a b sc m n else (floatTerms a b m n, false)
  let r := sumVals (mulVals [unpack fmtF32 acc.bits.toNat] :: t.1)
  (⟨BitVec.ofNat 32 r.bits, acc.poison || t.2⟩, if acc.poison || t.2 then fNone else r.flags)

/-- Element (m, n) of a tile. -/
def Tile.elt (t : Tile) (m n : Nat) : Elt := Store.get t.elts (32 * m + n)

/-- A multiply into a tile, which leaves it in matrix mode (R200, R211). -/
def mmaTile (a b : Frag) (sc : List (Nat × BitVec 16 × Bool)) (t : Tile) : Tile × Flags :=
  let res := (List.range 1024).map fun i => (i, mmaElt a b sc (Store.get t.elts i) (i / 32) (i % 32))
  ({ mode := .matrix, elts := Store.putAll [] (res.map fun p => (p.1, p.2.1)) }, orFlags (res.map fun p => p.2.2))

/-! MCOMP (R202). -/

/-- The rank of an element: NaN above ∞ above the rest by magnitude. -/
def keepRank (f : Fmt) (w : Lane) : Nat :=
  match f with
  | .pi _ => (qOf w).natAbs
  | f => match fmtVal f w with
    | .nan _ => 2 ^ 40
    | .inf _ => 2 ^ 39
    | .fin _ _ _ => w.toNat % (if f = .f32 then 2 ^ 31 else 2 ^ 15)

/-- The two elements of a group of four that are kept, as indices in ascending order. -/
def keepTwo (f : Fmt) (x : Nat → Lane) : Nat × Nat :=
  let better (i j : Nat) : Bool := keepRank f (x i) > keepRank f (x j) || (keepRank f (x i) == keepRank f (x j) && i < j)
  let kept := (List.range 4).filter fun i => ((List.range 4).filter fun j => better j i).length < 2
  (kept.getD 0 0, kept.getD 1 1)

/-- The kept elements of a dense image with their indices, in the order of R199. -/
def compress (f : Fmt) (x : Nat → Lane) : List (Lane × Nat) :=
  (List.range (8 * f.extent)).flatMap fun g =>
    let p := keepTwo f fun i => x (4 * g + i)
    [(x (4 * g + p.1), p.1), (x (4 * g + p.2), p.2)]

/-- Word i of the sparse image of kept values. -/
def sparseWord (f : Fmt) (vals : List Lane) (i : Nat) : Lane :=
  match f with
  | .pi k =>
    let n := f.extent / 2
    let j := i / n
    if k ≤ j then 0 else maskOf 32 ((List.range 32).filter fun b => bit (vals.getD (32 * (i % n) + b) 0) (7 - j))
  | _ => (vals.getD (2 * i) 0 &&& 0xFFFF) ||| (vals.getD (2 * i + 1) 0 <<< 16)

/-- Word i of the metadata image. -/
def metaWord (idx : List Nat) (i : Nat) : Lane :=
  BitVec.ofNat 32 (sumOf ((List.range 16).map fun j => idx.getD (16 * i + j) 0 * 2 ^ (2 * j)))

/-- The registers that MCOMP writes, from d and from m on: sparse values, then metadata (R202, R366). -/
def mcompWrites (a : Arch) (f : Fmt) (src d m : Nat) : List (Nat × Elt) × List (Nat × Elt) :=
  let k := f.extent
  let c := compress f (rawElt f k (imageWord a src))
  let vals := c.map (·.1)
  let idx := c.map (·.2)
  ((List.range 128).map fun i => (vecKey (d + i / 32) (i % 32), ⟨sparseWord f vals i, false⟩),
   (List.range (32 * ceilDiv k 32)).map fun i => (vecKey (m + i / 32) (i % 32), ⟨if i < k then metaWord idx i else 0, false⟩))

/-! The sweeps of the factor tile (R216 to R218). -/

/-- Whether an FP32 encoding is positive and finite. -/
def posFinite (x : Nat) : Bool :=
  match unpack fmtF32 x with
  | .fin neg m _ => !neg && m != 0
  | _ => false

/-- Positive, normal and finite (R215). -/
def posNormal (x : Nat) : Bool := posFinite x && decide (2 ^ 23 ≤ x)

/-- The exact test of a downdate: a² − b² > 2⁻²⁰ a² (R216). -/
def downdateOk (a b : Nat) : Bool :=
  match unpack fmtF32 a, unpack fmtF32 b with
  | .fin _ m1 e1, .fin _ m2 e2 =>
    let e := min e1 e2
    let x := m1 * 2 ^ (e1 - e).toNat
    let y := m2 * 2 ^ (e2 - e).toNat
    decide (y * y * 2 ^ 20 < x * x * (2 ^ 20 - 1))
  | _, _ => false

/-- Exact products summed and rounded once: each term is a sign and two factors. -/
def dotRound (l : List (Bool × Nat × Nat)) : FRes :=
  sumVals (l.map fun t => mulVals [.fin t.1 1 0, unpack fmtF32 t.2.1, unpack fmtF32 t.2.2])

def f1 : Nat := 0x3F800000

/-- A value with its poison and the flags of its forming; a poisoned one raises none. -/
structure Val where
  bits : Nat
  poison : Bool
  flags : Flags := fNone
  deriving DecidableEq, Repr

/-- A value computed from some others. One that is poisoned raises no flag: R271 says only that it is poisoned; the model's choice
(log 110). -/
def Val.from_ (xs : List Val) (r : FRes) : Val :=
  let p := xs.any (·.poison)
  ⟨r.bits, p, if p then fNone else r.flags⟩

def Elt.val (e : Elt) : Val := { bits := e.bits.toNat, poison := e.poison }
def Val.elt (v : Val) : Elt := ⟨BitVec.ofNat 32 v.bits, v.poison⟩

/-- A lower-triangular factor being swept: element (i, k) at 32 i + k, the private copy of w, flags, and a loss with its column and
kind. -/
structure Sweep where
  l : List (Nat × Val)
  w : List Val
  flags : Flags
  lost : Option (Nat × Nat)

/-- An element of a list of values. -/
def valAt (l : List Val) (i : Nat) : Val := l.getD i ⟨0, false, fNone⟩

/-- Element (i, k) of the factor. -/
def Sweep.elt (v : Sweep) (i k : Nat) : Val := (assoc v.l (32 * i + k)).getD ⟨0, false, fNone⟩

/-- Column k of the plane sweep, or with σ = −1 of the hyperbolic sweep (R216). Whether a poisoned diagonal is lost is tested on its raw
bits: R216 and R271 do not say; the model's choice (log 110). -/
def sweepColumn (n : Nat) (neg : Bool) (v : Sweep) (k : Nat) : Sweep :=
  if v.lost.isSome then v else
  let a := v.elt k k
  let b := valAt v.w k
  if !posFinite a.bits then { v with lost := some (k, 1) }
  else if neg && !downdateOk a.bits b.bits then { v with lost := some (k, 0) }
  else
    let h := Val.from_ [a, b] (dotRound [(false, a.bits, a.bits), (neg, b.bits, b.bits)])
    let r := Val.from_ [h] (fSqrt h.bits)
    if !(match unpack fmtF32 r.bits with
      | .fin _ _ _ => true
      | _ => false) then { v with lost := some (k, 1) }
    else
      let rho := Val.from_ [a] (fRcp a.bits)
      let c := Val.from_ [r, rho] (mul32 r.bits rho.bits)
      let s := Val.from_ [b, rho] (mul32 b.bits rho.bits)
      let g := Val.from_ [c] (fRcp c.bits)
      let v1 := { v with l := assocPut v.l (32 * k + k) r,
                         flags := v.flags ||| orFlags [h.flags, r.flags, rho.flags, c.flags, s.flags, g.flags] }
      ((List.range (n - (k + 1))).map fun j => k + 1 + j).foldl (fun u i =>
        let wi := valAt u.w i
        let li := u.elt i k
        let t := Val.from_ [li, s, wi] (dotRound [(false, li.bits, f1), (neg, s.bits, wi.bits)])
        let x := Val.from_ [t, g] (mul32 t.bits g.bits)
        let y := Val.from_ [c, wi, s, x] (dotRound [(false, c.bits, wi.bits), (true, s.bits, x.bits)])
        { u with l := assocPut u.l (32 * i + k) x, w := modNth u.w i fun _ => y,
                 flags := u.flags ||| orFlags [t.flags, x.flags, y.flags] }) v1

/-- The lower triangle of a tile, by 32 i + k. -/
def triangle (n : Nat) (t : Tile) : List (Nat × Val) :=
  (List.range 1024).filterMap fun i => if i % 32 ≤ i / 32 ∧ i / 32 < n then some (i, (Store.get t.elts i).val) else none

/-- FTUPD and FTDND on a factor: the sweep's outcome (R216). -/
def sweep (n : Nat) (neg : Bool) (t : Tile) (w : List Lane) : Sweep :=
  (List.range n).foldl (sweepColumn n neg)
    { l := triangle n t, w := w.map (fun x => ⟨x.toNat, false, fNone⟩), flags := fNone, lost := none }

/-- One step of a solve: row i from the values solved so far (R217). -/
def solveStep (t : Tile) (bwd : Bool) (n : Nat) (v : List Lane) (acc : List (Nat × Val) × Flags) (i : Nat) : List (Nat × Val) × Flags :=
  let l (p q : Nat) : Val := (t.elt p q).val
  let ks := if bwd then (List.range n).filter fun k => i < k else List.range i
  let got (k : Nat) : Val := (assoc acc.1 k).getD ⟨0, false, fNone⟩
  let co (k : Nat) : Val := if bwd then l k i else l i k
  let s := Val.from_ (ks.flatMap fun k => [co k, got k]) (dotRound ((false, (v.getD i 0).toNat, f1) ::
    ks.map fun k => (true, (co k).bits, (got k).bits)))
  let q := Val.from_ [s, l i i] (fDiv fmtF32 .rne s.bits (l i i).bits)
  (assocPut acc.1 i q, acc.2 ||| s.flags ||| q.flags)

/-- FTSOLV: the solution in lanes 0 to n − 1, and its flags (R217). -/
def solve (t : Tile) (bwd : Bool) (n : Nat) (v : List Lane) : List (Nat × Val) × Flags :=
  let order := if bwd then (List.range n).reverse else List.range n
  order.foldl (solveStep t bwd n v) ([], fNone)

/-- FTLDET's logarithm of the determinant (R218). -/
def logDet (t : Tile) (n : Nat) : Val :=
  let ds := (List.range n).map fun j => (t.elt j j).val
  let ts := ds.map fun d => fLog d.bits
  let leaves := (List.range 32).map fun j => (ts[j]?).map (·.bits)
  let add (x y : Nat) : Nat × Flags := let r := add32 x y; (r.bits, r.flags)
  let s := laneTree add 5 leaves
  let d := mul32 0x40000000 (s.1.getD 0)
  Val.from_ ds ⟨d.bits, orFlags (ts.map (·.flags)) ||| s.2 ||| d.flags⟩

/-- The status word of a tile (R212). -/
def Tile.status (t : Tile) : Lane :=
  match t.mode with
  | .matrix => 0
  | .factor n => BitVec.ofNat 32 (2 ^ 31 + (n - 1))
  | .lost n col kind => BitVec.ofNat 32 (2 ^ 31 + 2 ^ 30 + col * 2 ^ 8 + kind * 2 ^ 6 + (n - 1))

/-- The mode that a status word stands for (R212, R256). -/
def modeOfStatus (w : Lane) : TileMode :=
  let n := (w.extractLsb' 0 5).toNat + 1
  if !bit w 31 then .matrix
  else if bit w 30 then .lost n (w.extractLsb' 8 5).toNat (w.extractLsb' 6 2).toNat
  else .factor n

end Sys2Proof.Machine
end

