-- ==== Sys2Proof/Machine/System.lean ====
section
/-! DEFINITION. Waits (R153, R159, R447 to R449), YIELD (R455), traps and returns (R245, R253, R416 to R418), special registers (R19 to
R21, R81 to R85, R252, R261, R405 to R413), ICINV (R360), OVTLD (R112, R381), and encodings that the map does not assign (R313). -/

namespace Sys2Proof.Machine

open Sys2Proof

/-! Waits. -/

/-- Whether a wait with a limit on its path requires that an operation be finished (R151, R161): as many as the limit have been issued
after it. -/
def Report.due (r : Report) (lims : List (Path × Nat)) : Bool := lims.any fun p => p.1 == r.path && p.2 ≤ r.younger.length

/-- A report is raised. -/
def dropReport (l : List Report) (r : Report) : List Report := l.filter fun x => !(x.path == r.path && x.seq == r.seq)

/-- Commands issued after the one that ring entry i holds. -/
def ringYounger (next i : Nat) : Nat := (next + 63 - i) % 64

/-- A satisfied wait with a limit on cp lets PSTAT see the commands that it required (R159). -/
def State.sawCommands (s : State) (lim : Nat) : State :=
  s.modCur fun g => { g with ring := (List.range 64).foldl (fun m i =>
    let e := Store.get m i
    if e.ticket != 0 && decide (lim ≤ ringYounger g.arch.ringIdx i) then Store.put m i { e with seen := true } else m) g.ring }

/-- The first of some reports is raised; with none the wait issues (R449). -/
def raiseOr (s : State) (due : List Report) (k : Eff) : Eff :=
  match firstReport due with
  | some r => .trapAfter (s.modCur fun g => { g with reports := dropReport g.reports r }) r.trap
  | none => k

/-- A wait with limits on its paths, at its issue. -/
def waitEff (s : State) (lims : List (Path × Nat)) : Eff :=
  if !s.within lims then .retry
  else
    let s1 := match lims.find? fun p => p.1 == .cp with
      | some p => s.sawCommands p.2
      | none => s
    raiseOr s1 (s.cur.reports.filter fun r => r.due lims) (.done s1)

/-- WAIT (R153, R448). -/
def execWait (h : Hdr) (ld st cp sg mx : BitVec 8) (s : State) : Host.Outcome State Fault Refusal :=
  finish s (groupWord s h fun _ => plainWord s h (switchBefore s (waitEff s (s.waitLimits (.wait h ld st cp sg mx)))))

/-- WAITP (R153, R448). -/
def execWaitp (h : Hdr) (path : Path) (sk : BitVec 6) (s : State) : Host.Outcome State Fault Refusal :=
  finish s (groupWord s h fun _ => plainWord s h (switchBefore s
    (guardTrap (poisonS s.cur.arch sk) (waitEff s (s.waitLimits (.waitp h path sk))))))

/-- NOP (R380). -/
def execNop (h : Hdr) (s : State) : Host.Outcome State Fault Refusal := finish s (anyWord s h fun _ => .done s)

/-- YIELD: it takes effect at the end of its run (R263, R455). -/
def execYield (h : Hdr) (s : State) : Host.Outcome State Fault Refusal :=
  finish s (groupWord s h fun _ => plainWord s h (.done (s.modCand fun c => { c with yielding := true })))

/-! Traps by words. -/

/-- TRAP (R417). -/
def execTrap (h : Hdr) (imm : BitVec 20) (s : State) : Host.Outcome State Fault Refusal :=
  finish s (scalarWord s h (.trap { cause := .swtrap, einfo := imm.setWidth 64 }))

/-- TFENCE (R253, R416). -/
def execTfence (h : Hdr) (s : State) : Host.Outcome State Fault Refusal :=
  let g := s.cur
  let f := g.arch.flags &&& g.trapen.setWidth 10
  finish s (groupScalarWord s h (if f = 0 then .done s else .trap { cause := .arith, einfo := f.setWidth 64 }))

/-- Depths of a slice at handler entry. -/
def Handler.depthOf (h : Handler) (sl : Nat) : Option (Nat × Nat × Nat) := assoc ((bitsOf h.slices).zip h.depths) sl

/-- Whether the depths of a candidate's slices are those at handler entry (R245). -/
def sameDepths (a : Arch) (h : Handler) (set : BitVec 8) : Bool :=
  ((bitsOf set).zip (depthsOf a set)).all fun p => h.depthOf p.1 == some p.2

/-- The writes that words of an interrupted run have still to make to registers that it exports, where the handler gives the run up: it
goes on at another EPC (R245, R311). -/
def State.givenUp (s : State) (h : Handler) : List (Nat × Nat) :=
  match h.run with
  | some r => if s.cur.epc = h.epc then [] else s.exportedBy r
  | none => []

/-- The current candidate leaves handler mode (R245); what it exports in that run ends pending as at any run's end. -/
def State.returnFrom (s : State) (h : Handler) : State :=
  let s1 := (s.keepExports (s.exportedBy s.curRun ++ s.givenUp h)).retire
  if sameDepths s.cur.arch h s.curCand.slices then
    ((s1.modCur fun g => leaveHandler g h s.curLow).releasePort s.curCore s.curSlot s.curLow)
  else s1.endTeam s.cur.team .tretbad s.cur.ecause s.cur.epc s.cur.einfo

/-- TRET (R245, R418). -/
def execTret (h : Hdr) (s : State) : Host.Outcome State Fault Refusal :=
  finish s (groupWord s h fun _ => plainWord s h
    (match s.cur.handler with
     | none => .trap s.undef
     | some v => if s.curCand.slices &&& v.slices = 0 then .trap s.undef else afterResolved s (.final (s.returnFrom v))))

/-! Text and the overflow table. -/

/-- ICINV: a release at DEVICE scope, after which the core's text is discarded (R360). -/
def execIcinv (h : Hdr) (s : State) : Host.Outcome State Fault Refusal :=
  finish s (groupScalarWord s h (.done (s.pushAccess { s.fenceEntry .rel .dev false with icinv := true }).settleQueue))

/-- Whether a value is an overflow table (R112). -/
def goodOvt (v : Word) : Bool :=
  v.extractLsb' 6 58 == 0 && v.extractLsb' 0 2 != 3 && v.extractLsb' 2 2 != 3 && v.extractLsb' 4 2 == 0

/-- OVTLD (R112, R381). -/
def execOvtld (h : Hdr) (sk : BitVec 6) (s : State) : Host.Outcome State Fault Refusal :=
  let v := s.cur.arch.valS sk
  finish s (groupScalarWord s h
    (guardTrap (firstTrap [checkThat s.privd s.privTrap, poisonS s.cur.arch sk, checkThat (goodOvt v) s.undef])
      (afterResolved s (.done (s.modCur fun g => { g with ovt := v.setWidth 6 })))))

/-! Special registers. -/

/-- CLUSTERID of a team (R19, R21). -/
def State.clusterIdOf (s : State) (t : Team) : Word :=
  let i := (s.launch t.launch).info
  if i.cw = 0 then BitVec.ofNat 64 (2 ^ 16 + 2 ^ 12)
  else BitVec.ofNat 64 (i.ch * 2 ^ 16 + i.cw * 2 ^ 12 + t.rank / i.cw * 2 ^ 8 + t.rank % i.cw * 2 ^ 4 + t.rank)

/-- CLUSTERID as the current agent reads it. -/
def State.clusterId (s : State) : Word := s.clusterIdOf s.curTeam

/-- COREID of a slot of a core: core 96 q + 12 r + c stands at row r and column c of quadrant q (R2, R19). -/
def coreIdOf (n slot : Nat) : Word :=
  BitVec.ofNat 64 (slot * 2 ^ 9 + n / 96 * 2 ^ 7 + n % 96 / 12 * 2 ^ 4 + n % 12)

/-- WALLTIME as the agent reads it (R84, R85). -/
def State.wallNow (s : State) : Word := if s.det then s.curLaunch.time else s.time.wall

/-- The lanes for which a test holds. -/
def lanesWith (f : Nat → Bool) : Word := (maskOf 32 ((List.range 32).filter f)).setWidth 64

/-- PREQ (R261). -/
def State.preq (s : State) : Word :=
  match (s.cluster s.curTeam.cluster).decision with
  | some d => BitVec.ofNat 64 (2 * d + 1)
  | none => 0

/-- The value of a special register other than LANEID (R406). PASSES is the value in effect on the port that reads it (R87), which inside a
run may not yet be the power cluster's (R81, R88): the model's choice (log 107). -/
def State.special (s : State) (r : Spr) : Word :=
  let g := s.cur
  let i := s.curLaunch.info
  match r with
  | .laneid => 0
  | .groupid => BitVec.ofNat 64 (ceilDiv i.threads 32 * 2 ^ 5 + g.index)
  | .teamid c => BitVec.ofNat 64 (match c.toNat with
    | 0 => s.curTeam.x
    | 1 => s.curTeam.y
    | _ => s.curTeam.z)
  | .clusterid => s.clusterId
  | .gridid => s.curLaunch.seq.setWidth 64
  | .coreid => coreIdOf s.curCore s.curSlot
  | .strokes => if s.det then g.arch.retired else (s.core s.curCore).strokes
  | .elapsed => if s.det then g.arch.retired else (s.core s.curCore).elapsed
  | .retired => g.arch.retired
  | .walltime => s.wallNow
  | .flags => g.arch.flags.setWidth 64
  | .trapen => g.trapen.setWidth 64
  | .passes => BitVec.ofNat 64 s.curPasses
  | .preq => s.preq
  | .pdeadline => (s.cluster s.curTeam.cluster).pdeadline.setWidth 64
  | .lfs => lanesWith fun l => g.arch.getLfs l != 0
  | .lsp => lanesWith fun l => g.arch.getSp l != 0
  | .epc => g.epc
  | .ecause => g.ecause
  | .einfo => g.einfo
  | .allot => BitVec.ofNat 64 g.allot
  | .spbase => BitVec.ofNat 64 s.curTeam.spBase
  | .spsize => BitVec.ofNat 64 (i.spGranules * 4096)
  | .detmode => if s.det then 1 else 0
  | .tenant => (s.part s.curPart).tenant.setWidth 64
  | .rngseed => g.seed

/-- Whether a register has the component it is named with (R20). -/
def Spr.valid (r : Spr) : Bool :=
  match r with
  | .teamid c => c != 3
  | _ => true

/-- SRD (R405 to R407). -/
def execSrd (h : Hdr) (dst : SrdDst) (spr : Spr) (s : State) : Host.Outcome State Fault Refusal :=
  finish s (anyWord s h fun m =>
    if (s.inStream && spr != .walltime) || !Spr.valid spr then .trap s.undef else
    match dst, spr with
    | .vec d, .laneid =>
      let g := s.cur
      let r := vref g.arch d
      guardTrap (boundRef g.allot 0 r)
        (.done (s.modArch fun a => a.writeLanes r ((lanes m).map fun l => (l, BitVec.ofNat 32 l))))
    | .vec _, _ | .scal _, .laneid => .trap s.undef
    | .scal d, r => whenAny s m (.done (s.modArch fun a => a.setS d (s.special r))))

/-- Bits of a written value that must be zero; none where SWR is not accepted (R411). -/
def swrReserved (r : Spr) : Option Word :=
  match r with
  | .flags => some 0xFFFFFFFFFFFFFC00
  | .trapen => some 0xFFFFFFFFFFFCFC00
  | .rngseed | .ecause | .einfo => some 0
  | .pdeadline => some 0xFFFFFFFF00000000
  | .epc => some 0xFE00000000000007
  | _ => none

/-- The mode that SWR needs (R247, R261). -/
def State.swrMode (s : State) (r : Spr) : Bool :=
  match r with
  | .pdeadline => s.privd
  | .epc | .ecause | .einfo => s.cur.handler.isSome
  | _ => true

/-- The effect of SWR (R411, R412). -/
def State.putSpecial (s : State) (r : Spr) (v : Word) : State :=
  match r with
  | .flags => s.modArch fun a => { a with flags := v.setWidth 10 }
  | .trapen => s.modCur fun g => { g with trapen := v.setWidth 18 }
  | .rngseed => s.modCur fun g => { g with seed := v }
  | .pdeadline => s.modCluster s.curTeam.cluster fun c =>
      { c with pdeadline := if v.setWidth 32 < c.pdeadline then v.setWidth 32 else c.pdeadline }
  | .epc => s.modCur fun g => { g with epc := v }
  | .ecause => s.modCur fun g => { g with ecause := v }
  | .einfo => s.modCur fun g => { g with einfo := v }
  | _ => s

/-- SWR (R411 to R413). FLAGS is journaled; a write of another register waits for older words to resolve. -/
def execSwr (h : Hdr) (sa : BitVec 6) (spr : Spr) (s : State) : Host.Outcome State Fault Refusal :=
  let a := s.cur.arch
  let v := a.valS sa
  finish s (groupWord s h fun m =>
    match swrReserved spr with
    | none => .trap s.undef
    | some z => whenAny s m
      (guardTrap (firstTrap [checkThat (v &&& z == 0) s.undef, checkThat (s.swrMode spr) s.privTrap, poisonS a sa])
        (let k : Eff := .done (s.putSpecial spr v)
         if spr = .flags then k else afterResolved s k)))

/-! Unassigned encodings. -/

/-- An encoding that the map does not assign: UNDEFMAJ for majors 0x30 and above, else UNDEF (R8, R313). -/
def execUnassignedEncoding (w : Word) (s : State) : Host.Outcome State Fault Refusal :=
  finish s (.trap (if 0x30 ≤ (majorOf w) then { cause := .undefmaj, einfo := w } else { cause := .undef, einfo := w }))

end Sys2Proof.Machine
end

