-- ==== Sys2Proof/Machine/VectorMem.lean ====
section
/-! DEFINITION. The vector memory words VLD, VST, VGTH, VSCT, VLDT and VSTT (R137, R138, R322, R323, R428 to R431). -/

namespace Sys2Proof.Machine

open Sys2Proof

/-- Bytes of a lane's element in memory (R322, R429). -/
def laneWidth (t : Ty) : Nat := if t.isHalf then 2 else 4

/-- A stored element: 16-bit types are narrowed under RM and the overflow table (R112, R322). -/
def storeElt (t : Ty) (rm : RMode) (ovt : BitVec 6) (e : Lane) : Word × Flags :=
  match t with
  | .b16 => let r := fConvNarrow fmtF32 fmtB16 rm ovt (f32 e); (BitVec.ofNat 64 r.bits, r.flags)
  | .h16 => let r := fConvNarrow fmtF32 fmtH16 rm ovt (f32 e); (BitVec.ofNat 64 r.bits, r.flags)
  | _ => (e.setWidth 64, fNone)

/-- Locations of a load, by lane address. -/
def loadPieces (m : Mask) (n : Nat) (addr : Nat → Word) : List Piece :=
  (lanes m).map fun l => { lane := l, addr := addr l, n := n }

/-- Locations of a store with their data and its poison. -/
def storePieces (a : Arch) (r : VRef) (ty : Ty) (rm : RMode) (ovt : BitVec 6) (m : Mask) (addr : Nat → Word) : List Piece :=
  (lanes m).map fun l =>
    let e := a.getRef r l
    { lane := l, addr := addr l, n := laneWidth ty, val := (storeElt ty rm ovt e.bits).1, poison := e.poison }

/-- Flags of the narrowing of a store, raised at issue (R429). -/
def storeFlags (a : Arch) (r : VRef) (ty : Ty) (rm : RMode) (ovt : BitVec 6) (m : Mask) : Flags :=
  orFlags ((lanes m).map fun l => (storeElt ty rm ovt (a.getRef r l).bits).2)

/-- ALIGN of VLD and VST: the base, at the lowest executing lane (R430). -/
def alignBase (sp : Space) (acc : Acc) (base : Word) (ps : List Piece) : Option Trap :=
  match ps with
  | [] => none
  | p :: _ => if base.toNat % 4 = 0 then none else some (memTrap .align acc p.lane sp p.addr.toNat)

/-- POISON of a scalar that only executing lanes make the word read. -/
def whenRead (m : Mask) (t : Option Trap) : Option Trap := if m = 0 then none else t

/-- VLD (R428, R429). -/
def execVld (h : Hdr) (ty : Ty) (m : MemF) (vd : VOp) (off : BitVec 16) (s : State) : Host.Outcome State Fault Refusal :=
  finish s (groupWord s h fun x =>
    let g := s.cur
    let a := g.arch
    let d := vref a vd
    let base := scalarAddr a m.sb off
    let n := laneWidth ty
    let ps := loadPieces x n fun l => base + BitVec.ofNat 64 (n * l)
    guardTrap (firstTrap [boundRef g.allot 0 d, whenRead x (poisonS a m.sb),
        rangeChecks s m.space .load ps (alignBase m.space .load base ps)])
      (memWord s { s.newAccess with kind := .load, ty := ty, space := m.space, order := m.order, scope := m.scope,
                                    dst := dstOf d, pieces := ps }))

/-- The effect of a vector store word: the flags of its narrowing are raised when it issues, with the values that it stores, not while it
holds its port before (R38, R429). -/
def storeWord (s : State) (f : Flags) (x : Access) : Eff :=
  match memWord s x with
  | .done t => .done (t.modArch fun a => a.raise f)
  | e => e

/-- VST (R428, R429); in save code VST.b32 stores poisoned elements (R270). -/
def execVst (h : Hdr) (ty : Ty) (m : MemF) (vr : VOp) (rm : RMode) (off : BitVec 16) (s : State) :
    Host.Outcome State Fault Refusal :=
  finish s (groupWord s h fun x =>
    let g := s.cur
    let a := g.arch
    let r := vref a vr
    let base := scalarAddr a m.sb off
    let ps := storePieces a r ty rm g.ovt x fun l => base + BitVec.ofNat 64 (laneWidth ty * l)
    guardTrap (firstTrap [boundRef g.allot 1 r, whenRead x (poisonS a m.sb),
        if s.saveCode && ty == .b32 then none else poisonRef a r x,
        rangeChecks s m.space .store ps (alignBase m.space .store base ps)])
      (storeWord s (storeFlags a r ty rm g.ovt x)
        { s.newAccess with kind := .store, ty := ty, space := m.space, order := m.order, scope := m.scope, pieces := ps }))

/-- The address of a lane of a gather or scatter (R323). -/
def laneAddr (a : Arch) (base : Word) (i : VRef) (l : Nat) : Word := base + (a.getRef i l).bits.setWidth 64

/-- VGTH (R323, R429). -/
def execVgth (h : Hdr) (ty : Ty) (m : MemF) (vd vi : VOp) (off : BitVec 8) (s : State) : Host.Outcome State Fault Refusal :=
  finish s (groupWord s h fun x =>
    let g := s.cur
    let a := g.arch
    let d := vref a vd
    let i := vref a vi
    let ps := loadPieces x 4 (laneAddr a (scalarAddr a m.sb off) i)
    guardTrap (firstTrap [boundAll g.allot [d, i] 0, whenRead x (poisonS a m.sb), poisonRef a i x,
        rangeChecks s m.space .load ps (piecesAlign m.space .load ps 4)])
      (memWord s { s.newAccess with kind := .load, ty := ty, space := m.space, order := m.order, scope := m.scope,
                                    dst := dstOf d, pieces := ps }))

/-- VSCT (R323, R429). -/
def execVsct (h : Hdr) (ty : Ty) (m : MemF) (vr vi : VOp) (off : BitVec 8) (s : State) : Host.Outcome State Fault Refusal :=
  finish s (groupWord s h fun x =>
    let g := s.cur
    let a := g.arch
    let r := vref a vr
    let i := vref a vi
    let ps := storePieces a r ty .rne g.ovt x (laneAddr a (scalarAddr a m.sb off) i)
    guardTrap (firstTrap [boundRef g.allot 1 r, boundRef g.allot 0 i, whenRead x (poisonS a m.sb), poisonRef a i x,
        poisonRef a r x,
        rangeChecks s m.space .store ps (piecesAlign m.space .store ps 4)])
      (storeWord s fNone
        { s.newAccess with kind := .store, ty := ty, space := m.space, order := m.order, scope := m.scope, pieces := ps }))

/-! Tiles (R137, R138, R431). -/

/-- A layout word (R137). -/
structure TileLayout where
  base : Nat
  s0 : Nat
  s1 : Nat
  s2 : Nat
  mode : Nat
  reserved : Nat
  deriving DecidableEq, Repr

/-- The layout word that a register and the two after it hold (R137). -/
def layoutOf (a : Arch) (k : BitVec 6) : TileLayout :=
  let w : BitVec 96 := (a.valS k).setWidth 32 ++ (a.valS (k + 1)).setWidth 32 ++ (a.valS (k + 2)).setWidth 32
  { base := (w.extractLsb' 72 24).toNat, s0 := (w.extractLsb' 52 20).toNat, s1 := (w.extractLsb' 32 20).toNat,
    s2 := (w.extractLsb' 12 20).toNat, mode := (w.extractLsb' 8 4).toNat, reserved := (w.extractLsb' 0 8).toNat }

/-- The coordinates of a lane (R431). -/
def laneCoords (o : Word) (l : Nat) : Nat × Nat × Nat :=
  let k := 5 - (o.extractLsb' 60 4).toNat
  ((o.extractLsb' 0 20).toNat + l % 2 ^ k, (o.extractLsb' 20 20).toNat + l / 2 ^ k, (o.extractLsb' 40 20).toNat)

/-- ROT of R138. -/
def tileRot : List Nat := [0, 1, 2, 3, 4, 6, 8, 12]

/-- The offset o of a lane and the permuted offset o' (R138). -/
def tileOffsets (t : TileLayout) (o : Word) (l : Nat) : Nat × Nat :=
  let c := laneCoords o l
  let off := t.base + c.1 * t.s0 + c.2.1 * t.s1 + c.2.2 * t.s2
  let u := off / 8
  let q := u / 48
  let b := u % 48
  let b1 := if t.mode < 8 then (b + tileRot.getD t.mode 0 * q) % 48
    else 16 * (b / 16) + ((b % 16) ^^^ (q / 2 ^ (t.mode - 8) % 16))
  (off, 384 * q + 8 * b1 + off % 8)

/-- SPBOUND of a tile word: o or o' reaches the end of the allocation (R138). -/
def tileBound (s : State) (acc : Acc) (t : TileLayout) (o : Word) (m : Mask) : Option Trap :=
  (lanes m).findSome? fun l =>
    let x := tileOffsets t o l
    if s.spBytes ≤ x.1 then some (memTrap .spbound acc l .s x.1)
    else if s.spBytes ≤ x.2 then some (memTrap .spbound acc l .s x.2) else none

/-- ALIGN of a layout, at the lowest executing lane (R137). -/
def tileAlign (acc : Acc) (t : TileLayout) (o : Word) (m : Mask) : Option Trap :=
  if t.base % 4 = 0 ∧ t.s0 % 4 = 0 ∧ t.s1 % 4 = 0 ∧ t.s2 % 4 = 0 then none else
  (lanes m).head?.map fun l => memTrap .align acc l .s (tileOffsets t o l).1

/-- What VLDT and VSTT check in order (R431). -/
def tileChecks (s : State) (acc : Acc) (sk so : BitVec 6) (m : Mask) (bound poison : Option Trap) (ps : List Piece) : Option Trap :=
  let a := s.cur.arch
  let t := layoutOf a sk
  let o := a.valS so
  firstTrap [checkThat (m == 0 || (t.reserved == 0 && decide ((o.extractLsb' 60 4).toNat ≤ 5))) s.undef, bound,
    whenRead m (firstTrap [poisonLo a sk, poisonLo a (sk + 1), poisonLo a (sk + 2), poisonS a so]), poison,
    tileAlign acc t o m, tileBound s acc t o m, piecesValve s .s acc ps]

/-- VLDT (R431). -/
def execVldt (h : Hdr) (ty : Ty) (vd : VOp) (sk so : BitVec 6) (s : State) : Host.Outcome State Fault Refusal :=
  finish s (groupWord s h fun m =>
    let g := s.cur
    let a := g.arch
    let d := vref a vd
    let ps := loadPieces m 4 fun l => BitVec.ofNat 64 (tileOffsets (layoutOf a sk) (a.valS so) l).2
    guardTrap (tileChecks s .load sk so m (boundRef g.allot 0 d) none ps)
      (scratchWord s { s.newAccess with kind := .load, ty := ty, space := .s, scope := .team, dst := dstOf d, pieces := ps }))

/-- VSTT (R431). -/
def execVstt (h : Hdr) (ty : Ty) (vr : VOp) (sk so : BitVec 6) (s : State) : Host.Outcome State Fault Refusal :=
  finish s (groupWord s h fun m =>
    let g := s.cur
    let a := g.arch
    let r := vref a vr
    let ps := storePieces a r ty .rne g.ovt m fun l => BitVec.ofNat 64 (tileOffsets (layoutOf a sk) (a.valS so) l).2
    guardTrap (tileChecks s .store sk so m (boundRef g.allot 2 r) (poisonRef a r m) ps)
      (scratchWord s { s.newAccess with kind := .store, ty := ty, space := .s, scope := .team, pieces := ps }))

end Sys2Proof.Machine
end

