-- ==== Sys2Proof/Machine/Pump.lean ====
section
/-! DEFINITION. Engine commands: the Pump's copies and fills (R156 to R161, R382 to R388) and the Siphon's gathers (R162, R399, R400). -/

namespace Sys2Proof.Machine

open Sys2Proof

/-! Ranges (R127, R132). -/

/-- How many bytes from an address on pass the checks of R127 that need no translation, and the cause that the next one fails with. -/
def goodSpan (s : State) (sp : Space) (a : Word) : Nat × Cause :=
  let n := a.toNat
  match sp with
  | .g => (2 ^ 57 - n, .memxlate)
  | .c => (s.cBytes - n, .memperm)
  | .s => (s.spBytes - n, .spbound)
  | .k =>
    if n / 2 ^ 36 ≠ 0 ∨ (a.extractLsb' 20 12).toNat ≠ 0 ∨ s.ranks.length ≤ kRank a then (0, .spbound)
    else if s.det then (0, .memperm)
    else (s.spBytes - kOff a, .spbound)
  | .w =>
    let block := [(0, 384 * 0x400000), (0x7F00000000, 0x7F00001000), (0x7F00010000, 0x7F00021000),
      (0x7F00030000, 0x7F00050000)].find? fun b => b.1 ≤ n && n < b.2
    ((block.map fun b => b.2 - n).getD 0, .memperm)

/-- The first offset of an n-byte range that fails them, with its cause. -/
def badOffset (s : State) (sp : Space) (a : Word) (n : Nat) : Option (Nat × Cause) :=
  let g := goodSpan s sp a
  if n ≤ g.1 then none else some g

/-- The places of bytes [off, stop) of a range in G, or the first that fails translation or permission. -/
def State.gBytes (s : State) (fuel : Nat) (privd : Bool) (acc : Acc) (a : Word) (off stop : Nat) : Except (Nat × Cause) (List Nat) :=
  match fuel with
  | 0 => .ok []
  | fuel + 1 =>
    if stop ≤ off then .ok [] else
    let va := (a + BitVec.ofNat 64 off).toNat
    if 2 ^ 57 ≤ va then .error (off, .memxlate) else
    match translate s s.curCore s.curPart privd acc va with
    | .error c => .error (off, c)
    | .ok t =>
      let n := min (4096 - va % 4096) (stop - off)
      match s.gBytes fuel privd acc a (off + n) stop with
      | .error e => .error e
      | .ok ps => .ok ((List.range n).map (fun i => placeUnder s s.curPart (va + i) t.2.2) ++ ps)

/-- The bytes of a range that lie in one 8-byte unit of the window, as offsets. -/
def winUnit (a u off stop : Nat) : Nat × Nat := (max off (8 * u - a), min stop (8 * u + 8 - a))

/-- The units of the window that bytes [off, stop) of a range touch. -/
def winUnitsOf (a off stop : Nat) : List Nat :=
  if stop ≤ off then [] else (List.range ((a + stop - 1) / 8 - (a + off) / 8 + 1)).map fun i => (a + off) / 8 + i

/-- The places of bytes [off, stop) of a range in a space, or the first byte that fails its checks; data is what a write of the window
would store. -/
def State.rangeBytes (s : State) (privd : Bool) (acc : Acc) (sp : Space) (a : Word) (off stop : Nat) (data : List Byte) :
    Except (Nat × Cause) (List Nat) :=
  match sp with
  | .g => s.gBytes ((stop - off) / 4096 + 2) privd acc a off stop
  | .w =>
    let n := a.toNat
    match (winUnitsOf n off stop).find? fun u =>
        let b := winUnit n u off stop
        !s.winAllowed s.curPart (n + b.1) (some ((data.drop (b.1 - off)).take (b.2 - b.1))) with
    | some u => .error ((winUnit n u off stop).1, .memperm)
    | none => .ok ((List.range (stop - off)).map fun i => n + off + i)
  | _ =>
    match badOffset s sp (a + BitVec.ofNat 64 off) (stop - off) with
    | some e => .error (off + e.1, e.2)
    | none => .ok ((List.range (stop - off)).map fun i => s.placeOf sp (a + BitVec.ofNat 64 (off + i)))

/-- Whether the walks for bytes [off, stop) of a range may be made now (R287). -/
def State.rangeWalk (s : State) (sp : Space) (a : Word) (off stop : Nat) : Bool :=
  sp != .g || s.walksOpen s.curCore s.curPart (blocksOf (a + BitVec.ofNat 64 off).toNat (stop - off))

/-- The walks of a range over dead links are counted, once (R457, log 113). -/
def State.rangeCount (s : State) (sp : Space) (a : Word) (off : Nat) : State :=
  if sp = .g then s.countWalk s.curCore s.curPart (a + BitVec.ofNat 64 off).toNat else s

/-! Data of an engine: bytes with the poison of their units, as elements (R271). -/

/-- A group's stores that are dirty in the L1 go home. -/
def State.flushOwn (s : State) : State :=
  if s.inStream then s else s.l1Flush s.curCore fun _ b => b.dirty &&& onehot 64 s.curSlot != 0

/-- Bytes that an engine reads and that are dirty in the L1 of its core go home first, whichever group of the core wrote them: the
group's own stores (R158), and those of its team that it is ordered after (R164, R172, R174). -/
def State.flushFor (s : State) (ps : List Nat) : State :=
  if s.inStream then s else s.l1Flush s.curCore fun a _ => ps.contains a

/-- Bytes at home as an engine in quadrant q reads them, or the lost bytes of a dead link, poisoned and counted once (R289). How much of an
engine's traffic is one access is the model's choice: a piece, a row or a tile is lost whole where any byte of it lies beyond a dead link
(log 125). -/
def State.engineReadFrom (s0 : State) (quad : Nat) (ps : List Nat) : State × List Elt :=
  let s := s0.flushFor ps
  match (ps.filterMap (s.deadOver quad .g)).head? with
  | some k => ({ s.countLost k with fresh := s.fresh + ps.length },
      ps.zipIdx.map fun q => ⟨BitVec.ofNat 32 (Config.freeNat (s.fresh + q.2) % 256), true⟩)
  | none => (s, ps.map fun q => ⟨(s.byteAt q).setWidth 32, s.poisoned q⟩)

/-- What an engine in the quadrant of the current agent reads. -/
def State.engineRead (s : State) (ps : List Nat) : State × List Elt := s.engineReadFrom s.curQuad ps

/-- Bytes written at home by an engine in quadrant q: a unit is marked when a byte written to it is poisoned, and the copies of the issuing
core follow. Over a dead link the whole is dropped and counted once (R289, log 125). -/
def State.engineWriteFrom (s : State) (quad : Nat) (l : List (Nat × Elt)) : State :=
  match (l.filterMap fun p => s.deadOver quad .g p.1).head? with
  | some k => s.countLost k
  | none =>
    let s1 := l.foldl (fun (u : State) p => ((u.setByte p.1 (p.2.bits.setWidth 8)).setPoison p.1 false)) s
    let s2 := (l.filter fun p => p.2.poison).foldl (fun (u : State) p => u.setPoison p.1 true) s1
    l.foldl (fun (u : State) p => u.l1Update u.curCore p.1 [p.2.bits.setWidth 8]) s2

/-- What an engine in the quadrant of the current agent writes. -/
def State.engineWrite (s : State) (l : List (Nat × Elt)) : State := s.engineWriteFrom s.curQuad l

/-- Bytes written to the window by an engine in quadrant q, one 8-byte unit at a time (R131). -/
def State.engineWindow (s : State) (quad : Nat) (a : Word) (off : Nat) (data : List Elt) (sel : Nat → Bool) : State :=
  let n := a.toNat
  match s.deadOver quad .w (n + off) with
  | some k => s.countLost k
  | none => (winUnitsOf n off (off + data.length)).foldl (fun (u : State) w =>
    let b := winUnit n w off (off + data.length)
    let es := (data.drop (b.1 - off)).take (b.2 - b.1)
    if sel b.1 then u.winWrite (n + b.1) (es.map fun e => e.bits.setWidth 8) (es.any (·.poison)) else u) s

/-! Pump commands. -/

/-- Pieces of 64 KB of the destination: piece k as offsets into the command (R158). -/
def pieceBytes : Nat := 65536
def Cmd.pieces (c : Cmd) : Nat :=
  if c.len = 0 then 0 else (c.dst.toNat + c.len - 1) / pieceBytes - c.dst.toNat / pieceBytes + 1
def Cmd.span (c : Cmd) (k : Nat) : Nat × Nat :=
  let d := c.dst.toNat
  let b := d / pieceBytes * pieceBytes
  (max d (b + pieceBytes * k) - d, min (d + c.len) (b + pieceBytes * (k + 1)) - d)

/-- The ranges that a copy or a fill enters in the Valve tables (R154). -/
def Cmd.ranges (c : Cmd) : List (Space × Word) := (c.dsp, c.dst) :: (if c.kind = .pcpy then [(c.ssp, c.src)] else [])

/-- The next ticket (R159). -/
def nextTicket (t : Nat) : Nat := if t = 65535 then 1 else t + 1

/-- Whether every older access of the group has been performed, so that a command may run (R158, R181). -/
def State.mayRunCmd (s : State) (c : Cmd) : Bool := s.cur.aq.all fun x => c.seq < x.seq || x.done || (x.isLoad && x.read)

/-- Whether a command is finished. -/
def Cmd.ended (c : Cmd) : Bool := !(c.state == .queued || c.state == .running)

/-- Finished commands leave in the order of their path (R151). -/
def popCmds (kept l : List Cmd) : List Cmd :=
  match l with
  | [] => kept
  | c :: r =>
    let same (d : Cmd) : Bool := (d.kind == .siph) == (c.kind == .siph)
    if c.ended && !kept.any same then popCmds kept r else popCmds (kept ++ [c]) r

/-- Finished commands leave. -/
def State.settleCmds (s : State) : State := s.modCur fun g => { g with cmds := popCmds [] g.cmds }

/-- STATE of a command (R159). -/
def CmdState.code : CmdState → Nat
  | .queued => 0 | .running => 1 | .done => 2 | .cancelled => 3 | .faulted => 4

/-- A command's ring entry follows it, unless a newer command has taken the entry (R388). -/
def putRing (r : Store RingEntry) (c : Cmd) : Store RingEntry :=
  let e := Store.get r c.ringAt
  if c.kind != .siph && e.seq == c.seq then Store.put r c.ringAt { e with state := c.state, done := c.written } else r

/-- A command is made (R154, R158, R384); one that a run of a team under discard still issues is cancelled as the older ones are
(R266). -/
def State.makeCmd (s : State) (c : Cmd) (st : BitVec 6) : State :=
  let g := s.cur
  let a := g.arch
  let t := a.ticket
  let c1 := { c with seq := g.seq, ticket := t, privd := s.privd, ringAt := a.ringIdx, before := Store.get g.ring a.ringIdx,
                     state := if c.len = 0 then .done else .queued, cancel := s.curTeam.dropsWork }
  let c2 := { c1 with left := List.range c1.pieces }
  let entry : RingEntry := { state := c2.state, ticket := t, seq := g.seq }
  let arch := { a with ticket := nextTicket t, ringIdx := (a.ringIdx + 1) % 64 }.setS st (BitVec.ofNat 64 t)
  let s1 := s.setCur { g with
    seq := g.seq + 1, cmds := g.cmds ++ [c2], ring := Store.put g.ring a.ringIdx entry, arch := arch,
    reports := notePath .cp g.seq g.reports }
  let key := groupKey s.curCore s.curSlot
  if c.len = 0 then s1.settleCmds
  else
    let s2 := s1.enterValve c.dsp c.dst c.len true key g.seq
    if c.kind = .pcpy then s2.enterValve c.ssp c.src c.len false key g.seq else s2

/-- The checks of R385 on a command's ranges, offset by offset, the source before the destination. -/
def cmdRanges (s : State) (c : Cmd) : Option Trap :=
  let src := if c.kind = .pcpy then badOffset s c.ssp c.src c.len else none
  let dst := badOffset s c.dsp c.dst c.len
  let tsrc (e : Nat × Cause) : Trap := memTrap e.2 .load 0 c.ssp (c.src.toNat + e.1)
  let tdst (e : Nat × Cause) : Trap := memTrap e.2 .store 0 c.dsp (c.dst.toNat + e.1)
  match src, dst with
  | some x, some y => some (if x.1 ≤ y.1 then tsrc x else tdst y)
  | some x, none => some (tsrc x)
  | none, some y => some (tdst y)
  | none, none => none

/-- A copy or a fill at its issue (R384, R385): lenReg is checked for the length's reserved bits; reads are its source registers. -/
def pumpWord (s : State) (h : Hdr) (c : Cmd) (st lenReg : BitVec 6) (reads : List (BitVec 6)) : Eff :=
  let a := s.cur.arch
  groupScalarWord s h
    (guardTrap (firstTrap ([checkThat ((a.valS lenReg).extractLsb' 40 24 == 0 && c.ssp != .w) s.undef,
        checkThat (c.dsp != .w || s.privd) s.privTrap] ++ reads.map (poisonS a) ++ [cmdRanges s c]))
      (if c.len = 0 then afterResolved s (.done (s.makeCmd c st))
       else if !s.valveFits c.ranges then .retry else .done (s.makeCmd c st)))

/-- The length in a register (R156). -/
def lenOf (a : Arch) (r : BitVec 6) : Nat := ((a.valS r).extractLsb' 0 40).toNat

/-- PCPY (R156, R383, R384). -/
def execPcpy (h : Hdr) (st sd sa sl : BitVec 6) (dsp ssp : Space) (sc : Scope) (s : State) : Host.Outcome State Fault Refusal :=
  let a := s.cur.arch
  finish s (pumpWord s h { kind := .pcpy, dsp := dsp, ssp := ssp, scope := sc, dst := a.valS sd, src := a.valS sa, len := lenOf a sl }
    st sl [sd, sa, sl])

/-- PFILL (R157, R383, R384). -/
def execPfill (h : Hdr) (st sd sl sp : BitVec 6) (dsp : Space) (sc : Scope) (s : State) : Host.Outcome State Fault Refusal :=
  let a := s.cur.arch
  let poison := if (a.getS sp).lo then [sp] else []
  finish s (pumpWord s h { kind := .pfill, dsp := dsp, scope := sc, dst := a.valS sd, pat := (a.valS sp).setWidth 32, len := lenOf a sl }
    st sl ([sd, sl] ++ poison))

/-- The ring entry of a ticket (R159, R388). -/
def Group.ringOf (g : Group) (v : Word) : Option RingEntry :=
  if v = 0 then none else (g.ring.find? fun e => e.2.ticket == v.toNat).map (·.2)

/-- The status word of a ticket (R159). -/
def State.cmdStatus (s : State) (v : Word) : Word :=
  match s.cur.ringOf v with
  | none => BitVec.ofNat 64 (15 * 2 ^ 60)
  | some e => if s.det && !e.seen then BitVec.ofNat 64 (2 ^ 60) else BitVec.ofNat 64 (e.state.code * 2 ^ 60 + e.done)

/-- PSTAT (R159, R387). -/
def execPstat (h : Hdr) (sd st : BitVec 6) (s : State) : Host.Outcome State Fault Refusal :=
  let a := s.cur.arch
  finish s (groupScalarWord s h (guardTrap (poisonS a st) (.done (s.modArch fun b => b.setS sd (s.cmdStatus (a.valS st))))))

/-- Whether a command is the one that a known ticket names, and may still be stopped (R159, R160, R382). -/
def Group.names (g : Group) (v : Word) (c : Cmd) : Bool :=
  match g.ringOf v with
  | some e => c.kind != .siph && c.seq == e.seq && !c.ended
  | none => false

/-- PCANC: it asks the command to stop; with DETMODE 1 it does nothing (R160, R382). -/
def execPcanc (h : Hdr) (st : BitVec 6) (s : State) : Host.Outcome State Fault Refusal :=
  let a := s.cur.arch
  let v := a.valS st
  finish s (groupScalarWord s h (guardTrap (poisonS a st)
    (if s.det then .done s
     else afterResolved s (.done (s.modCur fun g =>
       { g with cmds := g.cmds.map fun c => if g.names v c then { c with cancel := true } else c })))))

/-! Pieces. -/

/-- The worse of two failures: the lowest offset, the source first (R385). -/
def worse (x y : Option (Nat × Bool × Cause × Word)) : Option (Nat × Bool × Cause × Word) :=
  match x, y with
  | some a, some b => if b.1 < a.1 ∨ (b.1 = a.1 ∧ !b.2.1 ∧ a.2.1) then some b else some a
  | some a, none => some a
  | none, b => b

/-- The quadrant of the Pump that moves piece k: pieces are dealt in rotation, in ascending number, to the Pumps that the partition owns in
the core's quadrant, or, where it owns none there, to all it owns (R3, R158). The rules do not say at which Pump the rotation of a command
begins, nor what moves the pieces of a partition without a Pump: the model begins at the lowest, and takes the core's quadrant (log 127). -/
def State.pumpQuad (s : State) (k : Nat) : Nat :=
  let mine := bitsOf (s.part s.curPart).pumps
  if mine.any fun i => i / 8 == s.curQuad then s.curQuad else (mine[k % mine.length]?.map (· / 8)).getD s.curQuad

/-- The bytes that a command writes at offsets [off, stop), as a Pump in quadrant q reads them. -/
def State.pieceData (s : State) (quad : Nat) (c : Cmd) (off stop : Nat) : Except (Nat × Cause) (State × List Elt) :=
  match c.kind with
  | .pcpy =>
    match s.rangeBytes c.privd .load c.ssp c.src off stop [] with
    | .error e => .error e
    | .ok ps => .ok (match c.buf with
      | some b => (s, (b.drop off).take (stop - off))
      | none => s.engineReadFrom quad ps)
  | _ => .ok (s, (List.range (stop - off)).map fun i => ⟨(byteOf c.pat ((off + i) % 4)).setWidth 32, false⟩)

/-- Whether two lists of places share a byte, by the 256-byte blocks of memory they lie in. -/
def placesMeet (xs ys : List Nat) : Bool :=
  let bs := (xs.map (· / 256)).eraseDups
  ((ys.map (· / 256)).eraseDups.any bs.contains) && xs.any ys.contains

/-- The places of the n bytes of a range, none for a byte that fails its checks, and for one of W outside the scratchpads. -/
def State.knownBytes (s : State) (privd : Bool) (acc : Acc) (sp : Space) (a : Word) (n : Nat) : List (Option Nat) :=
  (List.range n).map fun i =>
    let b := a + BitVec.ofNat 64 i
    match sp with
    | .w => if b.toNat < 384 * 0x400000 ∧ 0x100000 ≤ b.toNat % 0x400000 ∧ b.toNat % 0x400000 < 0x1C0000
        then some (scratchPlace (b.toNat / 0x400000) (b.toNat % 0x400000 - 0x100000)) else none
    | _ => match s.rangeBytes privd acc sp b 0 1 [] with
      | .ok ps => ps.head?
      | .error _ => none

/-- The elements of a list at the positions that are known. -/
def spread (ps : List (Option Nat)) (es : List Elt) : List Elt :=
  match ps, es with
  | [], _ => []
  | some _ :: r, e :: es => e :: spread r es
  | _ :: r, es => default :: spread r es

/-- The source of a copy that has not begun and whose source and destination overlap. -/
def State.overlapSource (s : State) (c : Cmd) : Option (List (Option Nat)) :=
  if c.kind != .pcpy || c.state != .queued then none else
  let xs := s.knownBytes c.privd .load c.ssp c.src c.len
  if placesMeet (xs.filterMap id) ((s.knownBytes c.privd .store c.dsp c.dst c.len).filterMap id) then some xs else none

/-- A copy whose source and destination overlap reads its whole source first, whatever the space of its destination; a byte that fails
its checks is never written from it (R156). -/
def State.withSource (s : State) (quad : Nat) (c : Cmd) : State × Cmd :=
  match s.overlapSource c with
  | some xs =>
    let r := s.engineReadFrom quad (xs.filterMap id)
    (r.1, { c with buf := some (spread xs r.2) })
  | none => (s, c)

/-- Part of a piece is written: the 128-byte units of the destination that `sel` names (R160). -/
def State.writePiece (s : State) (quad : Nat) (c : Cmd) (off : Nat) (ps : List Nat) (data : List Elt) (sel : Nat → Bool) : State :=
  let unit (o : Nat) : Nat := (c.dst.toNat + o) / 128
  if c.dsp = .w then s.engineWindow quad c.dst off data fun o => sel (unit o)
  else s.engineWriteFrom quad (((ps.zip data).zipIdx.filter fun p => sel (unit (off + p.2))).map (·.1))

/-- Bytes of a piece in the units that `sel` names. -/
def Cmd.selBytes (c : Cmd) (off stop : Nat) (sel : Nat → Bool) : Nat :=
  ((List.range (stop - off)).filter fun i => sel ((c.dst.toNat + off + i) / 128)).length

/-- The state of a command after one piece: the device, the command, and its failure so far. A piece that fails, and the piece at which
a cancel takes hold, leave some of their units written (log 7). A cancel takes hold at a piece that passes its checks; one that does not
fails the command first: R160 leaves the moment open, and this is the model's choice (log 93). -/
def State.runPiece (s : State) (c : Cmd) (k : Nat) : State × Cmd :=
  let sp := c.span k
  let off := sp.1
  let stop := sp.2
  let bad := c.fail.isSome
  let quad := s.pumpQuad k
  let src := s.pieceData quad c off stop
  let data : List Elt := match src with
    | .ok r => r.2
    | .error _ => []
  let dst := s.rangeBytes c.privd .store c.dsp c.dst off stop (data.map fun e => e.bits.setWidth 8)
  let f1 : Option (Nat × Bool × Cause × Word) := match src with
    | .error e => some (e.1, false, e.2, c.src + BitVec.ofNat 64 e.1)
    | .ok _ => none
  let f2 : Option (Nat × Bool × Cause × Word) := match dst with
    | .error e => some (e.1, true, e.2, c.dst + BitVec.ofNat 64 e.1)
    | .ok _ => none
  let f := worse f1 f2
  let stops := c.cancel && !bad && f.isNone
  let rest := c.left.filter (· != k)
  let limit := match f with
    | some e => e.1
    | none => stop
  let first := (c.dst.toNat + off) / 128
  let sel (u : Nat) : Bool :=
    if bad then false
    else if stops then Config.freeBit (s.fresh + (u - first))
    else match f with
      | some _ => 128 * u + 128 ≤ c.dst.toNat + limit && Config.freeBit (s.fresh + (u - first))
      | none => true
  let some_ := stops || f.isSome
  let part : Except (Nat × Cause) (State × List Elt × List Nat) :=
    if f.isNone then (match src, dst with
      | .ok r, .ok ps => .ok (r.1, r.2, ps)
      | .error e, _ => .error e
      | _, .error e => .error e)
    else
      match s.pieceData quad c off limit with
      | .error e => .error e
      | .ok r => match s.rangeBytes c.privd .store c.dsp c.dst off limit (r.2.map fun e => e.bits.setWidth 8) with
        | .error e => .error e
        | .ok ps => .ok (r.1, r.2, ps)
  let wrote : State × Nat := match part with
    | .ok (u, d, ps) => if bad then (s, 0) else (u.writePiece quad c off ps d sel, c.selBytes off limit sel)
    | .error _ => (s, 0)
  let s1 := if some_ then { wrote.1 with fresh := wrote.1.fresh + 1024 } else wrote.1
  let fail := worse c.fail f
  let left := if stops then [] else rest
  let state : CmdState :=
    if stops then .cancelled else if left.isEmpty then (if fail.isSome then .faulted else .done) else .running
  (s1, { c with left := left, written := c.written + wrote.2, fail := fail, state := state })

/-- Whether the bytes of a piece may be moved as the slots of their links stand, with their walks (R287). -/
def State.pieceTravels (s : State) (c : Cmd) (k : Nat) : Bool :=
  let sp := c.span k
  let go := s.crosses (s.pumpQuad k)
  let whole := s.overlapSource c
  let places (acc : Acc) (x : Space) (a : Word) : List Nat := ((s.rangeBytes c.privd acc x a sp.1 sp.2 []).toOption).getD []
  (c.kind != .pcpy || (s.rangeWalk c.ssp c.src sp.1 sp.2 && go c.ssp (places .load c.ssp c.src)))
    && (whole.isNone || (s.rangeWalk c.ssp c.src 0 c.len && s.rangeWalk c.dsp c.dst 0 c.len
        && go .g ((whole.getD []).filterMap id)))
    && s.rangeWalk c.dsp c.dst sp.1 sp.2
    && go c.dsp (if c.dsp = .w then [(c.dst + BitVec.ofNat 64 sp.1).toNat] else places .store c.dsp c.dst)

/-- The report of a command that failed (R161, R385). -/
def cmdReport (c : Cmd) (younger : List Nat) : Option Report :=
  c.fail.map fun f =>
    let sp := if f.2.1 then c.dsp else c.ssp
    { path := .cp, cause := f.2.2.1, ticket := c.ticket, space := sp, seq := c.seq, younger := younger,
      einfo := (memTrap f.2.2.1 (if f.2.1 then .store else .load) 0 sp f.2.2.2.toNat).einfo }

/-- Commands of the same path after one. -/
def youngerCmds (l : List Cmd) (c : Cmd) : List Nat :=
  (l.filter fun d => c.seq < d.seq && (d.kind == .siph) == (c.kind == .siph)).map (·.seq)

/-- A command takes its new state; a finished one delivers its report, its entries leave the Valve tables, and its counter falls. A copy or
a fill that waits for an older one keeps its ranges from its own group until cp falls past it (R154, R160, R161, R386, log 106). -/
def State.putCmd (s : State) (c : Cmd) (r : Option Report) : State :=
  let key := groupKey s.curCore s.curSlot
  let d := if c.ended ∧ c.kind ≠ .siph then { c with past := s.entriesOf key c.seq } else c
  let s1 := s.modCur fun g => { g with
    cmds := g.cmds.map fun e => if e.seq = c.seq then d else e, ring := putRing g.ring c,
    reports := g.reports ++ (if c.ended && !s.curTeam.dropsWork then r.toList else []) }
  if c.ended then ((s1.leaveValve key c.seq).settleCmds).reportEnd s.curCore s.curSlot else s1

/-- Reports a group may hold (R256). -/
def reportRoom : Nat := 16

/-- PUMP_PIECE_DONE: a Pump finishes moving a piece of a command, meets a fault in it, or a cancel takes hold at it (R158 to R161,
R385). -/
def execPumpPieceDone (core slot idx piece : Nat) (s : State) : Host.Outcome State Fault Refusal :=
  let s0 := s.at_ core slot 0
  event s (match s0.cur.cmds[idx]? with
    | none => none
    | some c =>
      if c.kind == .siph || c.ended then none
      else if !s0.mayRunCmd c then
        (if c.cancel then some (s0.putCmd { c with left := [], state := .cancelled } none) else none)
      else if !c.left.contains piece || !s0.pieceTravels c piece then none
      else
        let off := (c.span piece).1
        let s1 := ((if c.kind = .pcpy then s0.rangeCount c.ssp c.src off else s0).rangeCount c.dsp c.dst off)
        let w := s1.withSource (s0.pumpQuad piece) c
        let r := w.1.runPiece w.2 piece
        if r.2.fail.isSome && reportRoom ≤ s0.cur.reports.length then none
        else some (r.1.putCmd r.2 (cmdReport r.2 (youngerCmds s0.cur.cmds c))))

/-! The Siphon. -/

/-- LEN and PITCH (R162). -/
def siphLen (v : Word) : Nat := (v.extractLsb' 0 16).toNat
def siphPitch (v : Word) : Nat := (v.extractLsb' 16 32).toNat
def goodSiph (v : Word) : Bool :=
  v.extractLsb' 48 16 == 0 && siphLen v % 4 == 0 && decide (4 ≤ siphLen v) && decide (siphLen v ≤ 4096)

/-- The gather of a SIPH: each executing lane with its row's source. -/
def siphCmd (s : State) (m : Mask) (st : BitVec 6) (vi : VOp) (sb sp : BitVec 6) (dst src : Space) : Cmd :=
  let a := s.cur.arch
  let p := a.valS sp
  { kind := .siph, dsp := dst, ssp := src, dst := a.valS st, len := siphLen p, pitch := siphPitch p,
    rows := (lanes m).map fun l =>
      (l, a.valS sb + BitVec.ofNat 64 ((a.getRef (vref a vi) l).bits.toNat * siphPitch p)) }

/-- The first destination row that fails its checks (R400). -/
def siphRows (s : State) (c : Cmd) : Option Trap :=
  c.rows.findSome? fun r =>
    let a := c.dst + BitVec.ofNat 64 (r.1 * c.len)
    (badOffset s c.dsp a c.len).map fun e => memTrap e.2 .store r.1 c.dsp (a + BitVec.ofNat 64 e.1).toNat

/-- The two ranges of a gather, its destination and its sources: first address and length (R154, R162). -/
def Cmd.gatherTo (c : Cmd) : Word × Nat :=
  let rows := c.rows.map (·.1)
  let lo := (minBy id rows).getD 0
  (c.dst + BitVec.ofNat 64 (lo * c.len), (maxOf rows - lo + 1) * c.len)
def Cmd.gatherFrom (c : Cmd) : Word × Nat :=
  let srcs := c.rows.map (·.2.toNat)
  let lo := (minBy id srcs).getD 0
  (BitVec.ofNat 64 lo, maxOf srcs - lo + c.len)

/-- The gather enters its two ranges and the command buffer (R154, R162). -/
def State.makeGather (s : State) (c : Cmd) : State :=
  let g := s.cur
  let c1 := { c with seq := g.seq, privd := s.privd }
  let s1 := s.setCur { g with seq := g.seq + 1, cmds := g.cmds ++ [c1], reports := notePath .sg g.seq g.reports }
  let key := groupKey s.curCore s.curSlot
  (s1.enterValve c.dsp c.gatherTo.1 c.gatherTo.2 true key g.seq).enterValve c.ssp c.gatherFrom.1 c.gatherFrom.2 false key g.seq

/-- SIPH (R162, R399, R400). -/
def execSiph (h : Hdr) (st : BitVec 6) (vi : VOp) (sb sp : BitVec 6) (dst src : Space) (s : State) :
    Host.Outcome State Fault Refusal :=
  let a := s.cur.arch
  finish s (groupWord s h fun m =>
    let c := siphCmd s m st vi sb sp dst src
    guardTrap (firstTrap [checkThat (m == 0 || goodSiph (a.valS sp)) s.undef, boundRef s.cur.allot 1 (vref a vi),
        whenRead m (firstTrap [poisonS a st, poisonS a sb, poisonS a sp]), poisonRef a (vref a vi) m, siphRows s c,
        whenRead m (alignFault dst .store ((lanes m).headD 0) c.dst 4)])
      (if m = 0 then .done s else if !s.valveFits [(dst, c.gatherTo.1), (src, c.gatherFrom.1)] then .retry else .done (s.makeGather c)))

/-- One row is read and written, or fails. -/
def siphRow (c : Cmd) (u : State × Option (Nat × Cause × Word)) (r : Nat × Word) : State × Option (Nat × Cause × Word) :=
  let s := u.1.rangeCount c.ssp r.2 0
  match u.1.rangeBytes c.privd .load c.ssp r.2 0 c.len [] with
  | .error e => (s, match u.2 with
      | some f => some f
      | none => some (r.1, e.2, r.2 + BitVec.ofNat 64 e.1))
  | .ok ps =>
    let d := s.engineRead ps
    let at_ := c.dst + BitVec.ofNat 64 (r.1 * c.len)
    (d.1.engineWrite (((List.range c.len).map fun i => d.1.placeOf c.dsp (at_ + BitVec.ofNat 64 i)).zip d.2), u.2)

/-- SIPHON_GATHER_DONE: the Siphon copies the rows of a gather; the lowest lane whose row fails is reported. The rows of a team that is
ended or discarded are dropped (R162, R243, R266, R400). -/
def execSiphonGatherDone (core slot idx : Nat) (s : State) : Host.Outcome State Fault Refusal :=
  let s0 := s.at_ core slot 0
  event s (match s0.cur.cmds[idx]? with
    | none => none
    | some c =>
      let rows := c.rows.flatMap fun r => ((s0.rangeBytes c.privd .load c.ssp r.2 0 c.len []).toOption).getD []
      let drops := s0.curTeam.dropsWork
      let open_ := s0.travels c.ssp rows && c.rows.all fun r => s0.rangeWalk c.ssp r.2 0 c.len
      if c.kind != .siph || c.ended || !s0.mayRunCmd c || !(drops || open_) then none else
      let r := if drops then (s0, none) else c.rows.foldl (siphRow c) (s0, none)
      let rep : Option Report := r.2.map fun f =>
        { path := .sg, cause := f.2.1, space := c.ssp, seq := c.seq, younger := youngerCmds s0.cur.cmds c,
          einfo := (memTrap f.2.1 .load f.1 c.ssp f.2.2.toNat).einfo }
      if rep.isSome && reportRoom ≤ s0.cur.reports.length then none
      else some (r.1.putCmd { c with state := if rep.isSome then .faulted else .done } rep))

end Sys2Proof.Machine
end

