-- ==== Sys2Proof/Machine/MatrixWords.lean ====
section
/-! DEFINITION. The words of the matrix engine (R194 to R210, R366 to R378): leases, batches, and the queuing of operations with their
operands retained. -/

namespace Sys2Proof.Machine

open Sys2Proof

/-! The mould of matrix words (R197). -/

/-- A word that holds the gang and does nothing where no executing lane has a true guard (R197). -/
def gangWord (s : State) (h : Hdr) (k : Eff) : Eff := groupWord s h fun m => ganged s (whenAny s m k)

/-- A gang word that needs a lease; k gets the context. -/
def matrixWord (s : State) (h : Hdr) (k : Nat → Ctx → Eff) : Eff :=
  gangWord s h (match s.leased with
    | none => .trap s.undef
    | some x => k x (s.ctx s.curCore x))

/-- Whether the queue of a context takes no more operations, or its open batch is full (R204, R458). -/
def Ctx.full (c : Ctx) : Bool := 32 ≤ c.ops.length || 32 ≤ c.openOps.length + c.openPart

/-- REGBOUND of a tile (R197, R249). -/
def boundTile (c : Ctx) (opnd : Nat) (acc : BitVec 3) : Option Trap :=
  if acc.toNat < c.ntiles then none else some (regboundTrap 1 opnd acc.toNat)

/-- POISON of whole registers (R367). -/
def poisonRegs (a : Arch) (base n : Nat) : Option Trap := (List.range n).findSome? fun j => poisonRef a (.reg (base + j)) 0xFFFFFFFF

/-- An operation at the end of the queue of context x (R194, R200). -/
def State.queueOp (s : State) (x : Nat) (o : MOp) : State :=
  let seq := s.cur.seq
  (s.modCtx s.curCore x fun c => { c with ops := c.ops ++ [{ o with seq := seq }] }).modCur fun g => { g with seq := seq + 1 }

/-- A word that queues one operation on memory: UNDEF where the queue has no room or the word's own check fails, then its checks before
translation, the wait for the links of its walks (R287), the translation and what follows it. -/
def queueMem (s : State) (h : Hdr) (ok : Bool) (checks : Ctx → List (Option Trap)) (walks : Bool) (rest : List (Option Trap))
    (k : Nat → State) : Eff :=
  matrixWord s h fun x c =>
    guardTrap (firstTrap (checkThat (!c.full && ok) s.undef :: checks c))
      (if walks then guardTrap (firstTrap rest) (.done (k x)) else .retry)

/-- A word that queues one operation: UNDEF where the queue has no room or the word's own check fails, then its other checks. -/
def queueWord (s : State) (h : Hdr) (ok : Bool) (checks : Ctx → List (Option Trap)) (k : Nat → State) : Eff :=
  queueMem s h ok checks true [] k

/-! Leases (R195, R196, R370, R373). -/

/-- The context that the current group's MLEASE takes. -/
def State.leaseChoice (s : State) : Option Nat :=
  let c := s.core s.curCore
  match (List.range 4).find? fun x => (c.ctx x).reserved == some s.curSlot with
  | some x => some x
  | none => c.freeCtx

/-- The current group takes context x (R195). -/
def State.takeLease (s : State) (x : Nat) (cnt : BitVec 8) (tiles : BitVec 3) : State :=
  let c : Ctx := { holder := some s.curSlot, count := cnt.toNat, ntiles := tiles.toNat + 1 }
  (s.modCtx s.curCore x fun _ => c).modCur fun g => { g with lease := some x }

/-- MLEASE at its turn: with DETMODE 1 it first waits for the contexts that have been given up (R49, R195). -/
def leaseEff (s : State) (sd : BitVec 6) (cnt : BitVec 8) (tiles : BitVec 3) : Eff :=
  if s.det && (s.core s.curCore).ctxPending then .retry
  else if cnt = 0 ∨ s.cur.lease.isSome then .trap s.undef
  else match s.leaseChoice with
    | none => if s.det then .final ((s.uncharge 0).holdCand .mlease).switchPoint else .retry
    | some x => afterResolved s (.done ((s.takeLease x cnt tiles).modArch fun a => a.setS sd (BitVec.ofNat 64 x)))

/-- MLEASE (R49, R195, R373). -/
def execMlease (h : Hdr) (sd : BitVec 6) (cnt : BitVec 8) (tiles : BitVec 3) (s : State) : Host.Outcome State Fault Refusal :=
  finish s (groupWord s h fun _ => plainWord s h (switchBefore s (leaseEff s sd cnt tiles)))

/-- MFREE (R196, R370). -/
def execMfree (h : Hdr) (s : State) : Host.Outcome State Fault Refusal :=
  finish s (matrixWord s h fun _ _ => afterResolved s (.done s.freeLease))

/-! Batches (R204, R206, R369, R377, R378). -/

/-- MFENCE (R204, R369). -/
def execMfence (h : Hdr) (sd : BitVec 6) (s : State) : Host.Outcome State Fault Refusal :=
  finish s (matrixWord s h fun x c => afterResolved s
    (.done ((s.closeBatch x).modArch fun a => a.setS sd ((nextBatch c.last).setWidth 64))))

/-- How many batches a context has closed since the one that bears number n; none where it has closed none by that number (R378). -/
def closedSince (last n : BitVec 32) : Option Nat :=
  if n = 0 ∨ last = 0 then none else some ((last.toNat + (2 ^ 32 - 1) - n.toNat) % (2 ^ 32 - 1))

/-- The reports that an MWAIT raises: those of batches closed no later than the one it names (R378). -/
def mwaitDue (c : Ctx) (n : BitVec 32) (l : List Report) : List Report :=
  match closedSince c.last n with
  | none => []
  | some d => l.filter fun r => r.path = .mx && decide (d ≤ r.younger.length)

/-- MWAIT (R206, R377, R378). -/
def execMwait (h : Hdr) (sk : BitVec 6) (s : State) : Host.Outcome State Fault Refusal :=
  finish s (groupWord s h fun m => ganged s (switchBefore s (whenAny s m (match s.leased with
    | none => .trap s.undef
    | some x =>
      guardTrap (poisonS s.cur.arch sk)
        (if (s.namedBatch sk).isSome then .retry
         else raiseOr s (mwaitDue (s.ctx s.curCore x) ((s.cur.arch.valS sk).setWidth 32) s.cur.reports) (.done s))))))

/-! Multiplies (R108, R110, R200, R374, R375). -/

/-- The scale reads of an operation as locations. -/
def scalePieces (l : List Frag) : List Piece :=
  ((l.flatMap Frag.scaleAddrs).eraseDups).map fun a => { addr := BitVec.ofNat 64 a, n := 2 }

/-- ALIGN of the scale bases in use (R110). -/
def scaleAligned (l : List Frag) : Option Trap :=
  l.findSome? fun f => f.scale.bind fun sc => alignFault .g .load 0 sc.base 2

/-- MEMXLATE of a scale base in use with bits 63:57 not zero, at its first scale (R109). -/
def scaleBases (l : List Frag) : Option Trap :=
  l.findSome? fun f => f.scale.bind fun sc =>
    if sc.base.extractLsb' 57 7 = 0 then none else f.scaleAddrs.head?.map (memTrap .memxlate .load 0 .g)

/-- The checks of the scale reads of some fragments that need no translation: R109 and R127 (R375). -/
def scaleSpace (s : State) (l : List Frag) (x : Access) : List (Option Trap) := [scaleBases l, piecesFault s .g .load x.pieces]

/-- Their translation and permission, and the Valve (R375). -/
def scaleChecks (s : State) (x : Access) : List (Option Trap) :=
  [(match resolvePieces s x .load x.pieces with
      | .error t => some t
      | .ok _ => none), piecesValve s .g .load x.pieces]

/-- Whether the walks that the scale reads of some fragments need may be made now (R287). -/
def State.scalesOpen (s : State) (l : List Frag) : Bool := s.piecesWalk (scalePieces l)

/-- The entry of the address queue that reads an operation's scales (R108). -/
def State.scaleAccess (s : State) (l : List Frag) : Access :=
  { s.newAccess with kind := .load, ty := .b16, space := .g, dst := .scale, pieces := scalePieces l, ckpt := {} }

/-- A multiply is queued after its scale reads have taken their place. -/
def State.queueMul (s : State) (x : Nat) (acc : BitVec 3) (ty : Ty) (sparse : Bool) (fa fb : Frag) : State :=
  let o : MOp := { acc := acc.toNat, kind := .mma fa.fmt.extent fa fb ty sparse }
  let rd := s.scaleAccess [fa, fb]
  if rd.pieces.isEmpty then s.queueOp x o else
  match resolvePieces s rd .load rd.pieces with
  | .error _ => s
  | .ok (s1, ps) =>
    let seq := s.cur.seq
    (s1.pushAccess { rd with pieces := ps, resolved := true }).queueOp x { o with scaleSeq := seq, scaleWait := true }

/-- Registers of a format block are poisoned (R375). -/
def poisonBlock (a : Arch) (fb : BitVec 6) : Option Trap :=
  if fb = 0 then none else firstTrap ([fb, fb + 1, fb + 2, fb + 3].map (poisonS a))

/-- MMA (R200, R374, R375). -/
def execMma (h : Hdr) (ty : Ty) (acc : BitVec 3) (va vb : VOp) (fb : BitVec 6) (s : State) : Host.Outcome State Fault Refusal :=
  let a := s.cur.arch
  let blk := formatBlock a (tyFmt ty) fb
  let o := blk.getD ((tyFmt ty, none), (tyFmt ty, none))
  let ra := effReg a va
  let rb := effReg a vb
  let na := o.1.1.denseRegs
  let nb := o.2.1.denseRegs
  let fa := denseFrag a o.1.1 ra o.1.2
  let fb' := denseFrag a o.2.1 rb o.2.2
  finish s (queueMem s h blk.isSome (fun c =>
      [boundTile c 0 acc, boundRange s.cur.allot 1 ra na, boundRange s.cur.allot 2 rb nb,
       poisonRegs a ra na, poisonRegs a rb nb, poisonBlock a fb, scaleAligned [fa, fb']]
      ++ scaleSpace s [fa, fb'] (s.scaleAccess [fa, fb']))
    (s.scalesOpen [fa, fb']) (scaleChecks s (s.scaleAccess [fa, fb'])) fun x => s.queueMul x acc ty false fa fb')

/-- MMAS (R199, R200, R374, R375). -/
def execMmas (h : Hdr) (ty : Ty) (acc : BitVec 3) (va vm vb : VOp) (fb : BitVec 6) (s : State) :
    Host.Outcome State Fault Refusal :=
  let a := s.cur.arch
  let blk := formatBlock a (tyFmt ty) fb
  let o := blk.getD ((tyFmt ty, none), (tyFmt ty, none))
  let ra := effReg a va
  let rm := effReg a vm
  let rb := effReg a vb
  let na := o.1.1.sparseRegs
  let nm := metaRegs ty
  let nb := o.2.1.denseRegs
  let fa := sparseFrag a o.1.1 ra rm o.1.2
  let fb' := denseFrag a o.2.1 rb o.2.2
  finish s (queueMem s h blk.isSome (fun c =>
      [boundTile c 0 acc, boundRange s.cur.allot 1 ra na, boundRange s.cur.allot 2 rm nm, boundRange s.cur.allot 3 rb nb,
       poisonRegs a ra na, poisonRegs a rm nm, poisonRegs a rb nb, poisonBlock a fb,
       checkThat (metaOk a rm (shapeK ty)) s.undef, scaleAligned [fa, fb']]
      ++ scaleSpace s [fa, fb'] (s.scaleAccess [fa, fb']))
    (s.scalesOpen [fa, fb']) (scaleChecks s (s.scaleAccess [fa, fb'])) fun x => s.queueMul x acc ty true fa fb')

/-! Compression (R202, R366, R367). -/

/-- Whether register ranges share a register. -/
def rangesMeet (a n b m : Nat) : Bool := a < b + m && b < a + n

/-- MCOMP (R202, R366, R367). Where its two destinations overlap, which comes last is free (log 7). -/
def execMcomp (h : Hdr) (ty : Ty) (vd vm vs : VOp) (s : State) : Host.Outcome State Fault Refusal :=
  let a := s.cur.arch
  let d := effReg a vd
  let m := effReg a vm
  let r := effReg a vs
  let n := denseRegs ty
  let nm := metaRegs ty
  let w := mcompWrites a (tyFmt ty) r d m
  let meet := rangesMeet d 4 m nm
  let order := if meet && Config.freeBit s.fresh then w.2 ++ w.1 else w.1 ++ w.2
  let put (b : Arch) (e : Nat × Elt) : Arch := b.setV (e.1 / 32) (e.1 % 32) e.2
  let s1 := s.modArch fun b => order.foldl put b
  finish s (gangWord s h
    (guardTrap (firstTrap [checkThat (!rangesMeet d 4 r 8 && !rangesMeet m nm r 8) s.undef,
        boundRange s.cur.allot 0 d 4, boundRange s.cur.allot 1 m nm, boundRange s.cur.allot 2 r n, poisonRegs a r n])
      (.done (if meet then { s1 with fresh := s1.fresh + 1 } else s1))))

/-! Moves (R203, R208, R371, R372, R376). -/

/-- MZERO (R203). -/
def execMzero (h : Hdr) (acc : BitVec 3) (s : State) : Host.Outcome State Fault Refusal :=
  finish s (queueWord s h true (fun c => [boundTile c 0 acc]) fun x => s.queueOp x { acc := acc.toNat, kind := .mzero })

/-- Bytes of a tile in memory (R203). -/
def tileBytes : Nat := 4096

/-- The failing check of a range of one tile outside its alignment and translation, and of the latter (R372). -/
def tileSpace (s : State) (sp : Space) (acc : Acc) (a : Word) : Option Trap :=
  (badOffset s sp a tileBytes).map fun e => memTrap e.2 acc 0 sp (a.toNat + e.1)
def tilePlaces (s : State) (sp : Space) (acc : Acc) (a : Word) : Option Trap × List Nat :=
  match s.rangeBytes s.privd acc sp a 0 tileBytes [] with
  | .error e => (some (memTrap e.2 acc 0 sp (a.toNat + e.1)), [])
  | .ok ps => (none, (ps.zipIdx.filter fun p => p.2 % 4 == 0).map (·.1))

/-- A word that moves a tile to or from memory: its checks, and the operation with the places of the tile's words and its range in the
Valve (R203, R208, R372). -/
def tileMove (s : State) (h : Hdr) (opnd : Nat) (acc : BitVec 3) (sp : Space) (sb : BitVec 6) (off : Word) (store : Bool)
    (k : Word → MOpKind) : Eff :=
  let a := s.cur.arch.valS sb + off
  let dir : Acc := if store then .store else .load
  let pl := tilePlaces s sp dir a
  queueMem s h true (fun c => [boundTile c opnd acc, poisonS s.cur.arch sb, tileSpace s sp dir a, alignFault sp dir 0 a 128])
    (s.rangeWalk sp a 0 tileBytes && s.valveFits [(sp, a)]) [pl.1, engineValve s sp dir a tileBytes] fun x => (s.enterValve sp a tileBytes store (groupKey s.curCore s.curSlot) s.cur.seq).queueOp x
      { acc := acc.toNat, kind := k a, places := pl.2 }

/-- MLDA (R203, R371, R372). -/
def execMlda (h : Hdr) (acc : BitVec 3) (sp : Space) (sb : BitVec 6) (off : BitVec 31) (s : State) :
    Host.Outcome State Fault Refusal :=
  finish s (tileMove s h 0 acc sp sb (off.signExtend 64) false fun a => .mlda sp a)

/-- MSTA (R203, R371, R372). -/
def execMsta (h : Hdr) (acc : BitVec 3) (sp : Space) (sb : BitVec 6) (off : BitVec 31) (s : State) :
    Host.Outcome State Fault Refusal :=
  finish s (tileMove s h 1 acc sp sb (off.signExtend 64) true fun a => .msta sp a)

/-- An operation that writes registers at its commit is queued: they become pending beside earlier loads (R203, R358). -/
def State.queueWriter (s : State) (x : Nat) (o : MOp) (keys : List Nat) : State :=
  let seq := s.cur.seq
  (s.queueOp x o).modArch fun a => { a with pend := a.pend ++ keys.map fun k => (seq, k) }.noteWrite s.curLow seq

/-- Keys of whole registers. -/
def regKeys (base n : Nat) : List Nat := (List.range (32 * n)).map fun i => vecKey (base + i / 32) (i % 32)

/-- The lanes of a register read whole. -/
def wholeReg (a : Arch) (r : Nat) : List Lane := (List.range 32).map fun l => (a.getV r l).bits

/-- MMOVA (R203, R376). -/
def execMmova (h : Hdr) (acc : BitVec 3) (va : VOp) (qtr : BitVec 2) (dir : BitVec 1) (s : State) :
    Host.Outcome State Fault Refusal :=
  let a := s.cur.arch
  let r := effReg a va
  let q := qtr.toNat
  finish s (if dir = 0 then
      queueWord s h true (fun c => [boundRange s.cur.allot 0 r 8, boundTile c 1 acc])
        fun x => s.queueWriter x { acc := acc.toNat, kind := .toVec r q } (regKeys r 8)
    else
      queueWord s h true (fun c => [boundTile c 0 acc, boundRange s.cur.allot 2 r 8, poisonRegs a r 8])
        fun x => s.queueOp x
          { acc := acc.toNat, kind := .fromVec q ((List.range 8).flatMap fun j => wholeReg a (r + j)) })

end Sys2Proof.Machine
end

