-- ==== Sys2Proof/Machine/Factor.lean ====
section
/-! DEFINITION. The words of the factor tile (R211 to R215, R357 to R359): each queues one engine operation with its operands retained. -/

namespace Sys2Proof.Machine

open Sys2Proof

/-- FTINIT (R214, R215, R359). -/
def execFtinit (h : Hdr) (acc : BitVec 3) (dim : BitVec 5) (sk : BitVec 6) (s : State) : Host.Outcome State Fault Refusal :=
  let d : Lane := (s.cur.arch.valS sk).setWidth 32
  finish s (queueWord s h (posNormal d.toNat) (fun c => [boundTile c 0 acc, poisonLo s.cur.arch sk])
    fun x => s.queueOp x { acc := acc.toNat, kind := .ftinit (dim.toNat + 1) d })

/-- A sweep word, which reads vW whole (R214, R357). -/
def sweepWord (s : State) (h : Hdr) (acc : BitVec 3) (va : VOp) (neg : Bool) : Eff :=
  let a := s.cur.arch
  let r := effReg a va
  queueWord s h true (fun c => [boundTile c 0 acc, boundRange s.cur.allot 1 r 1, poisonRegs a r 1])
    fun x => s.queueOp x { acc := acc.toNat, kind := .ftupd neg (wholeReg a r) }

/-- FTUPD (R214, R216). -/
def execFtupd (h : Hdr) (acc : BitVec 3) (va : VOp) (s : State) : Host.Outcome State Fault Refusal :=
  finish s (sweepWord s h acc va false)

/-- FTDND (R214, R216). -/
def execFtdnd (h : Hdr) (acc : BitVec 3) (va : VOp) (s : State) : Host.Outcome State Fault Refusal :=
  finish s (sweepWord s h acc va true)

/-- FTSOLV (R214, R217, R358). -/
def execFtsolv (h : Hdr) (acc : BitVec 3) (va : VOp) (bwd : BitVec 1) (s : State) : Host.Outcome State Fault Refusal :=
  let a := s.cur.arch
  let r := effReg a va
  finish s (queueWord s h true (fun c => [boundTile c 0 acc, boundRange s.cur.allot 1 r 1, poisonRegs a r 1])
    fun x => s.queueWriter x { acc := acc.toNat, kind := .ftsolv r (bwd = 1) (wholeReg a r) } (regKeys r 1))

/-- FTLDET (R214, R218, R358). -/
def execFtldet (h : Hdr) (acc : BitVec 3) (va : VOp) (s : State) : Host.Outcome State Fault Refusal :=
  let r := effReg s.cur.arch va
  finish s (queueWord s h true (fun c => [boundRange s.cur.allot 0 r 1, boundTile c 1 acc])
    fun x => s.queueWriter x { acc := acc.toNat, kind := .ftldet r } [vecKey r 0, vecKey r 1])

/-- FTLD (R214, R357, R359). -/
def execFtld (h : Hdr) (acc : BitVec 3) (sp : Space) (sb : BitVec 6) (dim : BitVec 5) (off : BitVec 26) (s : State) :
    Host.Outcome State Fault Refusal :=
  finish s (tileMove s h 0 acc sp sb (off.signExtend 64) false fun a => .ftld (dim.toNat + 1) sp a)

/-- FTST (R214, R357, R359). -/
def execFtst (h : Hdr) (acc : BitVec 3) (sp : Space) (sb : BitVec 6) (off : BitVec 26) (s : State) :
    Host.Outcome State Fault Refusal :=
  finish s (tileMove s h 1 acc sp sb (off.signExtend 64) true fun a => .ftst sp a)

end Sys2Proof.Machine
end

