-- ==== Sys2Proof/Machine/Engine.lean ====
section
/-! DEFINITION. The matrix engine at work: which operation runs next (R207), what each does (R200, R203, R214 to R219), the return of its
memory and scale reads (R108, R208), the commit of batches (R204 to R206, R220) and the partial batch of a save (R458). -/

namespace Sys2Proof.Machine

open Sys2Proof

/-! One operation on its tile. -/

/-- What an operation does: its tile, register lanes, bytes of memory, flags, and a loss with its column and kind. -/
structure OpRun where
  tile : Option Tile := none
  regs : List (Nat × Nat × Elt) := []
  mem : List (Nat × Elt) := []
  flags : Flags := fNone
  loss : Option (Nat × Nat) := none
  deriving DecidableEq, Repr

/-- The loss that a tile's mode records (R219). -/
def TileMode.loss : TileMode → Option (Nat × Nat)
  | .matrix => some (0, 2)
  | .factor _ => none
  | .lost _ col _ => some (col, 3)

/-- The bytes of an element at a place. -/
def eltBytes (place : Nat) (e : Elt) : List (Nat × Elt) :=
  (bytesOf e.bits 4).zipIdx.map fun p => (place + p.2, ⟨p.1.setWidth 32, e.poison⟩)

/-- The words of a tile that a test selects, as bytes of memory. -/
def tileOut (t : Tile) (places : List Nat) (sel : Nat → Bool) : List (Nat × Elt) :=
  (List.range 1024).flatMap fun i => if sel i then eltBytes (places.getD i 0) (Store.get t.elts i) else []

/-- A tile from a list of elements. -/
def tileOf (mode : TileMode) (l : List Elt) : Tile := { mode := mode, elts := Store.putAll [] (l.zipIdx.map fun p => (p.2, p.1)) }

/-- FTINIT (R214). -/
def initTile (n : Nat) (d : Lane) : Tile :=
  { mode := .factor n, elts := Store.putAll [] ((List.range 32).map fun j =>
      (33 * j, ⟨if j < n then d else BitVec.ofNat 32 f1, false⟩)) }

/-- A sweep on a tile (R216, R219). -/
def sweepTile (t : Tile) (neg : Bool) (w : List Lane) : OpRun :=
  match t.mode with
  | .factor n =>
    let v := sweep n neg t w
    (match v.lost with
    | some (k, kd) => { tile := some { t with mode := .lost n k kd }, loss := some (k, kd) }
    | none => { tile := some { t with elts := Store.putAll t.elts (v.l.map fun p => (p.1, p.2.elt)) }, flags := v.flags })
  | m => { loss := m.loss }

/-- An operation on its tile (R200, R203, R214 to R219). FTST on a lost tile does nothing and records KIND 3, as R219 and R221 have it,
against the remark that closes R220; the model's choice (log 120). -/
def runOp (t : Tile) (o : MOp) : OpRun :=
  match o.kind with
  | .mzero => { tile := some {} }
  | .mma _ a b _ _ => let r := mmaTile a b o.scales t; { tile := some r.1, flags := r.2 }
  | .mlda _ _ => { tile := some (tileOf .matrix (o.loaded.getD [])) }
  | .msta _ _ => { mem := tileOut t o.places fun _ => true }
  | .toVec base q =>
    { regs := (List.range 256).map fun i => (base + i / 32, i % 32, t.elt (8 * q + i / 32) (i % 32)) }
  | .fromVec q rows =>
    { tile := some { mode := .matrix, elts := Store.putAll t.elts (rows.zipIdx.map fun p => (256 * q + p.2, ⟨p.1, false⟩)) } }
  | .ftinit n d => { tile := some (initTile n d) }
  | .ftupd neg w => sweepTile t neg w
  | .ftsolv base bwd v =>
    (match t.mode with
    | .factor n =>
      let r := solve t bwd n v
      { regs := r.1.map fun p => (base, p.1, p.2.elt), flags := r.2 }
    | m => { loss := m.loss })
  | .ftldet base =>
    let st : Nat × Nat × Elt := (base, 1, ⟨t.status, false⟩)
    (match t.mode with
    | .factor n => let d := logDet t n; { regs := [(base, 0, d.elt), st], flags := d.flags }
    | _ => { regs := [(base, 0, ⟨BitVec.ofNat 32 fmtF32.nan, false⟩), st] })
  | .ftld n _ _ => { tile := some (tileOf (.factor n) (o.loaded.getD [])) }
  | .ftst _ _ =>
    (match t.mode with
    | .factor n => { mem := tileOut t o.places fun i => i % 32 ≤ i / 32 && i / 32 < n }
    | m => { loss := m.loss })

/-! The batch at the head of a context (R204, R205). -/

/-- The operations of the oldest batch that has not committed or failed. -/
def Ctx.headOps (c : Ctx) : List MOp :=
  match c.batches with
  | b :: _ => c.ops.filter fun o => o.batch = some b.close
  | [] => c.openOps

/-- Whether that batch fails without running further; one with no operations commits, whatever became of the batch before it (R204,
R205, R458). -/
def Ctx.doomed (c : Ctx) : Bool :=
  (c.failedOpen && !(c.headOps.isEmpty && c.part.count == 0)) || c.part.failed || c.work.attempt == 4

/-- The slot that holds a context. -/
def State.holderOf (s : State) (n x : Nat) : Nat := (s.ctx n x).holder.getD 0

/-- Whether the group that holds a context has an older access not done (R181, R208). -/
def State.olderOpen (s : State) (n x : Nat) (o : MOp) : Bool :=
  (s.group n (s.holderOf n x)).aq.any fun y => decide (y.seq < o.seq) && !y.done

/-- Whether an operation reads memory when it runs. -/
def MOp.loads (o : MOp) : Bool :=
  match o.kind with
  | .mlda _ _ | .ftld _ _ _ => true
  | _ => false

/-- Whether an operation stores at its commit. -/
def MOp.writes (o : MOp) : Bool :=
  match o.kind with
  | .msta _ _ | .ftst _ _ => true
  | _ => false

/-- Whether an operation has still to wait for memory (R108, R201, R250). -/
def State.opWaits (s : State) (n x : Nat) (o : MOp) : Bool :=
  o.scaleWait || (o.loads && o.loaded.isNone)
    || (s.group n (s.holderOf n x)).aq.any fun y => decide (y.seq < o.seq) && !y.resolved

/-- Whether the engine is at work on an operation of a context. -/
def State.engineOn (s : State) (n x : Nat) : Bool := (s.core n).engBusy != 0 && (s.core n).engCur == x

/-- Whether reports of a context's batch find room (R256). -/
def State.reportFits (s : State) (n x : Nat) : Bool := (s.group n (s.holderOf n x)).reports.length < reportRoom

/-- Whether the operations at the head have run and may take effect. -/
def State.headRan (s : State) (n x : Nat) : Bool :=
  let c := s.ctx n x
  !s.engineOn n x && !c.checkFail && c.headOps.all fun o => o.ran && !(o.writes && s.olderOpen n x o)

/-- Whether the closed batch at the head can commit or fail now (R205). -/
def State.commitReady (s : State) (n x : Nat) : Bool :=
  let c := s.ctx n x
  !c.batches.isEmpty && (if c.doomed then !s.engineOn n x && s.reportFits n x
    else s.headRan n x && ((c.work.loss.isNone && c.part.loss.isNone) || s.reportFits n x))

/-! Arbitration (R207). -/

/-- What a context has for the engine: nothing, an operation that waits, a batch that must commit first, or an operation. -/
inductive NextOp where
  | nothing
  | waits
  | commit
  | op (o : MOp)
  deriving DecidableEq, Repr

/-- The next operation of a context. -/
def State.nextOp (s : State) (n x : Nat) : NextOp :=
  let c := s.ctx n x
  if c.doomed then .nothing else
  match c.headOps.find? fun o => !o.ran with
  | some o => if s.opWaits n x o then .waits else .op o
  | none =>
    if c.batches.isEmpty || c.ops.all (·.ran) then .nothing
    else if s.commitReady n x then .commit else .waits

/-- Whether a context has an operation for the engine. -/
def NextOp.some_ : NextOp → Bool
  | .op _ | .commit => true
  | _ => false

/-- The contexts in the order in which the engine looks at them: the current one first, or last at a batch boundary when its lease count
is reached. -/
def State.engineOrder (s : State) (n : Nat) : List Nat :=
  let c := s.core n
  let x := c.engCur
  let v := c.ctx x
  let next := [1, 2, 3].map fun i => (x + i) % 4
  let boundary := v.headOps.all (fun o => !o.ran) || v.headOps.all (·.ran)
  if v.count ≤ c.engCount && boundary && v.work.attempt ≤ 1 then next ++ [x] else x :: next

/-- The context that the engine serves next. -/
def State.engineChoice (s : State) (n : Nat) : Option Nat := (s.engineOrder n).find? fun x => (s.nextOp n x).some_

/-- A loss as DEFLOST reports it, without context and batch (R220). -/
def lossWord (tile opidx : Nat) (l : Nat × Nat) : Word :=
  BitVec.ofNat 64 (l.2 * 2 ^ 50 + l.1 * 2 ^ 45 + tile * 2 ^ 42 + opidx * 2 ^ 32)

/-- The engine starts an operation of context x (R201, R207, R221). A context that gave up the engine and is served next, no other having
been current in between, keeps its count of operations: R207 does not say; the model's choice (log 109). -/
def State.startOp (s : State) (n x : Nat) (o : MOp) : State :=
  let c := s.ctx n x
  let t := c.workTile o.acc
  let r := runOp t o
  let w := c.work
  let lostAt := r.loss.bind fun l => if l.2 < 2 then some l.1 else none
  let first := if w.attempt = 1 then 1 else 0
  let w1 : Working :=
    { tiles := (match r.tile with
        | some v => assocPut w.tiles o.acc v
        | none => w.tiles),
      regs := w.regs ++ r.regs.map fun e => (o.seq, e.1, e.2.1, e.2.2),
      mem := w.mem ++ r.mem, flags := w.flags ||| r.flags.setWidth 5,
      loss := (match w.loss with
        | some v => some v
        | none => r.loss.map (lossWord o.acc (c.part.count + w.count))),
      count := w.count + 1, attempt := w.attempt }
  let strokes := opStrokes t.mode lostAt o.kind * s.passesOf n
  let s1 := s.modCtx n x fun v =>
    { v with work := w1, ops := v.ops.map fun p => if p.seq = o.seq then { p with ran := true } else p }
  s1.modCore n fun k =>
    { k with engBusy := strokes, engCls := opClass o.kind, engEvent := opEvent o.kind, engCur := x,
             engCount := if k.engCur = x then k.engCount + first else first }

/-- A residue check of context x has failed: the batch is restarted, or fails at its third attempt (R205, R457). -/
def State.failCheck (s : State) (n x : Nat) : State :=
  let c := s.ctx n x
  if c.work.attempt < 3 then
    let seqs := c.headOps.map (·.seq)
    (s.modCtx n x fun v =>
      { v with checkFail := false, work := { attempt := v.work.attempt + 1 },
               ops := v.ops.map fun o => if seqs.contains o.seq then { o with ran := false } else o }).logError 19
  else s.modCtx n x fun v => { v with checkFail := false, work := { v.work with attempt := 4 } }

/-- ENGINE_OP_RUN: the engine of a core ends its operation's residue check and starts the next operation (R201, R205, R207). -/
def execEngineOpRun (core : Nat) (s : State) : Host.Outcome State Fault Refusal :=
  event s (if (s.core core).engBusy ≠ 0 then none else
    match (List.range 4).find? fun x => (s.ctx core x).checkFail with
    | some x => some (s.failCheck core x)
    | none => match s.engineChoice core with
      | none => none
      | some x => match s.nextOp core x with
        | .op o => some (s.startOp core x o)
        | _ => none)

/-! Memory of operations. -/

/-- A byte that earlier operations of the batch will store. -/
def Working.byte (w : Working) (place : Nat) : Option Elt := (w.mem.reverse.find? fun p => p.1 = place).map (·.2)

/-- The words of a tile from bytes read at its places, four to a word. -/
def wordsOf (bs : List Elt) (fuel : Nat) : List Elt :=
  match fuel, bs with
  | fuel + 1, a :: b :: c :: d :: r =>
    ⟨a.bits ||| b.bits <<< 8 ||| c.bits <<< 16 ||| d.bits <<< 24, a.poison || b.poison || c.poison || d.poison⟩ :: wordsOf r fuel
  | _, _ => []

/-- ENGINE_MEMORY_RETURN: the memory that the next operation of a context loads is read (R203, R208). -/
def execEngineMemoryReturn (core ctx : Nat) (s : State) : Host.Outcome State Fault Refusal :=
  let c := s.ctx core ctx
  event s (if c.doomed then none else
    match c.headOps.find? fun o => !o.ran with
    | none => none
    | some o =>
      if !o.loads || o.loaded.isSome || s.olderOpen core ctx o then none else
      let places := o.places.flatMap fun p => [p, p + 1, p + 2, p + 3]
      let u := s.at_ core (s.holderOf core ctx) 0
      if !u.travels .g places then none else
      let r := u.engineRead places
      let bs := (places.zip r.2).map fun p => (c.work.byte p.1).getD p.2
      some (r.1.modCtx core ctx fun v =>
        { v with ops := v.ops.map fun p => if p.seq = o.seq then { p with loaded := some (wordsOf bs 1024) } else p }))

/-- SCALE_READ_RETURN: one of the scale reads of an operation returns: read idx div 32 of operation idx mod 32 of a context, once every
older access has its places (R108, R176). That it reads at GROUP scope is the model's choice: R108 gives none (log 117). -/
def execScaleReadReturn (core ctx idx : Nat) (s : State) : Host.Outcome State Fault Refusal :=
  event s (match (s.ctx core ctx).ops[idx % 32]? with
    | none => none
    | some o =>
      let s0 := s.at_ core (s.holderOf core ctx) 0
      let aq := s0.cur.aq
      match (aq.zipIdx.find? fun x => o.scaleWait && x.1.seq == o.scaleSeq) with
      | none => none
      | some (x, i) =>
        match x.pieces[idx / 32]? with
        | none => none
        | some p =>
          if p.done || !((aq.take i).all (·.resolved)) || !mayLoad aq i x [p] || !s0.entryTravels x [p] then none else
          let r := s0.readAt .g p.nc .group p.place 2
          let ps := modNth x.pieces (idx / 32) fun q => { q with done := true }
          let all := ps.all (·.done)
          let s1 := r.1.modCur fun g => { g with aq := modNth g.aq i fun y => { y with pieces := ps, done := all } }
          let s2 := s1.modCtx core ctx fun v => { v with ops := v.ops.map fun q => if q.seq = o.seq then
            { q with scales := q.scales ++ [(p.addr.toNat, ofBytes 16 r.2.1, r.2.2)], scaleWait := !all } else q }
          some s2.settleQueue)

/-! Commit (R203 to R206, R220, R458). -/

/-- A register lane written by an operation at its commit. A lane that a younger word has written keeps its value or takes the moved
one, as the free choice says (R203). Loads give up a lane that takes it, as for any word that writes (R403, R429); the claims of operations,
`ops`, stand, each written when its own batch commits. -/
def Arch.commitReg (a : Arch) (base : Nat) (ops : List Nat) (w : (Nat × Nat × Nat × Elt) × Nat) : Arch :=
  let e := w.1
  let key := vecKey e.2.1 e.2.2.1
  if a.pend.contains (e.1, key) || Config.freeBit (base + w.2) then
    let b := a.putV e.2.1 e.2.2.1 e.2.2.2
    { b with pend := b.pend.filter fun p => p.2 != key || ops.contains p.1 }
  else a

/-- Registers, and flags, as a commit leaves them; the claims of its operations `seqs` on registers end, of `ops`, those of its context. -/
def Arch.commitRegs (a : Arch) (base : Nat) (regs : List (Nat × Nat × Nat × Elt)) (ops seqs : List Nat) (f : Flags) : Arch :=
  let b := regs.zipIdx.foldl (fun x w => x.commitReg base ops w) a
  { b.raise f with pend := b.pend.filter fun p => !seqs.contains p.1 }

/-- The results of the operations at the head of context x take effect, with flags. -/
def State.applyWork (s : State) (n x : Nat) (f : Flags) : State :=
  let c := s.ctx n x
  let w := c.work
  let seqs := c.headOps.map (·.seq)
  let s1 := s.at_ n (s.holderOf n x) 0
  let s2 := s1.arrive 0 fun a => a.commitRegs s.fresh w.regs (c.ops.map (·.seq)) seqs f
  let s3 := if w.mem.isEmpty then s2 else s2.engineWrite w.mem
  let s4 := s3.modCtx n x fun v => { v with tiles := Store.putAll v.tiles w.tiles }
  { s4 with fresh := s4.fresh + w.regs.length }

/-- Whether what the batches and gathers of a group produce is dropped: its team is ended or discarded (R243, R266). -/
def State.dropsResults (s : State) (n k : Nat) : Bool := (s.team (s.group n k).team).dropsWork

/-- The operations at the head leave without effect, with flags. -/
def State.dropBatch (s : State) (n x : Nat) (f : Flags) : State :=
  let seqs := (s.ctx n x).headOps.map (·.seq)
  (s.at_ n (s.holderOf n x) 0).arrive 0 fun a => a.commitRegs 0 [] [] seqs f

/-- The operations at the head leave the queue, with their Valve entries. -/
def State.leaveHead (s : State) (n x : Nat) : State :=
  let ops := (s.ctx n x).headOps
  let s1 := ops.foldl (fun (u : State) o =>
    if o.places.isEmpty then u else u.leaveValve (groupKey n (s.holderOf n x)) o.seq) s
  s1.modCtx n x fun v => { v with work := {}, ops := v.ops.filter fun o => !ops.contains o }

/-- A report of the batch at the head (R206, R220). -/
def batchReport (c : Ctx) (x : Nat) (b : Batch) (cause : Cause) (info : Word) : Report :=
  { path := .mx, cause := cause, seq := b.close, younger := (c.batches.drop 1).map (·.close),
    einfo := info ||| BitVec.ofNat 64 (x * 2 ^ 40) ||| b.num.setWidth 64 }

/-- The position of the operation whose check failed on the third attempt (R206). The rule names none for a batch that fails only
because an older one has failed: 0 is the model's choice (log 88). -/
def Ctx.failedAt (c : Ctx) : Nat :=
  if c.part.failed then c.part.opidx else if c.work.attempt = 4 then c.part.count + c.work.count - 1 else 0

/-- The closed batch at the head commits or fails (R204 to R206, R220). A batch that fails because an older one has failed sets BATCHERR
in FLAGS too: the rule gives it "no effect", and does not say whether the flag is one; the model's choice (log 88). The results and the
report of a team that is ended or discarded are dropped (R243, R266). -/
def State.commitBatch (s : State) (n x : Nat) (b : Batch) : State :=
  let c := s.ctx n x
  let k := s.holderOf n x
  let loss := match c.part.loss with
    | some l => some l
    | none => c.work.loss
  let bad := c.doomed
  let drops := s.dropsResults n k
  let rep : Option Report :=
    if bad then some (batchReport c x b .batcherr (BitVec.ofNat 64 (c.failedAt * 2 ^ 32)))
    else loss.map (batchReport c x b .deflost)
  let f : Flags := (c.work.flags ||| c.part.flags).setWidth 10 ||| flagIf loss.isSome fDeflost
  let s0 := if bad then s.logError 20 else s
  let s1 := if drops then s0.dropBatch n x fNone else if bad then s0.dropBatch n x fBatcherr else s0.applyWork n x f
  let s2 := (s1.leaveHead n x).modCtx n x fun v =>
    { v with batches := v.batches.drop 1, part := {}, failedOpen := v.failedOpen || bad }
  let s3 := if drops then s2
    else s2.modGroup n k fun g => { g with reports := g.reports ++ rep.toList }
  (s3.settleLease n x).reportEnd n k

/-- The partial batch of a save (R458). -/
def State.commitPartial (s : State) (n x : Nat) : State :=
  let c := s.ctx n x
  let bad := c.doomed
  let s1 := if bad then s.dropBatch n x fNone else s.applyWork n x fNone
  (s1.leaveHead n x).modCtx n x fun v =>
    { v with part :=
      { count := c.part.count + c.headOps.length,
        flags := if bad then 0 else c.part.flags ||| c.work.flags,
        loss := if bad then none else (match c.part.loss with
          | some l => some l
          | none => c.work.loss),
        failed := bad, opidx := c.failedAt } }

/-- Whether the team of the group that holds a context is being saved. -/
def State.savingCtx (s : State) (n x : Nat) : Bool :=
  (s.ctx n x).holder.isSome && (s.team (s.group n (s.holderOf n x)).team).st == TeamState.saving

/-- Whether the stores of the operations at the head may be made as the slots of their links stand (R287). -/
def State.workTravels (s : State) (n x : Nat) : Bool :=
  (s.ctx n x).doomed || s.dropsResults n (s.holderOf n x) || (s.at_ n (s.holderOf n x) 0).travels .g ((s.ctx n x).work.mem.map (·.1))

/-- BATCH_COMMIT: the oldest closed batch of a context commits or fails, or the operations of an open batch commit as the partial batch
of a save (R204 to R206, R458). -/
def execBatchCommit (core ctx : Nat) (s : State) : Host.Outcome State Fault Refusal :=
  let c := s.ctx core ctx
  event s (if !s.workTravels core ctx then none else match c.batches with
    | b :: _ => if s.commitReady core ctx then some (s.commitBatch core ctx b) else none
    | [] =>
      if s.savingCtx core ctx && !c.openOps.isEmpty
          && (if c.doomed then !s.engineOn core ctx else s.headRan core ctx) then some (s.commitPartial core ctx)
      else none)

end Sys2Proof.Machine
end

