-- ==== Sys2Proof/Machine/SaveWords.lean ====
section
/-! DEFINITION. SVST and RSST with the image of a group's state that they move (R329 to R333, R391, R410). -/

namespace Sys2Proof.Machine

open Sys2Proof

/-! The image (R330). -/

/-- Offset and size of a section. -/
def sectionAt (k : Nat) : Nat × Nat :=
  match k with
  | 0 => (0x0000, 0x80)
  | 1 => (0x0080, 0x900)
  | 2 => (0x0980, 0x400)
  | 3 => (0x0D80, 0x900)
  | 4 => (0x1680, 0x100)
  | 5 => (0x1780, 0x480)
  | _ => (0x1C00, 0x80)

/-- The sections that `what` selects. -/
def sectionsOf (what : BitVec 7) : List Nat := bitsOf what

/-- The control word of a slice's divergence stack, of its return stack. -/
def divControl (v : Slice) : Word :=
  BitVec.ofNat 64 (v.divSpill * 2 ^ 16 + v.div.length * 2 ^ 8 + v.exited.toNat * 2 ^ 4 + v.active.toNat)
def retControl (v : Slice) : Word := BitVec.ofNat 64 (v.retSpill * 2 ^ 8 + v.ret.length)

/-- Word i of the image of a loop entry; its divergence depth has five bits there (R330). -/
def loopImage (l : LoopEntry) (i : Nat) : Word :=
  match i with
  | 0 => BitVec.ofNat 64 ((if l.counted then 0 else l.pk.toNat * 2 ^ 33) + l.depth % 32 * 2 ^ 28 + l.dormant.toNat * 2 ^ 24
      + l.trips % 65536 * 2 ^ 8 + (if l.counted then 0 else 64) + l.id.toNat)
  | 1 => l.start.setWidth 64
  | 2 => l.stop.setWidth 64
  | _ => BitVec.ofNat 64 l.limit

/-- Entry n of a stack whose newest entry comes first, counted from the oldest. -/
def fromOldest {α : Type} (l : List α) (n : Nat) : Option α := l.reverse[n]?

/-- A barrier's word: arrived and member sets. -/
def barrierWordOf (arrived members : BitVec 32) : Word := arrived ++ members

/-- Members of a team barrier of n groups. -/
def Barrier.members (r : Barrier) (n : Nat) : BitVec 32 := maskOf 32 ((List.range n).filter fun j => !bit r.left j)

/-- Whether a team of a cluster that has left its core in a save had arrived at barrier b (R255, R352). -/
def Team.savedArrived (v : Team) (b : Nat) : Bool :=
  v.inCluster && v.slots.isEmpty && !v.saved.isEmpty && v.saved.all fun g => !g.1.counts || bit g.1.cbars b

/-- The word of barrier b of a cluster, by rank; 0 for a team outside any cluster (R255, R330, R352). -/
def State.cbarWordOf (s : State) (c b : Nat) : Word :=
  if !(s.cluster c).bound then 0 else
  let ranks := (s.cluster c).teams.zipIdx
  let set (f : Nat → Bool) : BitVec 32 := maskOf 32 ((ranks.filter fun p => f p.1).map (·.2))
  barrierWordOf (set fun t => (s.ranksArrived c b).contains t || (s.team t).savedArrived b) (set fun t => (s.team t).inCluster)

/-- The word of a barrier of the current team's cluster. -/
def State.cbarWord (s : State) (b : Nat) : Word := s.cbarWordOf s.curTeam.cluster b

/-- Bytes of a word from a function of their position. -/
def packBytes (f : Nat → Nat) : Word := ofBytes 64 ((List.range 8).map fun i => BitVec.ofNat 8 (f i))

/-- The 8-byte word at offset o of a section, and whether it holds a poisoned element (R330, R333). -/
def State.imageWord (s : State) (k o : Nat) : Word × Bool :=
  let a := s.cur.arch
  match k with
  | 0 => (if o < 0x40 then a.getP (BitVec.ofNat 4 (o / 4 + 1)) ++ a.getP (BitVec.ofNat 4 (o / 4)) else 0, false)
  | 1 =>
    let v := a.slice (o / 0x120)
    let r := o % 0x120
    (if r = 0 then divControl v
     else if r < 0x20 then 0
     else match fromOldest v.div ((r - 0x20) / 16) with
      | some e => e.image.extractLsb' (64 * (r / 8 % 2)) 64
      | none => 0, false)
  | 2 =>
    let v := a.slice (o / 0x80)
    let r := o % 0x80
    (if r = 0 then retControl v else ((fromOldest v.ret (r / 8 - 1)).getD 0).setWidth 64, false)
  | 3 =>
    let v := a.slice (o / 0x120)
    let r := o % 0x120
    (if r = 0 then BitVec.ofNat 64 v.loops.length
     else if r < 0x20 then 0
     else match fromOldest v.loops ((r - 0x20) / 32) with
      | some e => loopImage e ((r - 0x20) % 32 / 8)
      | none => 0, false)
  | 4 =>
    (if o < 0x80 then
      let b := Store.get s.curTeam.barriers (o / 8)
      barrierWordOf b.arrived (b.members s.curTeam.slots.length)
     else if o < 0xA0 then s.cbarWord ((o - 0x80) / 8)
     else 0, false)
  | 5 =>
    if o < 0x400 then
      let x := a.getStk (o / 32) (o % 32 / 4)
      let y := a.getStk (o / 32) (o % 32 / 4 + 1)
      (y.bits ++ x.bits, x.poison || y.poison)
    else if o < 0x420 then (packBytes fun i => a.getSp (o - 0x400 + i), false)
    else if o < 0x440 then (packBytes fun i => (a.getLfs (o - 0x420 + i)).toNat, false)
    else (0, false)
  | _ =>
    (if o = 0 then packBytes fun i => s.counter s.curCore s.cur (match i with
      | 0 => .ld | 1 => .st | 2 => .cp | 3 => .sg | _ => .mx) * (if i < 5 then 1 else 0)
     else 0, false)

/-- The locations of the selected sections of an image at an address, section by section. -/
def imagePieces (base : Word) (sel : List Nat) (f : Nat → Nat → Word × Bool) : List Piece :=
  sel.flatMap fun k =>
    let at_ := sectionAt k
    (List.range (at_.2 / 8)).map fun i =>
      let w := f k (8 * i)
      { addr := base + BitVec.ofNat 64 (at_.1 + 8 * i), n := 8, val := w.1, poison := w.2 }

/-! SVST. -/

/-- SVST (R329, R331, R333, R410). -/
def execSvst (h : Hdr) (sp : Space) (sc : Scope) (sb : BitVec 6) (what : BitVec 7) (off : BitVec 16) (s : State) :
    Host.Outcome State Fault Refusal :=
  let at_ := scalarAddr s.cur.arch sb off
  let ps := imagePieces at_ (sectionsOf what) s.imageWord
  finish s (groupWord s h fun m => ganged s (whenAny s m
    (guardTrap (firstTrap [poisonS s.cur.arch sb, rangeChecks s sp .store ps (alignFault sp .store 0 at_ 128)])
      (memWord s { s.newAccess with kind := .store, ty := .s64, space := sp, order := .rlx, scope := sc, pieces := ps }))))

/-! RSST. -/

/-- What RSST has read: the word at offset o of a section, and whether its sector is poisoned. -/
abbrev Image := Nat → Nat → Word × Bool

/-- The words that a list of locations holds, by address. -/
def imageOf (base : Word) (ws : List (Word × Word × Bool)) : Image := fun k o =>
  match ws.find? fun w => w.1 == base + BitVec.ofNat 64 ((sectionAt k).1 + o) with
  | some w => w.2
  | none => (0, false)

/-- Fields of a word. -/
def fieldOf (w : Word) (lo n : Nat) : Nat := w.toNat / 2 ^ lo % 2 ^ n

/-- Control words and entries of the slices of a section meet the limits of R332. -/
def goodDiv (w : Word) : Bool :=
  w &&& 0xFFFFFFFFFF00E000 == 0 && decide (fieldOf w 8 5 ≤ 16) && decide (fieldOf w 16 8 ≤ 128)
def goodRet (w : Word) : Bool :=
  w &&& 0xFFFFFFFFFFFE00F0 == 0 && decide (fieldOf w 0 4 ≤ 8) && decide (fieldOf w 8 9 ≤ 256)
def goodLoops (w : Word) (entry : Nat → Word) : Bool :=
  w &&& 0xFFFFFFFFFFFFFFF0 == 0 && decide (fieldOf w 0 4 ≤ 8)
    && (List.range (fieldOf w 0 4)).all fun n => entry n &&& 0xFFFFFFE000000080 == 0

/-- Byte j of a section. -/
def imageByte (f : Image) (k j : Nat) : Nat := ((f k (j / 8 * 8)).1.toNat / 2 ^ (8 * (j % 8))) % 256

/-- An LFS value that RSST takes (R332). -/
def goodLfs (v : Nat) : Bool := v / 8 % 2 == 0 && decide (v % 8 ≤ 4)

/-- The content checks of a section (R332). -/
def sectionOk (f : Image) (k : Nat) : Bool :=
  match k with
  | 1 => (List.range 8).all fun sl => goodDiv (f 1 (0x120 * sl)).1
  | 2 => (List.range 8).all fun sl => goodRet (f 2 (0x80 * sl)).1
  | 3 => (List.range 8).all fun sl => goodLoops (f 3 (0x120 * sl)).1 fun n => (f 3 (0x120 * sl + 0x20 + 32 * n)).1
  | 5 => (List.range 32).all fun l => decide (imageByte f 5 (0x400 + l) ≤ 8) && goodLfs (imageByte f 5 (0x420 + l))
  | _ => true

/-- Whether a section that holds control state was read from a poisoned sector; a lane stack only in sp and LFS (R333). -/
def sectionLost (f : Image) (k : Nat) : Bool :=
  match k with
  | 5 => (List.range 8).any fun i => (f 5 (0x400 + 8 * i)).2
  | k => (List.range ((sectionAt k).2 / 8)).any fun i => (f k (8 * i)).2

/-- The divergence depth of a loop entry from the five bits that its image holds, under the slice's restored depth (R330). -/
def depthFrom (total low : Nat) : Nat := if total < low then low else total - (total - low) % 32

/-- A loop entry from the words of its image. -/
def loopOf (total : Nat) (w : Nat → Word) : LoopEntry :=
  let h := w 0
  { id := BitVec.ofNat 6 (fieldOf h 0 6), counted := !bit h 6, pk := BitVec.ofNat 4 (fieldOf h 33 4),
    start := (w 1).setWidth 57, stop := (w 2).setWidth 57, limit := (w 3).toNat, trips := fieldOf h 8 16,
    dormant := BitVec.ofNat 4 (fieldOf h 24 4), depth := depthFrom total (fieldOf h 28 5) }

/-- A slice's stacks from a section (R332). -/
def restoreSlice (f : Image) (k sl : Nat) (v : Slice) : Slice :=
  match k with
  | 1 =>
    let w := (f 1 (0x120 * sl)).1
    let entry (n : Nat) : DivEntry :=
      divOfImage ((f 1 (0x120 * sl + 0x28 + 16 * n)).1 ++ (f 1 (0x120 * sl + 0x20 + 16 * n)).1)
    { v with div := ((List.range (fieldOf w 8 5)).map entry).reverse, divSpill := fieldOf w 16 8 }
  | 2 =>
    let w := (f 2 (0x80 * sl)).1
    let entry (n : Nat) : Addr := (f 2 (0x80 * sl + 8 + 8 * n)).1.setWidth 57
    { v with ret := ((List.range (fieldOf w 0 4)).map entry).reverse, retSpill := fieldOf w 8 9, retIn := none }
  | _ =>
    let w := (f 3 (0x120 * sl)).1
    let entry (n : Nat) : LoopEntry :=
      loopOf (v.div.length + v.divSpill) fun i => (f 3 (0x120 * sl + 0x20 + 32 * n + 8 * i)).1
    { v with loops := ((List.range (fieldOf w 0 4)).map entry).reverse }

/-- A section of registers and stacks is restored (R332). -/
def Arch.restoreSection (a : Arch) (f : Image) (k : Nat) : Arch :=
  match k with
  | 0 => (List.range 15).foldl (fun b j =>
      b.setP (BitVec.ofNat 4 (j + 1)) (BitVec.ofNat 32 (fieldOf (f 0 ((j + 1) / 2 * 8)).1 (32 * ((j + 1) % 2)) 32))) a
  | 1 | 2 | 3 => (List.range 8).foldl (fun b sl => b.modSlice sl (restoreSlice f k sl)) a
  | 5 => (List.range 32).foldl (fun b l =>
      let b1 := (List.range 8).foldl (fun c i =>
        let w := f 5 (32 * l + i / 2 * 8)
        c.setStk l i ⟨BitVec.ofNat 32 (fieldOf w.1 (32 * (i % 2)) 32), w.2⟩) b
      (b1.setSp l (imageByte f 5 (0x400 + l))).setLfs l (BitVec.ofNat 8 (imageByte f 5 (0x420 + l)))) a
  | _ => a

/-- Team barriers are restored; one whose arrived set then covers its members completes (R332). -/
def State.restoreBarriers (s : State) (f : Image) : State :=
  let t := s.cur.team
  let all : BitVec 32 := maskOf 32 (List.range s.curTeam.slots.length)
  let set (m : Store Barrier) (b : Nat) : Store Barrier :=
    let w := (f 4 (8 * b)).1
    Store.put m b { left := all &&& ~~~(w.setWidth 32), arrived := (w.extractLsb' 32 32), pending := [] }
  let s1 := s.modTeam t fun v => { v with barriers := (List.range 16).foldl set v.barriers }
  (List.range 16).foldl (fun u b => ((u.completeTeam t b).getD u).at_ s.curCore s.curSlot s.curLow) s1

/-- RSST with its image read: the content checks, poison, then the restore (R332, R333). -/
def restoreEff (s s1 : State) (f : Image) (sel : List Nat) : Eff :=
  if !(sel.all (sectionOk f)) then .trap s.undef
  else if sel.any (sectionLost f) then .done (s1.endTeam s.cur.team .ctlerr s.cur.ecause s.cur.epc s.cur.einfo)
  else
    let s2 := s1.modArch fun a => sel.foldl (fun b k => b.restoreSection f k) a
    .done (if sel.contains 4 then s2.restoreBarriers f else s2)

/-- The words of an image read at their points of coherence. -/
def readImage (s : State) (sp : Space) (sc : Scope) (ps : List Piece) : State × List (Word × Word × Bool) :=
  ps.foldl (fun u p =>
    let r := u.1.readAt sp p.nc sc p.place 8
    (r.1, u.2 ++ [(p.addr, ofBytes 64 r.2.1, r.2.2)])) (s, [])

/-- RSST once it holds its port alone: it waits for older accesses and for its links as a load does, reads and restores (R176, R287,
R332). -/
def restoreWord (s : State) (sp : Space) (sc : Scope) (base : Word) (ps : List Piece) (sel : List Nat) : Eff :=
  let x := { s.newAccess with kind := .load, space := sp, scope := sc, resolved := true, pieces := ps, ckpt := {} }
  if !mayLoad (s.cur.aq ++ [x]) s.cur.aq.length x ps || !s.entryTravels x ps then .retry
  else
    let r := readImage s sp sc (ps.filter fun p => decide (p.addr - base < 0x1C00))
    restoreEff s (r.1.addBeats s.curPasses x) (imageOf base r.2) (sel.filter (· != 6))

/-- RSST (R329, R332, R333, R391). -/
def execRsst (h : Hdr) (sp : Space) (sc : Scope) (sb : BitVec 6) (what : BitVec 7) (off : BitVec 16) (s : State) :
    Host.Outcome State Fault Refusal :=
  let at_ := scalarAddr s.cur.arch sb off
  let sel := sectionsOf what
  let ps := imagePieces at_ sel fun _ _ => (0, false)
  let x := { s.newAccess with kind := .load, space := sp, scope := sc, pieces := ps }
  let res : Option Trap × List Piece :=
    if sp = .g then (match resolvePieces s x .load ps with
      | .error t => (some t, [])
      | .ok r => (piecesValve s .g .load ps, r.2))
    else (none, ps.map fun p => { p with place := s.placeOf sp p.addr })
  let walks : Bool := sp = .g && (rangeChecks s sp .load ps (alignFault sp .load 0 at_ 128)).isNone && !s.piecesWalk ps
  finish s (groupWord s h fun m => ganged s (whenAny s m
    (if walks then .retry else
      guardTrap (firstTrap [poisonS s.cur.arch sb, rangeChecks s sp .load ps (alignFault sp .load 0 at_ 128), res.1])
        (afterResolved s (restoreWord s sp sc at_ res.2 sel)))))

end Sys2Proof.Machine
end

