-- ==== Sys2Proof/Machine/Issue.lean ====
section
/-! DEFINITION. Issue: which word a port or a stream issues next, its execute windows, the strokes of a core, the time base, and the
order in which things happen when the agenda names none. -/

namespace Sys2Proof.Machine

open Sys2Proof

/-! Strokes (R76, R77, R81, R82). -/

/-- The length of a stroke in 1/256 ns, by the slowest class in execution (R75). -/
def strokeLength (cls : Nat) : Nat :=
  match cls with
  | 0 => 80
  | 1 => 94
  | 2 => 116
  | _ => 160

/-- The class of a core's next stroke: that of the windows in force and of the engine's operation (R76). -/
def Core.classNow (c : Core) : Nat :=
  max (maxOf ((c.windows.filter fun w => w.wait = 0).map (·.cls))) (if c.engBusy = 0 then 0 else c.engCls)

/-- The activity events that a stroke of a core counts: issue on its ports, its engine's operation, its clock tree (R91). -/
def Core.strokeEvents (c : Core) : List Nat :=
  ((List.range 4).filterMap fun p => if (c.port p).busy = 0 then none else (c.port p).word.map (4 * p + ·))
  ++ (if c.engBusy = 0 then [] else c.engEvent.toList) ++ [36 + c.classNow]

/-- The events of the words whose last pass issues on this stroke. -/
def Core.wordEvents (c : Core) : List (Nat × Nat) :=
  (List.range 4).flatMap fun p => if (c.port p).busy = 1 then (c.port p).work else []

/-- Counts with those of another list added. -/
def addCounts (m l : List (Nat × Nat)) : Store Nat := l.foldl (fun m e => Store.put m e.1 (Store.get m e.1 + e.2)) m

/-- A stroke's activity; the 128th closes the counts (R91). -/
def Core.countStroke (c : Core) : Core :=
  let a := addCounts (countEvents c.activity c.strokeEvents) c.wordEvents
  if c.since < 127 then { c with activity := a, since := c.since + 1 }
  else { c with activity := [], since := 0, due := true, tally := addCounts c.tally a }

/-- One stroke of an execute window. -/
def Window.tick (w : Window) : Option Window :=
  if w.wait ≠ 0 then some { w with wait := w.wait - 1 } else if w.left ≤ 1 then none else some { w with left := w.left - 1 }

/-- One stroke of a core: the activity, the counters, the windows, the ports that are held, the engine (R76, R77, R82, R91, R201). -/
def Core.tick (c : Core) : Core :=
  { c.countStroke with
    strokes := c.strokes + 1, elapsed := c.elapsed + BitVec.ofNat 64 (strokeLength c.classNow),
    windows := c.windows.filterMap Window.tick,
    ports := (List.range 4).foldl (fun p k => Store.put p k (let v := Store.get p k; { v with busy := v.busy - 1 })) c.ports,
    engBusy := c.engBusy - 1 }

/-! Words at issue. -/

/-- The slots of a core whose groups a port issues (R30). -/
def slotsOf (p : Nat) : List Nat := (List.range 16).map fun j => 4 * j + p

/-- A group may issue while it is resident and its team is neither ending nor stopped for a save or a discard between runs
(R33, R243, R254). -/
def State.groupRuns (s : State) (g : Group) : Bool :=
  g.st = .resident && (s.team g.team).ending.isNone

/-- The execute windows of a word: one, or one per step for XVN, given the class of each step (R77, R453). -/
def windowsOf (classes : List Nat) (port passes : Nat) (bank : Option Bool) : List Window :=
  classes.zipIdx.map fun c => { cls := c.1, wait := c.2, left := passes + 3, bank := bank, port := port }

/-- The classes of the steps of an XV or XVN of n steps: the slowest of the word's and of its executing lanes' lane words
(R78, R453). -/
def State.laneCodeClasses (s : State) (base : Nat) (h : Hdr) (n : Nat) (vw : VOp) (f : Feeds) : List Nat :=
  let a := s.cur.arch
  let m := s.execMask h &&& s.curRun.resume.getD 0xFFFFFFFF
  (lanes m).foldl (fun cs l =>
      List.zipWith max cs (laneClasses (s.laneIn f l) (a.laneRun l) 0 (laneWords a (effReg a vw) n l)))
    (List.replicate n base)

/-- The classes of the steps of a word, one for every word but XVN (R78). -/
def State.stepClasses (s : State) (w : Word) : List Nat :=
  match instrOf w with
  | .xv h _ vw f => s.laneCodeClasses (effClass w) h 1 vw f
  | .xvn h n _ vw f => s.laneCodeClasses (effClass w) h (n.toNat + 1) vw f
  | _ => [effClass w]

/-- The class under which the issue strokes of a word count: of an XVN the slowest of its steps (R78, R91, log 90). -/
def State.issueClass (s : State) (w : Word) : Nat := maxOf (s.stepClasses w)

/-- The lanes in which a word executes: those that a resumed XV or XVN is restricted to (R227). -/
def State.wordLanes (s : State) (w : Word) : Mask := s.execMask (hdrOf w) &&& s.curRun.resume.getD 0xFFFFFFFF

/-- What f says of each lane word of an XV or XVN of n steps, by lane. -/
def State.laneCodeSteps {α : Type} (s : State) (ls : Mask) (n : Nat) (vw : VOp) (fd : Feeds)
    (f : Nat → LaneIn → LaneRun → Lane → List α) : List α :=
  let a := s.cur.arch
  (lanes ls).flatMap fun l => laneSteps (f l (s.laneIn fd l)) (s.laneIn fd l) (a.laneRun l) 0 (laneWords a (effReg a vw) n l)

/-- The lane words of a word: their number and operand fields. -/
def laneCodeOf : Instr → Option (Nat × VOp × Feeds)
  | .xv _ _ vw f => some (1, vw, f)
  | .xvn _ n _ vw f => some (n.toNat + 1, vw, f)
  | _ => none

/-- The events 21 to 23 of a word: lane steps, results of the functions of R117, table reads. That the EXP of a lane of VSEXP and the RCP
of one of VSDIV, which are steps within those words, count as no results of their own is the model's choice (R91, log 90). -/
def State.workOf (s : State) (w : Word) : List Nat :=
  let ls := s.wordLanes w
  match instrOf w, laneCodeOf (instrOf w) with
  | _, some (n, vw, f) => s.laneCodeSteps ls n vw f fun _ x r v => laneWordEvents x r v
  | .vlut _ t _ va _, _ => (lanes ls).flatMap fun l => (vlutReads t (s.cur.arch.getRef (vref s.cur.arch va) l).bits).map fun _ => 23
  | .vexpE .., _ | .vexp2 .., _ | .vlog .., _ | .vrcp .., _ | .vrsq .., _ | .vsqrt .., _
  | .vact .., _ | .vgate .., _ => (lanes ls).map fun _ => 22
  | _, _ => []

/-- The lane-stack slots that a word writes, as 8 × lane + slot (R272). -/
def State.slotsWritten (s : State) (w : Word) : List Nat :=
  match laneCodeOf (instrOf w) with
  | some (n, vw, f) => (s.laneCodeSteps (s.wordLanes w) n vw f fun l _ r v => (laneWordSlots r v).map (8 * l + ·)).eraseDups
  | none => []

/-- Whether a word reads no register that an earlier run exports and that is still pending (R311). -/
def State.wordOk (s : State) (w : Word) : Bool :=
  let p := s.stillPending
  p.isEmpty || (readCodes s.cur.arch [] (instrOf w)).all fun c => !p.contains c

/-- Whether a word holds the lookup-table bank that is current at its issue (R231). -/
def usesTable : Instr → Bool
  | .xv .. | .xvn .. | .vlut .. => true
  | _ => false

/-- The state in which the word of a port's run issues: the agent is set, PASSES strokes of the port and the word's execute
windows are charged; a trailer takes no stroke and has no window (R38, R77). None when the port has no word to issue now. -/
def prepIssue (s : State) (n p : Nat) : Option State :=
  let c := s.core n
  let port := c.port p
  match port.cur with
  | none => none
  | some (k, low) =>
    let g := s.group n k
    let s1 := { s with agent := .group n k low }
    let cd := s1.curCand
    if port.busy = 0 && s.groupRuns g && cd.started && cd.hold = .none then
      let w := s1.curWord
      if majorOf w = 0x2F then some s1 else
      if !s.turn n k || !s1.wordOk w then none else
      some (s1.setCore n { c.setPort p { port with
          busy := port.passes, word := some (s1.issueClass w), misses := (0, 0), work := countEvents [] (s1.workOf w),
          lanes := s1.wordLanes w, slots := s1.slotsWritten w } with
        windows := windowsOf (s1.stepClasses w) p port.passes (if usesTable (instrOf w) then some c.lut.cur else none)
          ++ c.windows })
    else none

/-- The state in which the next word of a stream issues (R274). -/
def prepStream (s : State) (k : Nat) : Option State :=
  let v := s.stream k
  let s1 := { s with agent := .stream k }
  if v.state = 1 && v.hold = .none && s1.curCand.started && s1.curCand.hold = .none then some s1 else none

/-- Whether the clock of a core runs: a resident team, or an operation in flight in its engine (R93). The rule does not say whether a
team that is being saved, discarded or, in an awake cluster, placed counts as resident, nor whether a closed batch that waits is an
operation in flight: here each lets the clock run, the model's choice (log 89). -/
def State.clockRuns (s : State) (n : Nat) : Bool :=
  (s.core n).engBusy != 0
    || ((List.range 4).any fun x => !(s.ctx n x).batches.isEmpty)
    || s.teams.any fun p => p.2.core = n && (match p.2.st with
      | .resident | .saving | .discarding => true
      | .placing => p.2.wakeUntil.isNone
      | _ => false)

/-- A stroke of a team's core: U_t counts while it is resident (R260). -/
def strokeTeam (n : Nat) (u : State) (p : Nat × Team) : State :=
  if p.2.core = n ∧ p.2.st = TeamState.resident then u.modTeam p.1 fun t => { t with used := t.used + 1 } else u

/-- A stroke of the core of a cluster's first team: its window and its deadline run down (R261, R262). -/
def strokeCluster (n : Nat) (u : State) (p : Nat × Cluster) : State :=
  if p.2.decision.isSome ∧ ((p.2.teams.find? fun t => (u.team t).st == TeamState.resident).map fun t => (u.team t).core) = some n then
    u.modCluster p.1 fun c => { c with pdeadline := if c.pdeadline = 0 then 0 else c.pdeadline - 1, deadline := c.deadline - 1 }
  else u

/-- One stroke of core n. A core whose clock has stopped takes none (R76, R93, R260, R261). -/
def strokeCore (s : State) (n : Nat) : State :=
  if !s.coreEnabled n || !s.clockRuns n then s else
  let s1 := (s.markReady n).modCore n Core.tick
  let s2 := s1.teams.foldl (strokeTeam n) s1
  let s3 := s2.clusters.foldl (strokeCluster n) s2
  let p := { Store.get s3.power.clusters (powerOf n) with ran := true }
  { s3 with power := { s3.power with clusters := Store.put s3.power.clusters (powerOf n) p } }

/-- One nanosecond of the time base (R85, R286); a pending slew adds or leaves out a nanosecond no sooner than ten thousand after the last
one so treated (100 ppm), however often the correction is replaced (log 25). -/
def tickTime (s : State) : State :=
  let t := s.time
  let step : Int := if t.slew = 0 ∨ t.since < 9999 then 1 else if t.slew < 0 then 0 else 2
  { s with
    time := { t with wall := t.wall + BitVec.ofInt 64 step, slew := t.slew - (step - 1),
                     since := if step = 1 then min 9999 (t.since + 1) else 0 },
    power := { s.power with nanos := s.power.nanos + 1 } }

/-- A core drops a cached translation to make room (R149, log 10). -/
def dropTranslation (s : State) (n i : Nat) : State := s.modCore n fun c => { c with tlb := c.tlb.eraseIdx i }

end Sys2Proof.Machine
end

