-- ==== Sys2Proof/Machine/Streams.lean ====
section
/-! DEFINITION. Command streams: their start (R273), semaphores (R281, R282, R398), launches and timed launches (R22, R23, R276 to R279,
R283, R361, R362). -/

namespace Sys2Proof.Machine

open Sys2Proof

/-- A word that only a command stream may hold (R274): it takes effect when its guard is true. -/
def streamWord (s : State) (h : Hdr) (k : Eff) : Eff := if s.inStream then scalarWord s h k else .trap s.undef

/-- The slot of the current stream. -/
def State.curStream (s : State) : Nat := s.curSlot

/-! Starting (R273). -/

/-- Registers of a stream that starts at an address (R273, R274, log 13). -/
def streamArch (a : Addr) : Arch :=
  let b : Arch := { sregs := Store.put [] 1 ⟨a.setWidth 64, false, false⟩, cands := [{ slices := 1 }] }
  let c := (List.range 7).foldl (fun (x : Arch) j => x.setSlice (j + 1) { exited := 0xF }) b
  c.setSlice 0 { pc := a, active := 1, exited := 0xE }

/-- A write to START (R273, R293). Bits 63:57 of the register are reserved and read as zero (R8); EPC and EINFO hold the value that
was written. ECAUSE of a start that is refused stays 0: the model's choice (log 124). -/
def writeStart (s : State) (k : Nat) (v : Word) : State :=
  let w := s.stream k
  match w.part with
  | none => s
  | some p =>
    if w.state = 1 ∨ w.state = 2 ∨ (s.part p).resetting then s
    else
      let g := { w.grp with aq := w.grp.checkedAccesses, epc := 0, ecause := 0, einfo := 0, st := .resident }
      if v.extractLsb' 57 7 ≠ 0 ∨ v.extractLsb' 0 3 ≠ 0 then
        let c : Cause := if v.extractLsb' 57 7 ≠ 0 then .pcwrap else .align
        s.setStream k { w with start := (v.setWidth 57).setWidth 64, state := 3, cause := BitVec.ofNat 8 c.code, hold := .none,
                               grp := { g with epc := v, einfo := v } }
      else s.setStream k { w with start := v, state := 1, cause := 0, hold := .none,
                                  grp := { g with arch := streamArch (v.setWidth 57) } }

/-- STREAM_START (R273). -/
def execStreamStart (k : Nat) (v : Word) (s : State) : Host.Outcome State Fault Refusal :=
  event s (if k < 128 then some (writeStart s k v) else none)

/-! Semaphores (R281, R282, R398). -/

/-- The comparisons of SEMWAIT (R281). -/
def semHolds (op : SemCmp) (w v : Word) : Bool :=
  match op with
  | .eq => w == v
  | .ne => w != v
  | .ge => decide (v.toNat ≤ w.toNat)
  | .gt => decide (v.toNat < w.toNat)
  | .le => decide (w.toNat ≤ v.toNat)
  | .lt => decide (w.toNat < v.toNat)
  | .any => w &&& v != 0

/-- The entry that a semaphore word would take in the stream's queue. -/
def State.semAccess (s : State) (k : AccKind) (o : Order) (a v : Word) : Access :=
  { s.newAccess with kind := k, ty := .z64, space := .g, order := o, scope := .sys,
                     pieces := [{ addr := a, n := 8, val := v }] }

/-- The stream is held at its SEMWAIT (R281). -/
def State.holdSem (s : State) (op : SemCmp) (a v : Word) : State :=
  s.modStream s.curStream fun w => { w with state := 2, hold := .sem op a v }

/-- A SEMWAIT reads its semaphore: it goes on, or is held (R281). A word that is poisoned or lies over a dead link is compared by the bits
read, and nothing is raised: the model's choice (log 136). -/
def semEff (s : State) (op : SemCmp) (a v : Word) : Eff :=
  let x := s.semAccess .load .acq a 0
  if !s.piecesWalk x.pieces then .retry else
  match resolvePieces s x .load x.pieces with
  | .error t => .trap t
  | .ok (s1, ps) =>
    match ps with
    | [] => .retry
    | p :: _ =>
      let y := { x with pieces := ps, resolved := true }
      if !mayLoad (s.cur.aq ++ [y]) s.cur.aq.length y ps || !s1.entryTravels y ps then .retry
      else
        let r := s1.readAt .g p.nc .sys p.place 8
        if semHolds op (ofBytes 64 r.2.1) v then .done r.1 else .final (r.1.holdSem op a v)

/-- SEMWAIT (R281, R398). -/
def execSemwait (h : Hdr) (op : SemCmp) (sa sv : BitVec 6) (s : State) : Host.Outcome State Fault Refusal :=
  let a := s.cur.arch
  let at_ := a.valS sa
  finish s (streamWord s h
    (guardTrap (firstTrap [poisonS a sa, poisonS a sv, issueChecks s .g .load [{ addr := at_, n := 8 }] (alignFault .g .load 0 at_ 8)])
      (semEff s op at_ (a.valS sv))))

/-- SEMWAIT_RECHECK: the Wellhead reads the word of a held SEMWAIT again (R281). -/
def execSemwaitRecheck (k : Nat) (s : State) : Host.Outcome State Fault Refusal :=
  event s (match (s.stream k).hold with
    | .sem op a v =>
      let s1 := (s.modStream k fun w => { w with state := 1, hold := .none }).at_ 384 k 0
      (match semEff s1 op a v with
        | .retry => none
        | e => some (settleEff s1 e))
    | _ => none)

/-- SEMSIG (R282, R398). -/
def execSemsig (h : Hdr) (op : SemOp) (sa sv : BitVec 6) (s : State) : Host.Outcome State Fault Refusal :=
  let a := s.cur.arch
  let at_ := a.valS sa
  let k : AtomicOp := match op with
    | .set => .xch
    | .add => .add
    | .or => .or
  let x := s.semAccess (.atomic k) .ar at_ (a.valS sv)
  finish s (streamWord s h
    (guardTrap (firstTrap [poisonS a sa, poisonS a sv, issueChecks s .g .atomic x.pieces (alignFault .g .atomic 0 at_ 8)])
      (memWord s x)))

/-! The launch record (R277). -/

/-- A launch record as read: the value of n bytes at an offset. -/
def recField (bs : List Byte) (off n : Nat) : Word := ofBytes 64 ((bs.drop off).take n)

/-- The fields of a record. -/
def recordOf (bs : List Byte) : LaunchRec :=
  let w := recField bs 0x28 8
  let f (lo n : Nat) : Nat := w.toNat / 2 ^ lo % 2 ^ n
  { entry := (recField bs 0 8).setWidth 57, args := recField bs 8 8, tbase := (recField bs 0x10 8).setWidth 57,
    gx := (recField bs 0x18 4).toNat, gy := (recField bs 0x1C 4).toNat, gz := (recField bs 0x20 4).toNat,
    spGranules := f 56 8, allot := 8 * (f 51 5 + 1), threads := f 41 10 + 1, cw := f 37 4, ch := f 33 4, prio := f 31 2,
    det := bit w 30, restart := bit w 29, shareDraw := bit w 28, hpriv := bit w 27,
    ovt := if bit w 26 then w.extractLsb' 20 6 else 0x05,
    trapen := (recField bs 0x30 8).setWidth 18,
    cBase := (recField bs 0x3C 4).toNat, cSize := (recField bs 0x38 4).toNat, pbase := recField bs 0x40 8,
    privs := (recField bs 0x48 4).toNat, budget := recField bs 0x50 8, seed := recField bs 0x58 8,
    drawBase := (recField bs 0x60 8).toNat, drawLen := (recField bs 0x68 8).toNat,
    record := recField bs 0x70 8, sema := recField bs 0x78 8 }

/-- Whether a code address of a record is a multiple of 8 with bits 63:57 zero. -/
def goodCode (v : Word) : Bool := v.extractLsb' 57 7 == 0 && v.extractLsb' 0 3 == 0

/-- Whether a record's fields keep their ranges (R112, R252, R276, R277, R283). That bits 63:32 of the field at 0x48 must be 0, as a
reserved field must, is the model's choice: R277 gives bits 31:0 a meaning and leaves the others unnamed (log 135). -/
def recordOk (s : State) (p : Nat) (bs : List Byte) : Bool :=
  let r := recordOf bs
  let w := recField bs 0x28 8
  let extent (n : Nat) : Bool := decide (1 ≤ n) && decide (n < 2 ^ 31)
  goodCode (recField bs 0 8) && goodCode (recField bs 0x10 8)
    && extent r.gx && extent r.gy && extent r.gz && recField bs 0x24 4 == 0
    && decide (r.spGranules ≤ 192) && !(r.cw == 0 && r.ch != 0) && w.extractLsb' 0 20 == 0
    && (!bit w 26 || goodOvt (r.ovt.setWidth 64))
    && recField bs 0x30 8 &&& 0xFFFFFFFFFFFCFC00 == 0
    && (r.cSize == 0 || decide (r.cBase + r.cSize ≤ (s.part p).bufSlices.length * 2048))
    && decide (1 ≤ r.privs) && recField bs 0x4C 4 == 0
    && decide (r.drawBase + r.drawLen ≤ 2 ^ 64)
    && r.record.toNat % 32 == 0 && r.sema.toNat % 8 == 0

/-- The enabled cores of a partition. -/
def State.coresOf (s : State) (p : Nat) : List Nat := (s.part p).cores.filter s.coreEnabled

/-- The core at a row and a column of a quadrant (R2). -/
def coreAt (q row col : Nat) : Nat := 96 * q + 12 * row + col

/-- The cores of a rectangle, by rank; none where it leaves the mesh. -/
def rectAt (q row col cw ch : Nat) : Option (List Nat) :=
  if row + ch ≤ 8 ∧ col + cw ≤ 12 then some ((List.range (cw * ch)).map fun k => coreAt q (row + k / cw) (col + k % cw)) else none

/-- The rectangles of a quadrant, by origin in row-major order (R27). -/
def rectsIn (q cw ch : Nat) : List (List Nat) :=
  (List.range 96).filterMap fun o => rectAt q (o / 12) (o % 12) cw ch

/-- Teams of a cluster, and the rectangle, 1 × 1 for a launch without clusters (R22). -/
def LaunchRec.width (r : LaunchRec) : Nat := max 1 r.cw
def LaunchRec.height (r : LaunchRec) : Nat := if r.cw = 0 then 1 else r.ch
def LaunchRec.clusterSize (r : LaunchRec) : Nat := r.width * r.height

/-- Groups of a team (R14). -/
def LaunchRec.groups (r : LaunchRec) : Nat := ceilDiv r.threads 32

/-- Whether the shape is accepted (R22, R23). -/
def shapeOk (s : State) (p : Nat) (r : LaunchRec) : Bool :=
  let cores := s.coresOf p
  (r.cw == 0 || (decide (r.cw ≤ 12) && decide (1 ≤ r.ch) && decide (r.ch ≤ 8) && decide (r.cw * r.ch ≤ 12)))
    && r.gx % r.clusterSize == 0
    && (List.range 4).any fun q => (rectsIn q r.width r.height).any fun l => l.all cores.contains

/-- Whether one team fits an empty core (R23, R28). -/
def fitOk (r : LaunchRec) : Bool := decide (r.groups * r.allot ≤ 4096)

/-- Whether a draw range overlaps an active one (R283). -/
def drawOverlaps (s : State) (p : Nat) (r : LaunchRec) : Bool :=
  r.drawLen != 0 && (s.part p).draws.any fun d =>
    decide (r.drawBase < d.2.1 + d.2.2.1) && decide (d.2.1 < r.drawBase + r.drawLen) && !(r.shareDraw && d.2.2.2)

/-- The status of the checks on a record whose fields are in range: 0 when all pass (R276). -/
def launchStatus (s : State) (p : Nat) (ok : Bool) (r : LaunchRec) : Nat :=
  if (s.part p).resetting then 6
  else if !ok then 4
  else if !shapeOk s p r then 1
  else if !fitOk r then 2
  else if drawOverlaps s p r then 3
  else 0

/-! Launching (R276, R278, R279, R283). -/

/-- Timed launches that a partition holds. -/
def State.timedHeld (s : State) (p : Nat) : Nat := (s.launches.filter fun l => l.2.part = p && l.2.held).length

/-- Whether a launch that passed its checks may be made: not all 16 draw entries are taken, whatever its own draw length, and a timed one
finds a place (R278, R283, R362). -/
def launchRoom (s : State) (p : Nat) (at_ : Option Word) : Bool :=
  decide ((s.part p).draws.length < 16) && (at_.isNone || decide (s.timedHeld p < 16))

/-- A launch is accepted; the state and its status word (R19, R84, R276, R278). -/
def acceptLaunch (s : State) (p : Nat) (r : LaunchRec) (at_ : Option Word) : State × Word :=
  let lid := s.names.launch + 1
  let seq := (s.part p).nextLaunch + 1
  let now := s.time.wall
  let time := at_.getD now
  let l : Launch := { part := p, info := r, seq := seq, time := time, timed := at_.isSome,
                      held := decide (now.toNat < time.toNat), live := r.gx * r.gy * r.gz }
  let draws := if r.drawLen = 0 then [] else [(lid, r.drawBase, r.drawLen, r.shareDraw)]
  let late := decide (time.toNat < now.toNat)
  let s1 := { (s.setLaunch lid l) with names := { s.names with launch := lid } }
  (s1.modPart p fun v => { v with nextLaunch := seq, draws := v.draws ++ draws },
   seq.setWidth 64 <<< 16 ||| (if late then 5 else 0))

/-- A launch at its word, its record read: a status is written, or the stream is held (R276, R278, R283). -/
def launchEff (s : State) (ok : Bool) (r : LaunchRec) (at_ : Option Word) (sd : BitVec 6) : Eff :=
  let p := s.curPart
  let st := launchStatus s p ok r
  if st ≠ 0 then .done (s.modArch fun a => a.setS sd (BitVec.ofNat 64 st))
  else if launchRoom s p at_ then
    let x := acceptLaunch s p r at_
    .done (x.1.modArch fun a => a.setS sd x.2)
  else .final (s.modStream s.curStream fun v => { v with state := 2, hold := .launch r at_ sd })

/-- The bytes of a launch record, read at SYSTEM scope, or the trap (R362). Poison on them is passed over, and their bits are used as they
stand: the model's choice (log 134). -/
def readRecord (s : State) (a : Word) : Except Trap (State × List Byte) :=
  match s.gPlaces 384 s.curPart true .load a.toNat 128 with
  | .error e => .error (memTrap e.2 .load 0 .g e.1)
  | .ok ps => let r := s.engineRead ps; .ok (r.1, r.2.map fun e => e.bits.setWidth 8)

/-- LAUNCH and LAUNCHAT once the stream's earlier accesses are performed (R279, R362). -/
def launchWord (s : State) (h : Hdr) (sd sr : BitVec 6) (at_ : Option (BitVec 6)) : Eff :=
  let a := s.cur.arch
  let v := a.valS sr
  streamWord s h
    (guardTrap (firstTrap ([poisonS a sr] ++ (at_.toList.map (poisonS a))
        ++ [spanFault s .g .load 0 v 1, alignFault .g .load 0 v 128]))
      (if s.cur.aq.any (fun x => !x.done) || !s.gOpen s.curPart v.toNat 128 then .retry
       else match readRecord s v with
        | .error t => .trap t
        | .ok (s1, bs) => launchEff s1 (recordOk s1 s1.curPart bs) (recordOf bs) (at_.map a.valS) sd))

/-- LAUNCH (R276, R361, R362). -/
def execLaunch (h : Hdr) (sd sr : BitVec 6) (s : State) : Host.Outcome State Fault Refusal :=
  finish s (launchWord s h sd sr none)

/-- LAUNCHAT (R278, R361, R362). -/
def execLaunchat (h : Hdr) (sd sr st : BitVec 6) (s : State) : Host.Outcome State Fault Refusal :=
  finish s (launchWord s h sd sr (some st))

/-- A stream held at a launch tries again (R278, R283). -/
def State.retryLaunch (s : State) (k : Nat) : State :=
  match (s.stream k).hold with
  | .launch r at_ sd =>
    let s1 := (s.modStream k fun w => { w with state := 1, hold := .none }).at_ 384 k 0
    settleEff s1 (launchEff s1 true r at_ sd)
  | _ => s

/-- Every held stream tries again, in slot order. A launch that was held for a place makes the checks of R276 but RECBAD again, and the
LATE test with them, when it gets its place: the model's choice (log 133). -/
def State.retryLaunches (s : State) : State := s.streams.foldl (fun u v => u.retryLaunch v.1) s

/-- TIMED_LAUNCH_RELEASE: WALLTIME reaches the time of a held launch, which becomes PENDING (R278). -/
def execTimedLaunchRelease (lid : Nat) (s : State) : Host.Outcome State Fault Refusal :=
  let l := s.launch lid
  event s (if l.held && decide (l.time.toNat ≤ s.time.wall.toNat) then
      some (s.modLaunch lid fun v => { v with held := false }).retryLaunches
    else none)

end Sys2Proof.Machine
end

