-- ==== Sys2Proof/Machine/Record.lean ====
section
/-! DEFINITION. Sump records: the image of a team and of its groups (R55, R212, R255, R256, R330, R388, R458), how it is written and how
it is read back. An image gives the 8-byte word at each offset, and whether it holds a poisoned element. -/

namespace Sys2Proof.Machine

open Sys2Proof

/-- An image of a record. -/
abbrev RecordImage := Nat → Word × Bool

/-! What is written of a group (R256). -/

/-- Two elements as a word. -/
def pairWord (x y : Elt) : Word × Bool := (y.bits ++ x.bits, x.poison || y.poison)

/-- The code of what holds a candidate; `det` says that its launch has DETMODE 1. Code 5 is for a run suspended after a deterministic
switch point that stands inside it (R38); other holds have no code, and stand in what the hardware keeps of the group (log 87). -/
def Cand.holdCode (det : Bool) (c : Cand) : Nat :=
  match c.hold with
  | .regang _ => 1
  | .convergent _ => 2
  | .fill => 3
  | .parked => 4
  | .suspended | .barrier _ _ | .cbar _ => if det && c.started then 5 else 0
  | _ => 0

/-- The control word of a slice. -/
def sliceControl (det : Bool) (a : Arch) (sl : Nat) : Word :=
  let v := a.slice sl
  let c := a.cand sl
  let at_ : Nat := match c.started && c.holdCode det != 0, c.run with
    | true, some r => ((r.addrOf r.pos) - v.pc).toNat / 8 % 65536
    | _, _ => 0
  BitVec.ofNat 64 (v.active.toNat + v.exited.toNat * 2 ^ 4 + v.loops.length * 2 ^ 15 + v.div.length * 2 ^ 19 + v.ret.length * 2 ^ 24
    + v.divSpill * 2 ^ 28 + v.retSpill * 2 ^ 36 + c.holdCode det * 2 ^ 45 + at_ * 2 ^ 48)

/-- Word o of the record of slice sl. -/
def sliceImage (det : Bool) (a : Arch) (sl o : Nat) : Word × Bool :=
  let v := a.slice sl
  if o = 0 then (v.pc.setWidth 64, false)
  else if o = 8 then (sliceControl det a sl, false)
  else if 0x20 ≤ o ∧ o < 0x60 then (((fromOldest v.ret ((o - 0x20) / 8)).getD 0).setWidth 64, false)
  else if 0x100 ≤ o ∧ o < 0x200 then
    (((fromOldest v.div ((o - 0x100) / 16)).map fun e => e.image.extractLsb' (64 * (o / 8 % 2)) 64).getD 0, false)
  else if 0x200 ≤ o ∧ o < 0x300 then (((fromOldest v.loops ((o - 0x200) / 32)).map fun e => loopImage e (o / 8 % 4)).getD 0, false)
  else if 0x300 ≤ o ∧ o < 0x380 then
    let i := (o - 0x300) / 4
    pairWord (a.getT (i / 4) (4 * sl + i % 4)) (a.getT (i / 4) (4 * sl + i % 4 + 1))
  else (0, false)

/-- Overflow table, handler mode and parking. -/
def modeWord (g : Group) : Word :=
  BitVec.ofNat 64 (g.ovt.toNat + (if g.handler.isSome then 2 ^ 8 else 0) + (if (g.handler.map (·.privd)).getD false then 2 ^ 9 else 0)
    + (if g.arch.cands.any fun c => c.hold == .parked then 2 ^ 10 else 0))

/-- Word i of the lease field, 0 to 7 (R209, R212, R458). -/
def leaseWord (x : Option Ctx) (i : Nat) : Word :=
  match x with
  | none => 0
  | some c =>
    let st (t : Nat) : Lane := if t < c.ntiles then (Store.get c.tiles t).status else 0
    match i with
    | 0 => BitVec.ofNat 64 (c.count + c.ntiles * 2 ^ 8 + c.last.toNat * 2 ^ 32)
    | 1 => BitVec.ofNat 64 (c.part.count + c.part.flags.toNat * 2 ^ 8 + (if c.part.loss.isSome then 2 ^ 16 else 0)
        + (if c.part.failed then 2 ^ 17 else 0))
    | 2 => c.part.loss.getD 0
    | 3 => 0
    | k => st (2 * (k - 4) + 1) ++ st (2 * (k - 4))

/-- The path code of a report. -/
def pathCode (p : Path) : Nat :=
  match p with
  | .cp => 2
  | .sg => 3
  | _ => 4

/-- Word i of the pending reports. -/
def reportWord (l : List Report) (i : Nat) : Word :=
  match l[i / 2]? with
  | none => 0
  | some r => if i % 2 = 0 then ecauseOf r.trap false ||| BitVec.ofNat 64 (pathCode r.path * 2 ^ 56) else r.einfo

/-- Word i of the ticket ring (R388). -/
def ringWord (g : Group) (i : Nat) : Word :=
  match i with
  | 0 => BitVec.ofNat 64 (g.arch.ticket + g.arch.ringIdx * 2 ^ 16)
  | k + 1 =>
    let e := Store.get g.ring k
    BitVec.ofNat 64 (e.state.code * 2 ^ 60 + e.ticket * 2 ^ 44 + e.done)

/-- The poison of scalar registers 32 i to 32 i + 31. -/
def scalarPoison (a : Arch) (i : Nat) : Word :=
  maskOf 64 ((List.range 64).filter fun b =>
    let r := Store.get a.sregs (32 * i + b / 2)
    if b % 2 = 0 then r.lo else r.hi)

/-- The poison of a vector register, by lane. -/
def vectorPoison (a : Arch) (r : Nat) : Mask := maskOf 32 ((List.range 32).filter fun l => (a.getV r l).poison)

/-- The header words of a group record. -/
def headWord (g : Group) (i : Nat) : Word :=
  match i with
  | 0 => g.epc
  | 1 => g.ecause
  | 2 => g.einfo
  | 3 => g.arch.flags.setWidth 64
  | 4 => g.trapen.setWidth 64
  | 5 => g.arch.retired
  | 6 => g.seed
  | 7 => modeWord g
  | _ => 0

/-- Word o of the record of a group with its lease. -/
def groupImage (det : Bool) (allot : Nat) (g : Group) (x : Option Ctx) (o : Nat) : Word × Bool :=
  let a := g.arch
  if o < 0x40 then (headWord g (o / 8), false)
  else if 0x100 ≤ o ∧ o < 0x300 then ((Store.get a.sregs ((o - 0x100) / 8)).bits, false)
  else if 0x300 ≤ o ∧ o < 0x318 then ((a.getX (BitVec.ofNat 2 ((o - 0x300) / 8 + 1))).setWidth 64, false)
  else if 0x320 ≤ o ∧ o < 0x360 then
    (a.getP (BitVec.ofNat 4 ((o - 0x320) / 4 + 1)) ++ a.getP (BitVec.ofNat 4 ((o - 0x320) / 4)), false)
  else if 0x400 ≤ o ∧ o < 0x2400 then sliceImage det a ((o - 0x400) / 0x400) (o % 0x400)
  else if 0x2400 ≤ o ∧ o < 0x2800 then
    let i := (o - 0x2400) / 4
    pairWord (a.getStk (i / 8) (i % 8)) (a.getStk (i / 8) (i % 8 + 1))
  else if 0x2800 ≤ o ∧ o < 0x2820 then (packBytes fun i => a.getSp (o - 0x2800 + i), false)
  else if 0x2820 ≤ o ∧ o < 0x2840 then (packBytes fun i => (a.getLfs (o - 0x2820 + i)).toNat, false)
  else if 0x2840 ≤ o ∧ o < 0x2850 then (scalarPoison a ((o - 0x2840) / 8), false)
  else if 0x2860 ≤ o ∧ o < 0x28A0 then (leaseWord x ((o - 0x2860) / 8), false)
  else if 0x28A0 ≤ o ∧ o < 0x29A0 then (reportWord g.reports ((o - 0x28A0) / 8), false)
  else if 0x2A00 ≤ o ∧ o < 0x2E00 then (vectorPoison a ((o - 0x2A00) / 4 + 1) ++ vectorPoison a ((o - 0x2A00) / 4), false)
  else if 0x3000 ≤ o ∧ o < 0x3208 then (ringWord g ((o - 0x3000) / 8), false)
  else if 0x4000 ≤ o ∧ o < 0x4000 + 128 * allot then
    let i := (o - 0x4000) / 4
    ((a.getV (i / 32) (i % 32 + 1)).bits ++ (a.getV (i / 32) (i % 32)).bits, false)
  else if 0x4000 + 128 * allot ≤ o then
    let i := (o - 0x4000 - 128 * allot) / 4
    let t := (Store.get ((x.map (·.tiles)).getD []) (i / 1024)).elts
    pairWord (Store.get t (i % 1024)) (Store.get t (i % 1024 + 1))
  else (0, false)

/-! What is written of a team (R255). -/

/-- The record of a group with every lane exited. -/
def Arch.ended (a : Arch) : Arch :=
  (List.range 8).foldl (fun (b : Arch) sl => b.setSlice sl { pc := (a.slice sl).pc, exited := 0xF }) { a with cands := [] }

/-- The groups of a team as a save records them, each with its lease: those in DONE or FREE as they ended, with every lane exited (R327). -/
def State.savedGroups (s : State) (t : Nat) : List (Group × Option Ctx) :=
  (s.groupsOf t).map fun g =>
    let v := if g.2.2.st = .free then (((s.team t).gone.find? fun x => x.1 == g.2.2.index).map (·.2)).getD g.2.2 else g.2.2
    (if v.st = .done ∨ v.st = .free then { v with arch := v.arch.ended } else v, v.lease.map (s.ctx g.1))

/-- The group record that holds byte o of the group area, and the offset in it. -/
def groupAt (allot : Nat) (gs : List (Group × Option Ctx)) (o : Nat) : Option ((Group × Option Ctx) × Nat) :=
  match gs with
  | [] => none
  | g :: r =>
    let n := groupBytes allot ((g.2.map (·.ntiles)).getD 0)
    if o < n then some (g, o) else groupAt allot r (o - n)

/-- STATUS of a record. -/
def statusWord (kind : Nat) (valid : Bool) : Word := BitVec.ofNat 64 (0x5D51 * 2 ^ 48 + 0x01 * 2 ^ 40 + kind * 2 + (if valid then 1 else 0))

/-- The space and address of a TBLLD. -/
def tblldWord (x : Option (Space × Word × Bool)) : Word :=
  match x with
  | none => 0
  | some (sp, a, _) => BitVec.ofNat 64 (spaceCode sp * 2 ^ 61 + a.toNat % 2 ^ 57)

/-- The fault fields: group index, ECAUSE, EPC, EINFO. -/
def faultWord (f : Option (Nat × Word × Word × Word)) (i : Nat) : Word :=
  match f with
  | none => 0
  | some (j, ec, pc, info) => match i with
    | 0 => BitVec.ofNat 64 j
    | 1 => ec
    | 2 => pc
    | _ => info

/-- Word o of the team part of a record (R255). An ALLOT of 256 does not fit the 8 bits 39:32 of the word at 0x38: the model writes it
modulo 256, that is 0, and so holds it against the record at the restore, which is its choice (log 132). -/
def State.teamImage (s : State) (t control o : Nat) : Word :=
  let v := s.team t
  let l := s.launch v.launch
  let r := l.info
  if o = 0 then statusWord v.kind true
  else if o = 8 then BitVec.ofNat 64 control
  else if o = 0x10 then v.seq.getD 0
  else if o = 0x18 then l.seq.setWidth 64
  else if o = 0x20 then BitVec.ofNat 64 v.x
  else if o = 0x28 then BitVec.ofNat 64 v.y
  else if o = 0x30 then BitVec.ofNat 64 v.z
  else if o = 0x38 then BitVec.ofNat 64 (r.spGranules * 2 ^ 48 + r.groups * 2 ^ 40 + r.allot % 256 * 2 ^ 32 + v.priv.getD 0)
  else if o = 0x40 then s.clusterIdOf v
  else if o = 0x48 then (if r.det then BitVec.ofNat 64 (v.current.getD 0) else 0xFFFFFFFFFFFFFFFF)
  else if o = 0x50 then BitVec.ofNat 64 v.used
  else if o = 0x58 then tblldWord v.tblld
  else if 0x60 ≤ o ∧ o < 0x80 then faultWord v.fault ((o - 0x60) / 8)
  else if 0x80 ≤ o ∧ o < 0x100 then
    let b := Store.get v.barriers ((o - 0x80) / 8)
    barrierWordOf b.arrived (b.members v.slots.length)
  else if 0x100 ≤ o ∧ o < 0x120 then s.cbarWordOf v.cluster ((o - 0x100) / 8)
  else 0

/-- Word o of the whole record. -/
def State.recordImage (s : State) (t control : Nat) (gs : List (Group × Option Ctx)) (o : Nat) : Word × Bool :=
  let v := s.team t
  let r := (s.launch v.launch).info
  let sp := r.spGranules * 4096
  if o < 0x1000 then (s.teamImage t control o, false)
  else if o < 0x1000 + sp then
    let x := s.homeRead (scratchPlace v.core (v.spBase + (o - 0x1000))) 8
    (ofBytes 64 x.1, x.2)
  else match groupAt r.allot gs (o - 0x1000 - sp) with
    | some g => groupImage r.det r.allot g.1.1 g.1.2 g.2
    | none => (0, false)

/-- Bytes of a team's record. -/
def recordSize (r : LaunchRec) (gs : List (Group × Option Ctx)) : Nat :=
  0x1000 + r.spGranules * 4096 + sumOf (gs.map fun g => groupBytes r.allot ((g.2.map (·.ntiles)).getD 0))

/-! Writing (R254). -/

/-- n sectors of a record from offset o on are written, up to the first that the translation refuses; whether all were. A sector with a
poisoned element is written poisoned. -/
def State.writeSectors (s : State) (p : Nat) (base : Word) (img : RecordImage) (n o : Nat) : State × Bool :=
  match n with
  | 0 => (s, true)
  | n + 1 =>
    match s.gPlaces 384 p true .store (base.toNat + o) 32 with
    | .error _ => (s, false)
    | .ok ps =>
      let ws := [img o, img (o + 8), img (o + 16), img (o + 24)]
      let bad := ws.any (·.2)
      let bs := ws.flatMap fun w => bytesOf w.1 8
      (s.putPlaces p ((ps.zip bs).map fun q => (q.1, q.2, bad))).1.writeSectors p base img n (o + 32)

/-! Reading back (R256). -/

/-- Whether a team's record may be read and written as the slots of its links stand (R287). -/
def State.recordOpen (s : State) (t : Nat) : Bool :=
  let v := s.team t
  let l := s.launch v.launch
  match v.record with
  | none => true
  | some b => s.gOpen l.part b.toNat (recordSize l.info v.saved)

/-- Word o of a record as it stands in memory; none where the translation refuses it. Over a dead link it is no word of memory, and
poisoned (R289). -/
def State.recordWord (s : State) (p : Nat) (base : Word) (o : Nat) : Option (Word × Bool) :=
  match s.gPlaces 384 p true .load (base.toNat + o) 8 with
  | .error _ => none
  | .ok ps => (s.gWord p (base.toNat + o)).toOption.map fun w => (w, ps.any s.poisoned || (s.gLost p (base.toNat + o) 8).isSome)

/-- The image that memory holds. -/
def State.readRecord (s : State) (p : Nat) (base : Word) : RecordImage := fun o => (s.recordWord p base o).getD (0, false)

/-- Element i of a row of 4-byte elements at offset o. -/
def RecordImage.elt (f : RecordImage) (o i : Nat) : Elt :=
  let w := f ((o + 4 * i) / 8 * 8)
  ⟨BitVec.ofNat 32 (fieldOf w.1 (8 * ((o + 4 * i) % 8)) 32), w.2⟩

/-- Whether the 32-byte sector of offset o holds a poisoned element. -/
def RecordImage.sectorPoison (f : RecordImage) (o : Nat) : Bool :=
  let b := o / 32 * 32
  [b, b + 8, b + 16, b + 24].any fun i => (f i).2

/-- An element read back from a sector of a record: of the elements of a poisoned one those are poisoned that were when it was saved;
all of them where none was, the sector's mark being new then (R270). -/
def keepPoison (sector old : Bool) (e : Elt) : Elt := ⟨e.bits, e.poison && (old || !sector)⟩

/-- Byte i of an image. -/
def RecordImage.byte (f : RecordImage) (i : Nat) : Nat := fieldOf (f (i / 8 * 8)).1 (8 * (i % 8)) 8

/-- A slice from its record; what the record does not hold is kept. -/
def sliceFrom (f : RecordImage) (v : Slice) : Slice :=
  let c := (f 8).1
  let total := fieldOf c 19 5 + fieldOf c 28 8
  { v with
    pc := (f 0).1.setWidth 57, active := BitVec.ofNat 4 (fieldOf c 0 4), exited := BitVec.ofNat 4 (fieldOf c 4 4),
    ret := ((List.range (fieldOf c 24 4)).map fun n => ((f (0x20 + 8 * n)).1.setWidth 57 : Addr)).reverse,
    retSpill := fieldOf c 36 9, retIn := none,
    div := ((List.range (fieldOf c 19 5)).map fun n => divOfImage ((f (0x108 + 16 * n)).1 ++ (f (0x100 + 16 * n)).1)).reverse,
    divSpill := fieldOf c 28 8,
    loops := ((List.range (fieldOf c 15 4)).map fun n => loopOf total fun i => (f (0x200 + 32 * n + 8 * i)).1).reverse }

/-- Registers of a group from its record; `kept` is the image of what was saved, whose poison stands element by element (R270). -/
def archFrom (f kept : RecordImage) (allot : Nat) (a : Arch) : Arch :=
  let sreg (i : Nat) : SReg :=
    let w := f (0x100 + 8 * i)
    let m := (f (0x2840 + i / 32 * 8)).1
    ⟨w.1, w.2 || bit m (2 * (i % 32)), w.2 || bit m (2 * (i % 32) + 1)⟩
  let vreg (i : Nat) : Elt :=
    let e := f.elt 0x4000 i
    ⟨e.bits, e.poison || bit (f.elt 0x2A00 (i / 32)).bits (i % 32)⟩
  let rng (n : Nat) : List Nat := List.range n
  let temp (i : Nat) : Elt :=
    let o := 0x700 + 0x400 * (i % 32 / 4)
    let j := 4 * (i / 32) + i % 4
    keepPoison (kept.sectorPoison (o + 4 * j)) (Store.get a.temps i).poison (f.elt o j)
  let slot (i : Nat) : Elt := keepPoison (kept.sectorPoison (0x2400 + 4 * i)) (Store.get a.stk i).poison (f.elt 0x2400 i)
  { a with
    vregs := Store.putAll [] ((rng (32 * allot)).map fun i => (i, vreg i)),
    temps := Store.putAll [] ((rng 256).map fun i => (i, temp i)),
    sregs := Store.putAll [] ((rng 64).map fun i => (i, sreg i)),
    xregs := Store.putAll [] ((rng 3).map fun i => (i + 1, (f (0x300 + 8 * i)).1.setWidth 8)),
    preds := Store.putAll [] ((rng 15).map fun i => (i + 1, (f.elt 0x320 (i + 1)).bits)),
    stk := Store.putAll [] ((rng 256).map fun i => (i, slot i)),
    sps := Store.putAll [] ((rng 32).map fun i => (i, BitVec.ofNat 4 (f.byte (0x2800 + i)))),
    lfs := Store.putAll [] ((rng 32).map fun i => (i, BitVec.ofNat 8 (f.byte (0x2820 + i)))),
    flags := (f 0x18).1.setWidth 10, retired := (f 0x28).1,
    slices := Store.putAll [] ((rng 8).map fun sl => (sl, sliceFrom (fun o => f (0x400 + 0x400 * sl + o)) (a.slice sl))),
    ticket := fieldOf (f 0x3000).1 0 16, ringIdx := fieldOf (f 0x3000).1 16 6 }

/-- The state of a command from its code. -/
def cmdStateOf (n : Nat) : CmdState :=
  match n with
  | 2 => .done
  | 3 => .cancelled
  | 4 => .faulted
  | _ => .queued

/-- A ring entry from its record. -/
def ringFrom (w : Word) (e : RingEntry) : RingEntry :=
  { e with state := cmdStateOf (fieldOf w 60 4), ticket := fieldOf w 44 16, done := fieldOf w 0 40 }

/-- A group from its record; what the record does not hold is kept (R256). -/
def groupFrom (f kept : RecordImage) (allot : Nat) (g : Group) : Group :=
  { g with
    arch := archFrom f kept allot g.arch, epc := (f 0).1, ecause := (f 8).1, einfo := (f 0x10).1,
    trapen := (f 0x20).1.setWidth 18, seed := (f 0x30).1, ovt := BitVec.ofNat 6 (fieldOf (f 0x38).1 0 6),
    handler := g.handler.map fun h => { h with privd := bit (f 0x38).1 9 },
    ring := Store.putAll [] ((List.range 64).map fun i => (i, ringFrom (f (0x3008 + 8 * i)).1 (Store.get g.ring i))) }

/-- A lease from the record of its group (R209, R458). -/
def leaseFrom (f kept : RecordImage) (allot : Nat) (c : Ctx) : Ctx :=
  let w := (f 0x2860).1
  let p := (f 0x2868).1
  let tile (t : Nat) : Tile :=
    { mode := modeOfStatus (f.elt 0x2880 t).bits,
      elts := Store.putAll [] ((List.range 1024).map fun i =>
        let o := 0x4000 + 128 * allot + 0x1000 * t
        (i, keepPoison (kept.sectorPoison (o + 4 * i)) (Store.get (Store.get c.tiles t).elts i).poison (f.elt o i))) }
  { c with
    count := fieldOf w 0 8, ntiles := fieldOf w 8 4, last := BitVec.ofNat 32 (fieldOf w 32 32),
    tiles := Store.putAll [] ((List.range (fieldOf w 8 4)).map fun t => (t, tile t)),
    part := { c.part with
              count := fieldOf p 0 6, flags := BitVec.ofNat 5 (fieldOf p 8 5), failed := bit p 17,
              loss := if bit p 16 then some (f 0x2870).1 else none } }

/-- The scratchpad image of a record (R255); `kept` lists the units that were poisoned when it was saved (R270). -/
def State.loadScratch (s : State) (p : Nat) (base : Word) (place n : Nat) (kept : List Nat) : State :=
  let f := s.readRecord p base
  (List.range (n / 8)).foldl (fun (u : State) i =>
    let w := f (0x1000 + 8 * i)
    u.homeWrite (place + 8 * i) (bytesOf w.1 8) (w.2 && (kept.contains i || !kept.any fun j => j / 4 == i / 4))) s

/-- Whether offset o of a group record belongs to control state, which is protected by duplication (R269). -/
def controlOffset (o : Nat) : Bool :=
  o < 0x100 || (decide (0x300 ≤ o) && decide (o < 0x400)) || (decide (0x400 ≤ o) && decide (o < 0x2400) && decide (o % 0x400 < 0x300))
    || (decide (0x2800 ≤ o) && decide (o < 0x4000))

end Sys2Proof.Machine
end

