-- ==== Sys2Proof/Machine/Place.lean ====
section
/-! DEFINITION. From a launch to resident teams: batches (R24), the queues of the quadrant dispatchers (R25), what a core takes (R28 to
R30, R94, R143, R262), placement of teams and clusters (R26, R27, R31, R32, R278), and the waking of a power cluster (R93, R94). -/

namespace Sys2Proof.Machine

open Sys2Proof

/-! Batches (R24, R25). -/

/-- Entries of a quadrant dispatcher's queue. -/
def queueRoom : Nat := 64
def State.queue (s : State) (q : Nat) : List QEntry := Store.get s.queues q
def State.setQueue (s : State) (q : Nat) (l : List QEntry) : State := { s with queues := Store.put s.queues q l }
def State.queueFree (s : State) (q : Nat) : Nat := queueRoom - (s.queue q).length

/-- A team goes behind those of its priority and of more urgent ones. -/
def queueBack (l : List QEntry) (e : QEntry) : List QEntry :=
  (l.takeWhile fun x => x.prio ≤ e.prio) ++ e :: l.dropWhile fun x => x.prio ≤ e.prio

/-- Restored and discarded teams go to the head of their priority (R42). -/
def queueFront (l es : List QEntry) (prio : Nat) : List QEntry :=
  (l.takeWhile fun x => x.prio < prio) ++ es ++ l.dropWhile fun x => x.prio < prio

/-- The quadrant of a core. -/
def quadOf (n : Nat) : Nat := n / 96

/-- Teams of a launch. -/
def LaunchRec.total (r : LaunchRec) : Nat := r.gx * r.gy * r.gz

/-- The team of a launch with a grid number, by rank in cluster c (R22, R24). -/
def teamAt (lid : Nat) (r : LaunchRec) (i c : Nat) : Team :=
  { launch := lid, cluster := c, rank := i % r.gx % r.clusterSize, x := i % r.gx, y := i / r.gx % r.gy, z := i / r.gx / r.gy,
    st := .queued }

/-- One cluster of a launch, or one team outside any, enters the queue of a quadrant. -/
def State.dispatchUnit (s : State) (lid q : Nat) : State :=
  let l := s.launch lid
  let r := l.info
  let c := s.names.cluster + 1
  let ids := (List.range r.clusterSize).map fun k => s.names.team + 1 + k
  let s1 := ids.zipIdx.foldl (fun (u : State) p => u.setTeam p.1 (teamAt lid r (l.next + p.2) c)) s
  let s2 := s1.setCluster c { launch := lid, teams := ids, cw := r.width, ch := r.height, bound := r.cw != 0 }
  let s3 := s2.setQueue q (ids.foldl (fun m t => queueBack m { team := t, prio := r.prio }) (s2.queue q))
  { s3.setLaunch lid { l with next := l.next + r.clusterSize } with
    names := { s3.names with team := s.names.team + r.clusterSize, cluster := c } }

/-- The quadrants in the order of the rotation. -/
def State.rotationOrder (s : State) : List Nat := (List.range 4).map fun i => (s.names.rotate + i) % 4

/-- How many clusters of a launch the next batch of a quadrant holds. -/
def State.batchUnits (s : State) (lid q : Nat) : Nat :=
  let l := s.launch lid
  min (min queueRoom (s.queueFree q)) (l.info.total - l.next) / l.info.clusterSize

/-- DISPATCH_BATCH: the global dispatcher hands a batch of a launch to the next quadrant of the rotation that has cores of the
partition and room (R24). -/
def execDispatchBatch (lid : Nat) (s : State) : Host.Outcome State Fault Refusal :=
  let l := s.launch lid
  event s (if l.held || decide (l.info.total ≤ l.next) || l.live = 0 then none else
    (s.rotationOrder.find? fun q => (s.coresOf l.part).any (fun n => quadOf n == q) && s.batchUnits lid q != 0).map fun q =>
      let s1 := (List.range (s.batchUnits lid q)).foldl (fun (u : State) _ => u.dispatchUnit lid q) s
      { s1 with names := { s1.names with rotate := (q + 1) % 4 } })

/-! What a core holds (R28). -/

/-- Whether a team holds resources of a core. -/
def Team.holds (t : Team) (n : Nat) : Bool :=
  t.core == n && (match t.st with
    | .placing | .resident | .saving | .discarding => true
    | _ => false)

/-- The teams that hold resources of a core. -/
def State.teamsOn (s : State) (n : Nat) : List Team := (s.teams.filter fun p => p.2.holds n).map (·.2)

/-- Granules of scratchpad of a team. -/
def State.granules (s : State) (t : Team) : Nat := (s.launch t.launch).info.spGranules

/-- First-fit from the lowest free granule (R29). -/
def State.firstGranule (s : State) (n size : Nat) : Option Nat :=
  let used := (s.teamsOn n).map fun t => (t.spGranule, s.granules t)
  (List.range (193 - size)).find? fun g => used.all fun u => decide (g + size ≤ u.1) || decide (u.1 + u.2 ≤ g) || u.2 == 0 || size == 0

/-- The port with the fewest groups bound to it (R30). -/
def State.leastPort (s : State) (n : Nat) : Nat :=
  (minBy (fun p => ((slotsOf p).filter fun k => (s.group n k).st != .free).length) (List.range 4)).getD 0

/-- The slots of the groups of a team of g groups, in group order (R30). A core on which the port of some group has no free slot does not
take the team, though it has g free slots: R28 counts slots and R30 names the ports; the model's choice (log 101). -/
def State.pickSlots (s : State) (n g : Nat) : Option (List Nat) :=
  let b := s.leastPort n
  let free := (List.range 64).filter fun k => (s.group n k).st == .free
  ((List.range g).foldl (fun (acc : Option (List Nat × List Nat)) j => acc.bind fun a =>
    (a.1.find? fun k => k % 4 == (b + j) % 4).map fun k => (a.1.erase k, a.2 ++ [k])) (some (free, []))).map (·.2)

/-- Blocks of eight vector registers that no group owns. -/
def State.freeBlocks (s : State) (n : Nat) : List Nat :=
  let used := (List.range 64).flatMap fun k => (s.group n k).blocks
  (List.range 512).filter fun b => !used.contains b

/-- Lease contexts of a core that nothing holds or has reserved. -/
def State.freeCtxs (s : State) (n : Nat) : List Nat :=
  (List.range 4).filter fun x => (s.ctx n x).holder.isNone && (s.ctx n x).reserved.isNone

/-- Leases that a restored team brings. -/
def Team.leases (t : Team) : Nat := (t.saved.filter fun g => g.2.isSome).length

/-- Whether a decision 0 keeps a core from taking teams: it is one of the cores of a cluster whose teams have still to retire (R262). -/
def State.draining (s : State) (n : Nat) : Bool :=
  s.clusters.any fun c => c.2.decision == some 0 && c.2.teams.any fun t => (s.team t).core == n

/-- Whether OVLD keeps the power cluster of a core from taking teams (R94). -/
def State.overloaded (s : State) (n : Nat) : Bool :=
  bit s.power.ovld (quadOf n) && (Store.get s.power.clusters (powerOf n)).exceeded

/-- Whether a core takes a team (R28, R94, R262). -/
def State.coreTakes (s : State) (n t : Nat) : Bool :=
  let v := s.team t
  let r := (s.launch v.launch).info
  let on := s.teamsOn n
  (s.pickSlots n r.groups).isSome
    && decide (r.groups * r.allot ≤ 8 * (s.freeBlocks n).length)
    && (s.firstGranule n r.spGranules).isSome
    && decide (on.length < 32)
    && decide (v.leases ≤ (s.freeCtxs n).length)
    && (on.all fun w => w.launch == v.launch || !(r.det || (s.launch w.launch).info.det))
    && !s.draining n && !s.overloaded n

/-! Private indices (R143). -/

/-- Private indices of a launch that its teams hold, rising. -/
def State.privsHeld (s : State) (lid : Nat) : List Nat :=
  sortBy id ((s.teams.filter fun p => p.2.launch == lid).filterMap fun p => p.2.priv)

/-- Whether the teams of a list that have no private index find one each. -/
def State.privRoom (s : State) (lid : Nat) (ts : List Nat) : Bool :=
  decide ((ts.filter fun t => (s.team t).priv.isNone).length + (s.privsHeld lid).length ≤ (s.launch lid).info.privs)

/-- Index k of those that no team holds. -/
def freeIndex (held : List Nat) (k : Nat) : Nat := held.foldl (fun i u => if u ≤ i then i + 1 else i) k

/-- A private index that no other team of the launch holds; which one is a free choice (R143, log 7). -/
def State.newPriv (s : State) (lid : Nat) : Nat :=
  let held := s.privsHeld lid
  freeIndex held (Config.freeNat s.fresh % ((s.launch lid).info.privs - held.length))

/-! Placement (R29 to R32). -/

/-- A range of memory that reads as zero, unpoisoned. -/
def State.clearRange (s : State) (lo n : Nat) : State :=
  { s with mem := s.mem.filter fun e => decide (e.1 < lo) || decide (lo + n ≤ e.1),
           poison := s.poison.filter fun e => decide (e.1 < lo) || decide (lo + n ≤ e.1) }

/-- The lanes of group j that have no thread, and so start exited (R17). -/
def LaunchRec.noThread (r : LaunchRec) (j : Nat) : Mask := maskOf 32 ((List.range 32).filter fun l => r.threads ≤ 32 * j + l)

/-- Registers and slices of a group that starts (R32). -/
def startArch (r : LaunchRec) (j : Nat) : Arch :=
  let gone := r.noThread j
  let a : Arch := { sregs := Store.put [] 1 ⟨r.args, false, false⟩ }
  let b := (List.range 8).foldl (fun (x : Arch) sl =>
    x.setSlice sl { pc := r.entry, active := ~~~(sliceBits gone sl), exited := sliceBits gone sl }) a
  { b with cands := [{ slices := b.liveSlices }] }

/-- Group j of a team as it is placed: a new one, or the saved one (R32). -/
def placedGroup (r : LaunchRec) (t : Team) (id j : Nat) (blocks : List Nat) : Group :=
  match t.saved[j]? with
  | some g => { g.1 with st := .loading, team := id, index := j, allot := r.allot, blocks := blocks }
  | none => { st := .loading, team := id, index := j, allot := r.allot, blocks := blocks, arch := startArch r j,
              trapen := r.trapen, ovt := r.ovt, seed := r.seed }

/-- The saved leases of a team take free contexts, the lowest first (R209). -/
def State.placeLeases (s : State) (n : Nat) (t : Team) (slots : List Nat) : State :=
  (slots.zip t.saved).foldl (fun (u : State) p =>
    match p.2.2, u.freeCtxs n with
    | some c, x :: _ => (u.modCtx n x fun _ => { c with holder := some p.1 }).modGroup n p.1 fun g => { g with lease := some x }
    | _, _ => u) s

/-- A team placed on a core takes its resources; its groups are LOADING (R29 to R32, R42, R93, R143). -/
def State.placeTeam (s : State) (t n : Nat) : State :=
  let v := s.team t
  let r := (s.launch v.launch).info
  let p := (s.launch v.launch).part
  let slots := (s.pickSlots n r.groups).getD []
  let per := r.allot / 8
  let blocks := sortBy (fun b => Config.freeNat (s.fresh + b)) (s.freeBlocks n)
  let g0 := (s.firstGranule n r.spGranules).getD 0
  let pc := Store.get s.power.clusters (powerOf n)
  let wake : Option Nat := if pc.gated then
      (match (s.teams.filterMap fun w => if powerOf w.2.core = powerOf n then w.2.wakeUntil else none).head? with
        | some w => some w
        | none => some (s.power.nanos + 2000))
    else none
  let v1 : Team := { v with st := .placing, core := n, spGranule := g0, slots := slots, wakeUntil := wake,
                            replay := v.record.isSome && v.tblld.isSome, priv := some (v.priv.getD (s.newPriv v.launch)), seq := some (v.seq.getD (s.part p).nextSeq) }
  let s1 := s.setTeam t v1
  let s2 := if v.seq.isNone then s1.modPart p fun w => { w with nextSeq := w.nextSeq + 1 } else s1
  let s3 := slots.zipIdx.foldl (fun (u : State) k =>
    u.setGroup n k.1 (placedGroup r v t k.2 ((blocks.drop (per * k.2)).take per))) s2
  let s4 := (s3.placeLeases n v slots).clearRange (scratchPlace n (g0 * 4096)) (r.spGranules * 4096)
  let s5 := if pc.gated then { s4 with power := { s4.power with
    clusters := Store.put s4.power.clusters (powerOf n) { pc with waking := true } } } else s4
  let s6 := match v.record with
    | some base => s5.loadScratch p base (scratchPlace n (g0 * 4096)) (r.spGranules * 4096) v.spPoison
    | none => s5
  { s6 with fresh := s6.fresh + 513 }

/-- The sets of cores on which a launch may place teams, the first choice first (R278). -/
def State.coreSets (s : State) (l : Launch) : List (List Nat) :=
  let cores := s.coresOf l.part
  let timed := (s.part l.part).timedCores
  let rest := cores.filter fun n => !bit timed n
  if l.timed then [cores.filter fun n => bit timed n, rest] else [rest]

/-- The core for a single team (R26). -/
def State.coreFor (s : State) (q t : Nat) (cores : List Nat) : Option Nat :=
  minBy (fun n => (s.teamsOn n).length * 2 ^ 16 + (coreIdOf n 0).toNat) (cores.filter fun n => quadOf n == q && s.coreTakes n t)

/-- The cores for a cluster, by rank; a team that has ended needs none (R27). -/
def State.rectFor (s : State) (q : Nat) (ts : List Nat) (r : LaunchRec) (cores : List Nat) : Option (List Nat) :=
  (rectsIn q r.width r.height).find? fun l => (l.zip ts).all fun p =>
    cores.contains p.1 && ((s.team p.2).st == TeamState.ended || s.coreTakes p.1 p.2)

/-- Teams leave the queue of a quadrant. -/
def State.unqueue (s : State) (q : Nat) (ts : List Nat) : State :=
  s.setQueue q ((s.queue q).filter fun e => !ts.contains e.team)

/-- TEAM_PLACE: the team at the head of a quadrant's queue, of a launch without clusters, is placed if it fits (R25, R26). -/
def execTeamPlace (q : Nat) (s : State) : Host.Outcome State Fault Refusal :=
  event s (match (s.queue q).head? with
    | none => none
    | some e =>
      let l := s.launch (s.team e.team).launch
      if l.info.cw != 0 || !s.privRoom (s.team e.team).launch [e.team] || !s.recordOpen e.team then none else
      ((s.coreSets l).findSome? (s.coreFor q e.team)).map fun n => (s.unqueue q [e.team]).placeTeam e.team n)

/-- CLUSTER_PLACE: the cluster at the head of a quadrant's queue is placed whole if it fits; a team of it that has ended needs neither core
nor private index (R25, R27, R143). -/
def execClusterPlace (q : Nat) (s : State) : Host.Outcome State Fault Refusal :=
  event s (match (s.queue q).head? with
    | none => none
    | some e =>
      let l := s.launch (s.team e.team).launch
      let ts := (s.cluster (s.team e.team).cluster).teams
      if l.info.cw = 0 || !s.privRoom (s.team e.team).launch (ts.filter fun t => (s.team t).st != TeamState.ended)
        || !ts.all s.recordOpen then none else
      ((s.coreSets l).findSome? (s.rectFor q ts l.info)).map fun cores =>
        (ts.zip cores).foldl (fun (u : State) p => if (u.team p.1).st == TeamState.queued then u.placeTeam p.1 p.2
            else u.modTeam p.1 fun v => { v with core := p.2 })
          (s.unqueue q ts))

/-- POWER_WAKE: a gated power cluster on which a team waits has woken, 2 µs after the placement; it starts with PASSES 4 (R93, R94). -/
def execPowerWake (pc : Nat) (s : State) : Host.Outcome State Fault Refusal :=
  let c := Store.get s.power.clusters pc
  let due := s.teams.any fun p => powerOf p.2.core == pc && (match p.2.wakeUntil with
    | some w => decide (w ≤ s.power.nanos)
    | none => false)
  event s (if c.gated && c.waking && due then
      let s1 := { s with power := { s.power with
        clusters := Store.put s.power.clusters pc { c with gated := false, waking := false, passes := 4, woke := s.power.nanos } } }
      some (s1.teams.foldl (fun (u : State) p =>
        if powerOf p.2.core = pc ∧ p.2.wakeUntil.isSome then u.modTeam p.1 fun t => { t with wakeUntil := none } else u) s1)
    else none)

end Sys2Proof.Machine
end

