-- ==== Sys2Proof/Machine/Power.lean ====
section
/-! DEFINITION. The activity estimate (R91) and the current arbiter of a compute domain (R90, R92 to R94). Currents are counted in units
of 2^-4 pC per 2 µs, of which QBUDGET's 0.25 A are eight million. -/

namespace Sys2Proof.Machine

open Sys2Proof

def State.powerCluster (s : State) (c : Nat) : PowerCluster := Store.get s.power.clusters c
def State.setPowerCluster (s : State) (c : Nat) (v : PowerCluster) : State :=
  { s with power := { s.power with clusters := Store.put s.power.clusters c v } }

/-- The events of R91 that the state counts whole: issue strokes by port and class, engine strokes, lane steps, special-function results,
table reads, clock-tree strokes. Of the scratchpad beats it counts those of words in S, whose beats R136 states; those that K, the engines
and space W make are given, as are the events for which the manual states no unit (register file accesses, L1 hits and misses, bond-port
beats) or no step (flits, temperatures): whoever makes the event gives them (log 90). -/
def countedEvent (i : Nat) : Bool := i < 24 || (36 ≤ i && i < 40)

/-- The cores of a power cluster that have counted 128 strokes. -/
def State.tallied (s : State) (pc : Nat) : List (Nat × Core) := s.cores.filter fun p => powerOf p.1 == pc && p.2.due

/-- c_i of a power cluster: what the state counts, and what is given of the others (R91). -/
def State.activityCount (s : State) (pc : Nat) (given : List Nat) (i : Nat) : Nat :=
  sumOf ((s.tallied pc).map fun p => Store.get p.2.tally i) + if countedEvent i then 0 else given.getD i 0

/-- Q of a power cluster is added to its estimate, at a 128-stroke boundary of its cores; weights written since the last boundary count
from here on (R91). -/
def State.estimate (s : State) (pc : Nat) (given : List Nat) : State :=
  let v := s.powerCluster pc
  let w := v.late.getD s.power.weights
  let q := sumOf ((List.range 48).map fun i => (Store.get w i).toNat * s.activityCount pc given i)
  ((s.tallied pc).foldl (fun (u : State) p => u.modCore p.1 fun c => { c with tally := [], due := false }) s).setPowerCluster pc
    { v with charge := v.charge + q, late := none }

/-- ACTIVITY_ESTIMATE: 128 strokes of a core of a power cluster have passed; counts holds the events that the state does not count, by
number (R91). -/
def execActivityEstimate (pc : Nat) (counts : List Nat) (s : State) : Host.Outcome State Fault Refusal :=
  event s (if pc < 64 ∧ !(s.tallied pc).isEmpty then some (s.estimate pc counts) else none)

/-- QBUDGET's unit. -/
def quarterAmp : Nat := 8000000

/-- The level that fills a budget: num / den with Σ min(d, level) = budget, for demands in rising order of which k are already below it
(R92). -/
def fillLevel (budget : Nat) (ds : List Nat) : Nat × Nat :=
  match ds with
  | [] => (budget, 1)
  | d :: r => if budget ≤ d * (r.length + 1) then (budget, r.length + 1) else fillLevel (budget - d) r

/-- The grant of a demand, as a fraction. -/
def grantOf (total budget : Nat) (level : Nat × Nat) (d : Nat) : Nat × Nat :=
  if total ≤ budget then (d, 1) else if d * level.2 ≤ level.1 then (d, 1) else level

/-- The next PASSES value of a power cluster with mean current i and a grant (R92). -/
def nextPasses (i passes : Nat) (grant : Nat × Nat) : Nat :=
  if grant.1 < i * grant.2 ∧ passes < 4 then 2 * passes
  else if 1 < passes ∧ 2 * i * 16 * grant.2 ≤ grant.1 * 15 then passes / 2
  else passes

/-- Whether a core of a power cluster runs its clock (R93). -/
def State.clusterRuns (s : State) (c : Nat) : Bool := (List.range 384).any fun n => powerOf n == c && s.clockRuns n

/-- A power cluster at the end of an interval: its current, its grant, whether it runs, and whether it has been awake for the whole of
the interval. Its PASSES is not relaxed at the end of the interval in which it woke: R92 would allow a step from 4 to 2 there, R94 forbids
only PASSES 1 before 4 µs; the model's choice (log 103). -/
def PowerCluster.arbitrate (v : PowerCluster) (i : Nat) (grant : Nat × Nat) (runs whole : Bool) : PowerCluster :=
  let next := nextPasses i v.passes grant
  { v with passes := if whole then next else max v.passes next, charge := 0, exceeded := decide (grant.1 < i * grant.2), ran := false,
           gated := v.gated || (!v.ran && !runs) }

/-- The nanosecond at which the current arbiter interval of a domain began. -/
def State.intervalStart (s : State) (q : Nat) : Nat := Store.get s.power.began q

/-- Whether the 2 µs of a domain's interval are over (R92). -/
def State.intervalOver (s : State) (q : Nat) : Bool := decide (s.intervalStart q + 2000 ≤ s.power.nanos)

/-- The end of an arbiter interval of compute domain q; `sensed` holds the sensed currents of its power clusters, which count while the
domain is in sense mode (R90, R92 to R94). -/
def State.arbitrate (s : State) (q : Nat) (sensed : List Nat) : State :=
  let ids := (List.range 16).map (16 * q + ·)
  let cur (c : Nat) : Nat := if bit s.power.estimate q then (s.powerCluster c).charge else sensed.getD (c % 16) 0
  let demand (c : Nat) : Nat := cur c * (s.powerCluster c).passes
  let total := sumOf (ids.map demand)
  let budget := (Store.get s.power.budget q).toNat * quarterAmp
  let level := fillLevel budget (sortBy id (ids.map demand))
  let grant (c : Nat) : Nat × Nat := grantOf total budget level (demand c)
  let tight := ids.any fun c => (s.powerCluster c).passes == 4 && decide ((grant c).1 < cur c * (grant c).2)
  let s1 := ids.foldl (fun (u : State) c =>
    let v := s.powerCluster c
    u.setPowerCluster c (v.arbitrate (cur c) (grant c) (s.clusterRuns c) (decide (v.woke ≤ s.intervalStart q)))) s
  { s1 with power := { s1.power with
    began := Store.put s1.power.began q (s.intervalStart q + 2000),
    ovld := if tight then s1.power.ovld ||| onehot 4 q else s1.power.ovld &&& ~~~(onehot 4 q) } }

/-- ARBITER_INTERVAL (R90, R92 to R94). -/
def execArbiterInterval (q : Nat) (sensed : List Nat) (s : State) : Host.Outcome State Fault Refusal :=
  event s (if q < 4 ∧ s.intervalOver q then some (s.arbitrate q sensed) else none)

/-! Neither waits: an estimate is made before its core's next stroke, an interval ends before the next nanosecond, with what nothing has
given left open (R91, R92, log 90). -/

/-- Free counts or currents. -/
def State.freeCounts (s : State) : List Nat := (List.range 48).map fun i => Config.freeNat (s.fresh + i)
def State.drawn (s : State) : State := { s with fresh := s.fresh + 48 }

/-- The next stroke of core n. -/
def passStroke (s : State) (n : Nat) : State :=
  strokeCore (if (s.core n).due then (s.estimate (powerOf n) s.freeCounts).drawn else s) n

/-- The next nanosecond. -/
def passTime (s : State) : State :=
  tickTime ((List.range 4).foldl (fun (u : State) q => if u.intervalOver q then (u.arbitrate q u.freeCounts).drawn else u) s)

end Sys2Proof.Machine
end

