-- ==== Sys2Proof/Machine/Retire.lean ====
section
/-! DEFINITION. The end of groups, teams and launches (R33, R35, R42, R44, R243, R258, R280), and the reset of a partition (R293). -/

namespace Sys2Proof.Machine

open Sys2Proof

/-! A slot becomes FREE. -/

/-- The vector registers of a group stay in the register file (R130). -/
def State.keepRegs (s : State) (n k : Nat) : State :=
  let g := s.group n k
  let es := (List.range g.allot).flatMap fun r => (List.range 32).map fun l =>
    (32 * (8 * g.blocks.getD (r / 8) 0 + r % 8) + l, g.arch.getV r l)
  s.modCore n fun c => { c with wregs := Store.putAll c.wregs es }

/-- A slot is freed with its lease, its reservation and its port; data that its stores left dirty in the L1 is written home (R33, R44,
R195, R280). That the context of a lease still held is reset, so that its tiles read 0 through W, is the model's choice: R196 speaks of
MFREE and END (log 119). So is it that groups held at an MLEASE become eligible whatever frees the slot: R49 names MFREE and END (log
119). -/
def State.freeSlot (s : State) (n k : Nat) : State :=
  let s1 := (s.at_ n k 0).flushOwn
  let s2 := s1.keepRegs n k
  let s3 := match (s2.group n k).lease with
    | some x =>
      let open_ := (s2.ctx n x).ops.foldl (fun (u : State) (o : MOp) => if o.places.isEmpty then u else u.leaveValve (groupKey n k) o.seq) s2
      (open_.modCtx n x fun _ => {}).wakeLeases n
    | none => s2
  let s4 := (s3.at_ n k 0).dropReservation.freePort
  s4.setGroup n k {}

/-- Whether the stores that a group's slot leaves dirty in the L1 may leave for home now (R287). -/
def State.ownOpen (s : State) (n k : Nat) : Bool := s.flushOpen n fun _ b => b.dirty &&& onehot 64 k != 0

/-- A team's Sump record is freed (R258). -/
def State.freeRecord (s : State) (t : Nat) : State :=
  let v := s.team t
  match v.record with
  | none => s
  | some b => (s.modPart (s.launch v.launch).part fun p =>
      { p with sumpUsed := p.sumpUsed.filter fun u => p.sumpBase.toNat + 4096 * u.1 != b.toNat }).setTeam t { v with record := none }

/-- A core that no team holds has no rotation (R47). -/
def State.endRotation (s : State) (n : Nat) : State :=
  if (s.teamsOn n).isEmpty then s.modCore n fun c => { c with current := none, idle := false } else s

/-- A decision ends with the residency of the last team of its cluster (R259). -/
def State.endDecision (s : State) (c : Nat) : State :=
  let held := (s.cluster c).teams.any fun t => (s.team t).holds (s.team t).core
  if held then s else s.modCluster c fun v => { v with decision := none, pdeadline := 0, deadline := 0, yielded := false }

/-- The slots, registers, scratchpad and descriptor of a team are freed (R44). -/
def State.leaveCore (s : State) (t : Nat) (v : Team) : State :=
  let n := (s.team t).core
  let s1 := (s.heldGroups t).foldl (fun (u : State) g => u.freeSlot g.1 g.2.1) s
  ((s1.setTeam t { v with slots := [], wakeUntil := none }).endRotation n).endDecision v.cluster

/-- A team retires or has ended: its launch counts it, and remembers the first one that did not retire (R42, R243, R280). -/
def State.finishTeam (s : State) (t : Nat) (st : EndStatus) (ecause epc einfo : Word) : State :=
  let s1 := (s.freeRecord t)
  let v := s1.team t
  let v1 : Team := { v with st := .ended, status := st, priv := none, saved := [], spPoison := [], gone := [], ending := none,
                            requeued := false, resumeDue := false }
  let s2 := s1.leaveCore t v1
  let s3 := (List.range 4).foldl (fun (u : State) q => u.unqueue q [t]) s2
  s3.modLaunch v.launch fun l =>
    { l with live := l.live - 1,
             first := match l.first with
               | some f => some f
               | none => if st = .retired then none else some (st, ecause, epc, einfo) }

/-- Whether the work that a group has issued is done: no access, command or batch is left (R33, R183, R209, R243). -/
def State.drained (s : State) (n : Nat) (g : Group) : Bool :=
  g.aq.isEmpty && g.cmds.isEmpty && (match g.lease with
    | some x => (s.ctx n x).batches.isEmpty
    | none => true)

/-- GROUP_FREE: a group in DONE whose counters are zero and whose lease is released leaves its slot; with the last one its team retires
(R33, R35, R42). -/
def execGroupFree (core slot : Nat) (s : State) : Host.Outcome State Fault Refusal :=
  let g := s.group core slot
  let v := s.team g.team
  event s (if g.st != .done || g.lease.isSome || !s.drained core g || v.st != TeamState.resident || v.ending.isSome
      || !s.ownOpen core slot then none else
    let s1 := s.freeSlot core slot
    some (if (s1.heldGroups g.team).isEmpty then s1.finishTeam g.team .retired 0 0 0
      else s1.modTeam g.team fun w => { w with gone := (g.index, { g with st := .free }) :: w.gone.filter fun x => x.1 != g.index }))

/-- TEAM_END: a team that is to end has its loads, gathers, batches and stores awaited, then frees its resources (R243, R280). -/
def execTeamEnd (team : Nat) (s : State) : Host.Outcome State Fault Refusal :=
  event s (match (s.team team).ending with
    | none => none
    | some (st, ec, pc, info) =>
      if (s.heldGroups team).all fun g => s.drained g.1 g.2.2 && s.ownOpen g.1 g.2.1 then some (s.finishTeam team st ec pc info) else none)

/-! Completion of a launch (R280). -/

/-- A write of the Wellhead that is dropped is counted. -/
def State.storeOrCount (s : State) (p : Nat) (a : Word) (bs : List Byte) : State :=
  match s.gStore p a.toNat bs with
  | none => s.logError 22
  | some (s1, lost) => if lost then s1.logError 22 else s1

/-- The atomic add of 1 to a completion semaphore; poison stays. -/
def State.addSemaphore (s : State) (p : Nat) (a : Word) : State :=
  match s.gPlaces 384 p true .atomic a.toNat 8 with
  | .error _ => s.logError 22
  | .ok ps =>
    let v : Word := ofBytes 64 (ps.map s.byteAt)
    let r := s.putPlaces p ((ps.zip (bytesOf (v + 1) 8)).map fun q => (q.1, q.2, s.poisoned q.1))
    if r.2 then r.1.logError 22 else r.1

/-- The completion record. -/
def completionRecord (f : Option (EndStatus × Word × Word × Word)) : List Byte :=
  match f with
  | none => List.replicate 32 0
  | some (st, ec, pc, info) => bytesOf (BitVec.ofNat 64 st.code) 8 ++ bytesOf ec 8 ++ bytesOf pc 8 ++ bytesOf info 8

/-- A launch completes: its draw entry goes, its record and its semaphore are written. -/
def State.completeLaunch (s : State) (lid : Nat) : State :=
  let l := s.launch lid
  let s1 := (s.setLaunch lid { l with complete := true }).modPart l.part fun p =>
    { p with draws := p.draws.filter fun d => d.1 != lid }
  let s2 := if l.info.record = 0 then s1 else s1.storeOrCount l.part l.info.record (completionRecord l.first)
  let s3 := if l.info.sema = 0 then s2 else s2.addSemaphore l.part l.info.sema
  s3.retryLaunches

/-- Whether the record and the semaphore of a launch may be written now: the Wellhead's traffic uses the partition's own and shared slots,
that of a reset its own (R287, R293). -/
def State.completionOpen (s : State) (l : Launch) : Bool :=
  (l.info.record = 0 || s.gOpen l.part l.info.record.toNat 32) && (l.info.sema = 0 || s.gOpen l.part l.info.sema.toNat 8)

/-- LAUNCH_COMPLETE: every team of a launch has retired or ended (R280). -/
def execLaunchComplete (lid : Nat) (s : State) : Host.Outcome State Fault Refusal :=
  let l := s.launch lid
  event s (if l.complete || l.live != 0 || decide (l.next < l.info.total) || !s.completionOpen l then none else some (s.completeLaunch lid))

/-! Reset of a partition (R293). -/

/-- The teams of a partition that have neither retired nor ended. -/
def State.liveTeams (s : State) (p : Nat) : List Nat :=
  (s.teams.filter fun t => (s.launch t.2.launch).part == p && t.2.st != TeamState.ended).map (·.1)

/-- A team is killed: one that holds a core drains first. -/
def State.killTeam (s : State) (t : Nat) : State :=
  if (s.team t).holds (s.team t).core then s.endTeam t .killed 0 0 0 else s.finishTeam t .killed 0 0 0

/-- The launches of a partition hand out no more teams, are held no longer, and complete with KILLED. -/
def killLaunch (p : Nat) (l : Launch) : Launch :=
  if l.part = p ∧ !l.complete then
    { l with held := false, live := l.live - (l.info.total - l.next), next := l.info.total, first := some (.killed, 0, 0, 0) }
  else l

/-- CSMODE: the domains in which a partition is being reset use the switch-drop sense (R90). -/
def State.senseMode (s : State) : State :=
  let busy (q : Nat) : Bool := s.parts.any fun p => p.2.resetting && p.2.cores.any fun n => quadOf n == q
  { s with power := { s.power with estimate := maskOf 4 ((List.range 4).filter fun q => !busy q) } }

/-- A write of 1 to RESET. -/
def resetPartition (s : State) (p : Nat) : State :=
  let s1 := s.modPart p fun v => { v with resetting := true, requests := [] }
  let s2 := s1.streams.foldl (fun (u : State) v =>
    if v.2.part = some p then u.setStream v.1 { v.2 with state := 0, hold := .none, grp := { v.2.grp with aq := v.2.grp.checkedAccesses } } else u) s1
  let s3 := s2.launches.foldl (fun (u : State) l => u.setLaunch l.1 (killLaunch p l.2)) s2
  ((s3.liveTeams p).foldl (fun (u : State) t => u.killTeam t) s3).senseMode

/-- PARTITION_RESET (R293). -/
def execPartitionReset (part : Nat) (s : State) : Host.Outcome State Fault Refusal :=
  event s (if (s.part part).resetting then none else some (resetPartition s part))

/-- Valve entries and lookup tables of a partition's cores are cleared, its buffer slices read as zero, its draw entries go (R141, R234,
R293). -/
def State.clearPartition (s : State) (p : Nat) : State :=
  let v := s.part p
  let s1 := v.cores.foldl (fun (u : State) n => u.modCore n fun c => { c with valve := [], lut := {} }) s
  let s2 := (v.cacheSlices ++ v.bufSlices).foldl (fun (u : State) i => u.clearRange (cisternPlace i 0) 0x800000) s1
  (s2.setPart p { v with resetting := false, draws := [] }).senseMode

/-- PARTITION_RESET_DONE: the last step of the reset is complete (R293). -/
def execPartitionResetDone (part : Nat) (s : State) : Host.Outcome State Fault Refusal :=
  let open_ := s.launches.any fun l => l.2.part == part && !l.2.complete
  event s (if !(s.part part).resetting || open_ || !(s.liveTeams part).isEmpty then none else some (s.clearPartition part))

end Sys2Proof.Machine
end

