-- ==== Sys2Proof/Machine/Rewriter.lean ====
section
/-! DEFINITION. The load-path rewriter (R291): the descriptor, the maps, the relocation list, and the steps applied to each word. -/

namespace Sys2Proof.Machine

open Sys2Proof

/-! Renumbering. -/

/-- The vector map and the scalar map of a rewrite. -/
structure RegMap where
  vec : List Byte
  scal : List Byte
  deriving DecidableEq, Repr

def RegMap.v (m : RegMap) (b : Nat) : Nat := (m.vec.getD b 0).toNat

/-- A vector operand field; one that names a run temporary stays (R297). -/
def RegMap.op (m : RegMap) (o : VOp) : VOp := if o.isTemp then o else { o with base := BitVec.ofNat 8 (m.v o.base.toNat) }
def RegMap.s (m : RegMap) (r : BitVec 6) : BitVec 6 := (m.scal.getD r.toNat 0).setWidth 6
def RegMap.src (m : RegMap) (b : SSrc) : SSrc :=
  match b with
  | .reg r => .reg (m.s r)
  | .imm v => .imm v
def RegMap.atom (m : RegMap) (a : AtomF) : AtomF :=
  { a with sb := m.s a.sb, opnd := match a.opnd with
    | .scal x y => .scal (m.s x) (m.s y)
    | .vec x y => .vec (m.op x) (m.op y) }
def RegMap.mov (m : RegMap) (f : SMovForm) : SMovForm :=
  match f with
  | .ss d a => .ss (m.s d) (m.s a)
  | .sx x a => .sx x (m.s a)
  | .xs d x => .xs (m.s d) x
def RegMap.cvt (m : RegMap) (f : CvtForm) : CvtForm :=
  match f with
  | .narrow t a b => .narrow t (m.op a) (m.op b)
  | .widen t a h => .widen t (m.op a) h
  | .cross a b x => .cross a b (m.op x)
  | .toInt t a => .toInt t (m.op a)
  | .fromInt t a => .fromInt t (m.op a)
def RegMap.dst (m : RegMap) (d : SrdDst) : SrdDst :=
  match d with
  | .vec o => .vec (m.op o)
  | .scal r => .scal (m.s r)

/-- Feed bases have five bits. -/
def RegMap.feeds (m : RegMap) (f : Feeds) : Feeds :=
  let b (x : BitVec 5) : BitVec 5 := BitVec.ofNat 5 (m.v x.toNat)
  { f with f0 := b f.f0, f1 := b f.f1, f2 := b f.f2, f3 := b f.f3 }
def RegMap.export_ (m : RegMap) (e : Export) : Export :=
  match e with
  | .vec n => .vec (BitVec.ofNat 8 (m.v n.toNat))
  | .scal n => .scal (m.s n)
  | .pred n => .pred n

/-- A word with its register numbers mapped. -/
def RegMap.instr (v : RegMap) : Instr → Instr
  | .aadd h a => .aadd h (v.atom a)
  | .aand h a => .aand h (v.atom a)
  | .aor h a => .aor h (v.atom a)
  | .axor h a => .axor h (v.atom a)
  | .amax h a => .amax h (v.atom a)
  | .amin h a => .amin h (v.atom a)
  | .axch h a => .axch h (v.atom a)
  | .acas h a => .acas h (v.atom a)
  | .brx h sr join => .brx h (v.s sr) join
  | .callx h sr => .callx h (v.s sr)
  | .ftinit h acc dim sk => .ftinit h acc dim (v.s sk)
  | .ftupd h acc va => .ftupd h acc (v.op va)
  | .ftdnd h acc va => .ftdnd h acc (v.op va)
  | .ftsolv h acc va bwd => .ftsolv h acc (v.op va) bwd
  | .ftldet h acc va => .ftldet h acc (v.op va)
  | .ftld h acc sp sb dim off => .ftld h acc sp (v.s sb) dim off
  | .ftst h acc sp sb off => .ftst h acc sp (v.s sb) off
  | .launch h sd sr => .launch h (v.s sd) (v.s sr)
  | .launchat h sd sr st => .launchat h (v.s sd) (v.s sr) (v.s st)
  | .loopC h id cnt max stop => .loopC h id (v.s cnt) max stop
  | .mcomp h ty vd vm vs => .mcomp h ty (v.op vd) (v.op vm) (v.op vs)
  | .mfence h sd => .mfence h (v.s sd)
  | .mlda h acc sp sb off => .mlda h acc sp (v.s sb) off
  | .msta h acc sp sb off => .msta h acc sp (v.s sb) off
  | .mlease h sd cnt tiles => .mlease h (v.s sd) cnt tiles
  | .mma h ty acc va vb fb => .mma h ty acc (v.op va) (v.op vb) (v.s fb)
  | .mmas h ty acc va vm vb fb => .mmas h ty acc (v.op va) (v.op vm) (v.op vb) (v.s fb)
  | .mmova h acc va qtr dir => .mmova h acc (v.op va) qtr dir
  | .mwait h sk => .mwait h (v.s sk)
  | .ovtld h sk => .ovtld h (v.s sk)
  | .pcanc h st => .pcanc h (v.s st)
  | .pcpy h st sd sa sl dsp ssp sc => .pcpy h (v.s st) (v.s sd) (v.s sa) (v.s sl) dsp ssp sc
  | .pfill h st sd sl sp dsp sc => .pfill h (v.s st) (v.s sd) (v.s sl) (v.s sp) dsp sc
  | .pstat h sd st => .pstat h (v.s sd) (v.s st)
  | .rsst h sp sc sb what off => .rsst h sp sc (v.s sb) what off
  | .sadd h ty sd sa b => .sadd h ty (v.s sd) (v.s sa) (v.src b)
  | .ssub h ty sd sa b => .ssub h ty (v.s sd) (v.s sa) (v.src b)
  | .sand h ty sd sa b => .sand h ty (v.s sd) (v.s sa) (v.src b)
  | .sor h ty sd sa b => .sor h ty (v.s sd) (v.s sa) (v.src b)
  | .sxor h ty sd sa b => .sxor h ty (v.s sd) (v.s sa) (v.src b)
  | .sshl h ty sd sa b => .sshl h ty (v.s sd) (v.s sa) (v.src b)
  | .sshr h ty sd sa b => .sshr h ty (v.s sd) (v.s sa) (v.src b)
  | .ssra h ty sd sa b => .ssra h ty (v.s sd) (v.s sa) (v.src b)
  | .smax h ty sd sa b => .smax h ty (v.s sd) (v.s sa) (v.src b)
  | .smin h ty sd sa b => .smin h ty (v.s sd) (v.s sa) (v.src b)
  | .scmp h ty c sd sa b => .scmp h ty c (v.s sd) (v.s sa) (v.src b)
  | .ssel h ty sd sa sb sc => .ssel h ty (v.s sd) (v.s sa) (v.s sb) (v.s sc)
  | .smul h ty sd sa b => .smul h ty (v.s sd) (v.s sa) (v.src b)
  | .smulh h ty sd sa b => .smulh h ty (v.s sd) (v.s sa) (v.src b)
  | .sdiv h ty sd sa b => .sdiv h ty (v.s sd) (v.s sa) (v.src b)
  | .smov h f => .smov h (v.mov f)
  | .smovi h sd imm => .smovi h (v.s sd) imm
  | .shi h sd sa imm q => .shi h (v.s sd) (v.s sa) imm q
  | .slea h sd sa b sc => .slea h (v.s sd) (v.s sa) (v.src b) sc
  | .sclz h sd sa => .sclz h (v.s sd) (v.s sa)
  | .spopc h sd sa => .spopc h (v.s sd) (v.s sa)
  | .semwait h op sa sv => .semwait h op (v.s sa) (v.s sv)
  | .semsig h op sa sv => .semsig h op (v.s sa) (v.s sv)
  | .siph h st vi sb sp dst src => .siph h (v.s st) (v.op vi) (v.s sb) (v.s sp) dst src
  | .sld h ty m sd off => .sld h ty { m with sb := v.s m.sb } (v.s sd) off
  | .sst h ty m sv off => .sst h ty { m with sb := v.s m.sb } (v.s sv) off
  | .srd h dst spr => .srd h (v.dst dst) spr
  | .swr h sa spr => .swr h (v.s sa) spr
  | .svst h sp sc sb what off => .svst h sp sc (v.s sb) what off
  | .tblld h sp sb off => .tblld h sp (v.s sb) off
  | .vabs h ty vd va rm => .vabs h ty (v.op vd) (v.op va) rm
  | .vneg h ty vd va rm => .vneg h ty (v.op vd) (v.op va) rm
  | .vmov h vd va rm => .vmov h (v.op vd) (v.op va) rm
  | .vbcast h vd sa rm => .vbcast h (v.op vd) (v.s sa) rm
  | .vact h mode vd va rm => .vact h mode (v.op vd) (v.op va) rm
  | .vgate h mode vd vx vy rm => .vgate h mode (v.op vd) (v.op vx) (v.op vy) rm
  | .vadd h ty vd va vb rm => .vadd h ty (v.op vd) (v.op va) (v.op vb) rm
  | .vsub h ty vd va vb rm => .vsub h ty (v.op vd) (v.op va) (v.op vb) rm
  | .vmul h ty vd va vb rm => .vmul h ty (v.op vd) (v.op va) (v.op vb) rm
  | .vmax h ty vd va vb rm => .vmax h ty (v.op vd) (v.op va) (v.op vb) rm
  | .vmin h ty vd va vb rm => .vmin h ty (v.op vd) (v.op va) (v.op vb) rm
  | .vand h vd va vb rm => .vand h (v.op vd) (v.op va) (v.op vb) rm
  | .vor h vd va vb rm => .vor h (v.op vd) (v.op va) (v.op vb) rm
  | .vxor h vd va vb rm => .vxor h (v.op vd) (v.op va) (v.op vb) rm
  | .vshl h vd va vb rm => .vshl h (v.op vd) (v.op va) (v.op vb) rm
  | .vshr h vd va vb rm => .vshr h (v.op vd) (v.op va) (v.op vb) rm
  | .vsra h vd va vb rm => .vsra h (v.op vd) (v.op va) (v.op vb) rm
  | .vcmp h c ty pd va vb rm => .vcmp h c ty pd (v.op va) (v.op vb) rm
  | .vcvt h vd f rm => .vcvt h (v.op vd) (v.cvt f) rm
  | .vexpE h vd va rm => .vexpE h (v.op vd) (v.op va) rm
  | .vexp2 h vd va rm => .vexp2 h (v.op vd) (v.op va) rm
  | .vlog h vd va rm => .vlog h (v.op vd) (v.op va) rm
  | .vrcp h vd va rm => .vrcp h (v.op vd) (v.op va) rm
  | .vrsq h vd va rm => .vrsq h (v.op vd) (v.op va) rm
  | .vsqrt h vd va rm => .vsqrt h (v.op vd) (v.op va) rm
  | .vfma h ty vd va vb vc rm => .vfma h ty (v.op vd) (v.op va) (v.op vb) (v.op vc) rm
  | .vsel h vd va vb pc rm => .vsel h (v.op vd) (v.op va) (v.op vb) pc rm
  | .vld h ty m vd off => .vld h ty { m with sb := v.s m.sb } (v.op vd) off
  | .vst h ty m vr rm off => .vst h ty { m with sb := v.s m.sb } (v.op vr) rm off
  | .vgth h ty m vd vi off => .vgth h ty { m with sb := v.s m.sb } (v.op vd) (v.op vi) off
  | .vsct h ty m vr vi off => .vsct h ty { m with sb := v.s m.sb } (v.op vr) (v.op vi) off
  | .vldt h ty vd sk so => .vldt h ty (v.op vd) (v.s sk) (v.s so)
  | .vstt h ty vr sk so => .vstt h ty (v.op vr) (v.s sk) (v.s so)
  | .vlut h ty vd va rm => .vlut h ty (v.op vd) (v.op va) rm
  | .vmoms h sd va pm sk rm => .vmoms h (v.s sd) (v.op va) pm (v.s sk) rm
  | .vpkn h ty vd va vs rm => .vpkn h ty (v.op vd) (v.op va) (v.op vs) rm
  | .vupn h ty vd va vs rm => .vupn h ty (v.op vd) (v.op va) (v.op vs) rm
  | .vshfl h vd va vi sk rm => .vshfl h (v.op vd) (v.op va) (v.op vi) (v.s sk) rm
  | .vvote h sd pa sk rm => .vvote h (v.s sd) pa (v.s sk) rm
  | .vrank h vd sa sk rm => .vrank h (v.op vd) (v.s sa) (v.s sk) rm
  | .vred h op ty sd va sk rm => .vred h op ty (v.s sd) (v.op va) (v.s sk) rm
  | .vscan h op ty vd va sk rm => .vscan h op ty (v.op vd) (v.op va) (v.s sk) rm
  | .vrng h ty w vd sc rm => .vrng h ty w (v.op vd) (v.s sc) rm
  | .vsmax h sd va pm sk rm => .vsmax h (v.s sd) (v.op va) pm (v.s sk) rm
  | .vsexp h vd va ss sm sk pm => .vsexp h (v.op vd) (v.op va) (v.s ss) (v.s sm) (v.s sk) pm
  | .vsdiv h vd va ss pm rm => .vsdiv h (v.op vd) (v.op va) (v.s ss) pm rm
  | .waitp h path sk => .waitp h path (v.s sk)
  | .xlfs h vd => .xlfs h (v.op vd)
  | .xlsp h vd => .xlsp h (v.op vd)
  | .xv h vd vw f => .xv h (v.op vd) (v.op vw) (v.feeds f)
  | .xvn h n vd vw f => .xvn h n (v.op vd) (v.op vw) (v.feeds f)  | .runend c es => .runend c (es.map v.export_)
  | i => i

/-! One word. -/

/-- A relocation: word offset, and whether it names an absolute data word. -/
abbrev Reloc := Nat × Bool

/-- A branch offset with a number of words added; none when it leaves its field. -/
def moveOff (off : BitVec 26) (n : Nat) : Option (BitVec 26) :=
  let v : Int := off.toInt + n
  if -(2 ^ 25) ≤ v ∧ v < 2 ^ 25 then some (BitVec.ofInt 26 v) else none

/-- The class field of a word. -/
def withClass (w : Word) (cls : Nat) : Word := (w &&& 0xFCFFFFFFFFFFFFFF) ||| BitVec.ofNat 64 (cls * 2 ^ 56)

/-- A branch offset to which n relocations each add a load base. -/
def moveTimes (n : Nat) (off : BitVec 26) (base : Word) : Option (BitVec 26) :=
  match n with
  | 0 => some off
  | n + 1 => (moveOff off (base.toNat / 8)).bind fun o => moveTimes n o base

/-- An instruction with a load base added to its branch offset for each of its n relocations. -/
def relocInstr (i : Instr) (n : Nat) (base : Word) : Option Instr :=
  match i with
  | .bra h off j => (moveTimes n off base).map fun o => .bra h o j
  | .call h off => (moveTimes n off base).map fun o => .call h o
  | i => some i

/-- A word as the rewriter passes it on, given its relocations and the slowest class of its run so far; none when a branch offset
leaves its range. -/
def rewriteWord (m : RegMap) (base : Word) (rels : List Bool) (cls : Nat) (w : Word) : Option Word :=
  if rels.contains true then some ((rels.filter id).foldl (fun x _ => x + base) w)
  else if 0x30 ≤ majorOf w then some w
  else match decode w with
    | .error _ => some w
    | .ok i =>
      (relocInstr (m.instr i) rels.length base).map fun j =>
        let x := (encode j).getD w
        withClass x (if majorOf w = 0x2F then cls else effClass w)

/-! The whole text. -/

/-- What a descriptor asks for. -/
structure RewriteJob where
  part : Nat
  src : Word
  dst : Word
  len : Nat
  base : Word
  map : RegMap
  rels : List Reloc
  deriving DecidableEq, Repr

/-- n words from word i on, with `run` words of the current run passed and their slowest class; the state and the status. -/
def rewriteText (j : RewriteJob) (n i run cls : Nat) (s0 : State) : State × Nat :=
  match n with
  | 0 => (s0, if run = 0 then 1 else 3)
  | n + 1 =>
    match s0.gWord j.part (j.src.toNat + 8 * i) with
    | .error _ => (s0, 5)
    | .ok w =>
      let s := s0.countRead j.part (j.src.toNat + 8 * i) 8
      let rels := (j.rels.filter fun r => r.1 == i).map (·.2)
      let data := rels.contains true
      let trailer := majorOf w == 0x2F && !data
      if 24 ≤ run && !trailer && !data then (s, 3) else
      match rewriteWord j.map j.base rels cls w with
      | none => (s, 2)
      | some x =>
        match s.gStore j.part (j.dst.toNat + 8 * i) (bytesOf x 8) with
        | none => (s, 5)
        | some t =>
          if data then rewriteText j n (i + 1) run cls t.1
          else if trailer then rewriteText j n (i + 1) 0 0 t.1
          else rewriteText j n (i + 1) (run + 1) (max cls (effClass w)) t.1

/-- Whether a partition has been assigned (R284). -/
def State.assigned (s : State) (p : Nat) : Bool := !(s.part p).channels.isEmpty

/-- The descriptor: the one that a partition's translation finds and that names that partition; else a status (R291, log 35). -/
def State.findDescriptor (s : State) : Except Nat (Nat × List Byte) :=
  let at_ := s.rewriter.descr.toNat
  let found := (List.range 32).filterMap fun p => if s.assigned p then (match s.gLoad p at_ 64 with
    | .ok bs => some (p, bs)
    | .error _ => none) else none
  match found.find? fun d => fieldOf (recField d.2 0x10 8) 32 5 == d.1 with
  | some d => .ok d
  | none => .error (if found.isEmpty then 5 else 4)

/-- Whether the reserved bits of a descriptor are zero and its addresses are multiples of 8. -/
def goodDescriptor (descr : Word) (bs : List Byte) : Bool :=
  descr.toNat % 64 == 0 && (recField bs 0 8).toNat % 8 == 0 && (recField bs 8 8).toNat % 8 == 0
    && fieldOf (recField bs 0x10 8) 37 27 == 0 && (recField bs 0x18 8).toNat % 8 == 0 && fieldOf (recField bs 0x20 8) 32 32 == 0

/-- A relocation entry. -/
def relocOf (w : Word) : Reloc := (fieldOf w 0 32, bit w 32)

/-- The relocation list, with the reads that crossed a dead link counted; none where it cannot be read. -/
def State.readRelocs (s : State) (p : Nat) (a : Word) (n : Nat) : Option (State × List Word) :=
  ((List.range n).foldl (fun (acc : Option (State × List Word)) i => acc.bind fun l =>
    ((l.1.gWord p (a.toNat + 8 * i)).toOption).map fun w => (l.1.countRead p (a.toNat + 8 * i) 8, w :: l.2)) (some (s, []))).map
      fun r => (r.1, r.2.reverse)

/-- The job of the descriptor, or the status that ends it. -/
def State.rewriteJob (s : State) : State × Except Nat RewriteJob :=
  match s.findDescriptor with
  | .error e => (s, .error e)
  | .ok (p, bs) =>
    let s1 := s.countRead p s.rewriter.descr.toNat 64
    if !goodDescriptor s.rewriter.descr bs then (s1, .error 4) else
    let va := (recField bs 0x30 8).toNat
    let ma := (recField bs 0x38 8).toNat
    let s2 := s1.countRead p va 256
    let s3 := s2.countRead p ma 64
    match s1.gLoad p va 256, s2.gLoad p ma 64, s3.readRelocs p (recField bs 0x18 8) (fieldOf (recField bs 0x20 8) 0 32) with
    | .ok v, .ok m, some rels =>
      (rels.1, if (m.any fun b => 63 < b.toNat) || rels.2.any (fun w => fieldOf w 33 31 != 0) then .error 4
        else .ok { part := p, src := recField bs 0 8, dst := recField bs 8 8, len := fieldOf (recField bs 0x10 8) 0 32,
                   base := recField bs 0x28 8, map := ⟨v, m⟩, rels := rels.2.map relocOf })
    | _, _, _ => (s3, .error 5)

/-- Whether what the rewriter reads and writes may travel now: the descriptor, the maps and the list, the text and its destination (R287). -/
def State.rewriteOpen (s : State) : Bool :=
  let d := s.rewriter.descr.toNat
  ((List.range 32).all fun p => !s.assigned p || s.gOpen p d 64) && (match s.findDescriptor with
    | .error _ => true
    | .ok (p, bs) =>
      let rels := fieldOf (recField bs 0x20 8) 0 32
      s.gOpen p (recField bs 0x30 8).toNat 256 && s.gOpen p (recField bs 0x38 8).toNat 64
        && s.gOpen p (recField bs 0x18 8).toNat (8 * rels)
        && (match s.rewriteJob.2 with
          | .error _ => true
          | .ok j => s.gOpen p j.src.toNat (8 * j.len) && s.gOpen p j.dst.toNat (8 * j.len)))

/-- The rewriter starts: its status reads busy. A write while it is busy is ignored (log 35). -/
def startRewriter (s : State) (v : Word) : State :=
  if s.rewriter.status = 0 then s else { s with rewriter := { descr := v, status := 0 } }

/-- REWRITER_START (R291). -/
def execRewriterStart (v : Word) (s : State) : Host.Outcome State Fault Refusal := event s (some (startRewriter s v))

/-- REWRITER_DONE: the rewriter ends, with its status (R291). -/
def execRewriterDone (s : State) : Host.Outcome State Fault Refusal :=
  event s (if s.rewriter.status ≠ 0 || !s.rewriteOpen then none else
    let r := match s.rewriteJob with
      | (u, .error e) => (u, e)
      | (u, .ok j) => rewriteText j j.len 0 0 0 u
    some { r.1 with rewriter := { r.1.rewriter with status := r.2 } })

end Sys2Proof.Machine
end

