-- ==== Sys2Proof/Machine/Sump.lean ====
section
/-! DEFINITION. Saves to the Sump and what follows them: parking, windows and deadlines (R262, R263, R266, R456), the save itself (R163,
R183, R209, R254, R258), RESUME and KILL (R43, R256, R257), the loading of placed groups with the TBLLD run again (R33, R50, R209, R233,
R279, R327). -/

namespace Sys2Proof.Machine

open Sys2Proof

/-! When a save starts (R262, R263, R456). -/

/-- Whether a team of a cluster is resident. -/
def State.anyResident (s : State) (c : Nat) : Bool := (s.cluster c).teams.any fun t => (s.team t).st == TeamState.resident

/-- DRAIN_DEADLINE: D strokes have passed with a team still resident under decision 0 (R262). -/
def execDrainDeadline (cl : Nat) (s : State) : Host.Outcome State Fault Refusal :=
  let c := s.cluster cl
  event s (if c.decision == some 0 && c.deadline = 0 && s.anyResident cl then
      some ((s.setCluster cl { c with decision := some 3, pdeadline := 0 }).saveCluster cl 4)
    else none)

/-- WINDOW_EXPIRY: the yield window of decision 1 is over before every group has parked (R263). -/
def execWindowExpiry (cl : Nat) (s : State) : Host.Outcome State Fault Refusal :=
  let c := s.cluster cl
  event s (if c.decision == some 1 && c.pdeadline = 0 && s.anyResident cl then some (s.saveCluster cl 3) else none)

/-- Whether a candidate counts as parked: at a YIELD, or blocked whatever holds it, a spill fill and another candidate's handler among
them (R33, R57, R60, R456). -/
def State.candParked (s : State) (n k : Nat) (c : Cand) : Bool :=
  let u := s.at_ n k c.low
  c.hold == .parked || (((s.core n).port (k % 4)).cur != some (k, c.low) && !u.poised
    && (c.settled || c.hold == .fill || !u.mayRun))

/-- Whether a team's groups are all parked, DONE or FREE. -/
def State.teamParked (s : State) (t : Nat) : Bool := (s.heldGroups t).all fun g => g.2.2.arch.cands.all (s.candParked g.1 g.2.1)

/-- CLUSTER_PARKED: every group of a cluster under decision 1 is parked, DONE or FREE, one at a YIELD (R263, R456). -/
def execClusterParked (cl : Nat) (s : State) : Host.Outcome State Fault Refusal :=
  let c := s.cluster cl
  event s (if c.decision == some 1 && c.yielded && s.anyResident cl && c.teams.all s.teamParked then some (s.saveCluster cl 2) else none)

/-! The save (R254). -/

/-- Whether no run of a group is being issued and no candidate waits inside a CALLX (R38, R254). -/
def State.stopped (s : State) (n k : Nat) (g : Group) : Bool :=
  ((s.core n).port (k % 4)).cur.map (·.1) != some k && g.arch.cands.all fun c => match c.hold with
    | .linkage _ _ _ => false
    | _ => true

/-- Whether every group of a team has stopped with its work done; `closed` asks that the open operations of its leases have been
completed too (R163, R183, R209, R458). -/
def State.quiet (s : State) (t : Nat) (closed : Bool) : Bool :=
  (s.heldGroups t).all fun g => s.stopped g.1 g.2.1 g.2.2 && s.drained g.1 g.2.2 && (match g.2.2.lease with
    | some x => !closed || (s.ctx g.1 x).ops.isEmpty
    | none => true)

/-- First-fit of n granules in a partition's pool (R258). -/
def Partition.firstFit (p : Partition) (n : Nat) : Option Nat :=
  let size := p.sumpSize.toNat / 4096
  if size < n then none
  else (List.range (size - n + 1)).find? fun g => p.sumpUsed.all fun u => decide (g + n ≤ u.1) || decide (u.1 + u.2 ≤ g)

/-- An entry of the Sump log (R258). -/
def State.logSave (s : State) (p : Nat) (base : Word) (kind : Nat) : State :=
  let v := s.part p
  let e : Word := BitVec.ofNat 64 (kind * 2 ^ 57) ||| (base.extractLsb' 0 57).setWidth 64
  let s1 := match s.gStore p (v.sumpLog.toNat + 8 * v.sumpHead.toNat) (bytesOf e 8) with
    | none => s.logError 23
    | some x => x.1
  s1.modPart p fun w => { w with sumpHead := w.sumpHead + 1 }

/-- Whether the next entry of a partition's Sump log may be written now (R287). -/
def State.logOpen (s : State) (p : Nat) : Bool :=
  let v := s.part p
  s.gOpen p (v.sumpLog.toNat + 8 * v.sumpHead.toNat) 8

/-- The ECAUSE, EPC and EINFO with which a team that cannot be saved ends. -/
def Team.faultOf (v : Team) : Word × Word × Word := (v.fault.map (·.2)).getD (0, 0, 0)

/-- The 8-byte units of a team's scratchpad allocation that are poisoned, by number: the save keeps poison per unit (R268, R270). -/
def State.scratchPoison (s : State) (t : Nat) : List Nat :=
  let v := s.team t
  (List.range (s.granules v * 512)).filter fun i => s.poisoned (scratchPlace v.core (v.spBase + 8 * i))

/-- A drained team is written to a record and leaves its core (R44, R50, R254, R255, R258). The current index of a deterministic core is
recorded even when it belongs to another team of the launch on that core; the spec does not say what a save of one of several does
(R48, R50), and this is the model's choice (log 86). -/
def State.saveTeam (s : State) (t : Nat) : State :=
  let v := s.team t
  let l := s.launch v.launch
  let p := s.part l.part
  let c := s.core v.core
  let v1 := { v with current := if l.info.det then c.current else none, idle := c.idle, spPoison := s.scratchPoison t }
  let s0 := s.setTeam t v1
  let gs := s0.savedGroups t
  let size := recordSize l.info gs
  let f := v.faultOf
  match p.firstFit (ceilDiv size 4096) with
  | none => s.endTeam t .sumpfull f.1 f.2.1 f.2.2
  | some g =>
    let base : Word := p.sumpBase + BitVec.ofNat 64 (4096 * g)
    let control := if preemptKind v.kind && (s.cluster v.cluster).request = 0 then 1 else 0
    let flushed := (s0.heldGroups t).foldl (fun (u : State) x => (u.at_ x.1 x.2.1 0).flushOwn) s0
    let img := flushed.recordImage t control gs
    let body := flushed.writeSectors l.part base img (size / 32 - 1) 32
    let all := if body.2 then body.1.writeSectors l.part base img 1 0 else body
    if !all.2 then (all.1.endTeam t .sumpfault f.1 f.2.1 f.2.2).logError 23
    else
      let s1 := all.1.logSave l.part base v.kind
      let s2 := s1.modPart l.part fun w => { w with sumpUsed := w.sumpUsed ++ [(g, ceilDiv size 4096)] }
      s2.leaveCore t { v1 with st := .saved, record := some base, saved := gs, gone := [], requeued := false, resumeDue := false }

/-- Whether the save of a team may be written now: what its groups left dirty, its record and its log entry (R287). -/
def State.saveOpen (s : State) (t : Nat) : Bool :=
  let l := s.launch (s.team t).launch
  let p := s.part l.part
  let size := recordSize l.info (s.savedGroups t)
  ((s.heldGroups t).all fun g => s.ownOpen g.1 g.2.1) && (match p.firstFit (ceilDiv size 4096) with
    | none => true
    | some g => s.gOpen l.part (p.sumpBase + BitVec.ofNat 64 (4096 * g)).toNat size && s.logOpen l.part)

/-- TEAM_SAVE (R163, R183, R209, R254). -/
def execTeamSave (team : Nat) (s : State) : Host.Outcome State Fault Refusal :=
  let v := s.team team
  event s (if v.st == TeamState.saving && v.ending.isNone && s.quiet team true && s.saveOpen team then some (s.saveTeam team) else none)

/-! Back to a queue (R42, R43). -/

/-- The teams of a cluster that have not ended. -/
def State.alive (s : State) (c : Nat) : List Nat := (s.cluster c).teams.filter fun t => (s.team t).st != TeamState.ended

/-- The quadrant that a cluster returns to: the one it was on, or the next that has cores of the partition and room. -/
def State.returnQuad (s : State) (c : Nat) : Option Nat :=
  let ts := s.alive c
  let q0 := quadOf ((ts.head?.map fun t => (s.team t).core).getD 0)
  let p := (s.launch (s.cluster c).launch).part
  ((List.range 4).map fun i => (q0 + i) % 4).find? fun q =>
    (s.coresOf p).any (fun n => quadOf n == q) && decide (ts.length ≤ s.queueFree q)

/-- VALID of a record is cleared (R257). -/
def State.clearValid (s : State) (t : Nat) : State :=
  let v := s.team t
  match v.record with
  | none => s
  | some b => ((s.gStore (s.launch v.launch).part b.toNat (bytesOf (statusWord v.kind false) 8)).map (·.1)).getD s

/-- A cluster whose teams are all to be restored or placed again goes to the head of a queue (R42, R43). -/
def State.requeue (s : State) (c : Nat) : Option State :=
  let ts := s.alive c
  let ready := ts.all fun t => let v := s.team t; (v.st == TeamState.saved && v.requeued) || v.st == TeamState.discarded
  if !ready || ts.isEmpty || !ts.all s.recordOpen then none else
  (s.returnQuad c).map fun q =>
    let prio := (s.launch (s.cluster c).launch).info.prio
    let s1 := ts.foldl (fun (u : State) t => (u.clearValid t).modTeam t fun v => { v with st := .queued, requeued := false }) s
    (s1.setQueue q (queueFront (s1.queue q) (ts.map fun t => { team := t, prio := prio }) prio)).modCluster c fun v =>
      { v with request := 0 }

/-! RESUME and KILL (R256, R257). -/

/-- CONTROL of a saved team's record, 0 where it cannot be read. -/
def State.controlOf (s : State) (t : Nat) : Word :=
  let v := s.team t
  match v.st == TeamState.saved, v.record with
  | true, some b => ((s.gWord (s.launch v.launch).part (b.toNat + 8)).toOption).getD 0
  | _, _ => 0

/-- Offset of group j's record in its team's record. -/
def groupOffset (r : LaunchRec) (gs : List (Group × Option Ctx)) (j : Nat) : Nat :=
  0x1000 + r.spGranules * 4096 + sumOf ((gs.take j).map fun g => groupBytes r.allot ((g.2.map (·.ntiles)).getD 0))

/-- The checks of R256 on a record: MAGIC, VERSION, SPSIZE, G, ALLOT and every TILES. -/
def State.recordGood (s : State) (t : Nat) : Bool :=
  let v := s.team t
  let l := s.launch v.launch
  let r := l.info
  let base := v.record.getD 0
  let word (o : Nat) : Option Word := (s.recordWord l.part base o).map (·.1)
  let offs := (List.range v.saved.length).map (groupOffset r v.saved)
  (word 0).map (fun w => w.extractLsb' 40 24) == some 0x5D5101
    && (word 0x38).map (fun w => w.extractLsb' 32 32) == some (BitVec.ofNat 32 (r.spGranules * 2 ^ 16 + r.groups * 2 ^ 8 + r.allot % 256))
    && (offs.zip v.saved).all fun x =>
      (word (x.1 + 0x2860)).map (fun w => fieldOf w 8 4) == some ((x.2.2.map (·.ntiles)).getD 0)

/-- SUMP_RESUME: software has written RESUME to a record, or the Wellhead writes the one that it owes it; the team is checked, and restored
with the rest of its cluster (R43, R256, R257). -/
def execSumpResume (team : Nat) (s : State) : Host.Outcome State Fault Refusal :=
  let v := s.team team
  event s (if (!v.resumeDue && s.controlOf team != 1) || !s.recordOpen team then none
    else if v.resumeDue then some (s.writeResume (s.launch v.launch).part team)
    else if v.requeued then s.requeue v.cluster
    else if !s.recordGood team then
      let f := v.faultOf
      some (s.finishTeam team .sumpbad f.1 f.2.1 f.2.2)
    else
      let s1 := s.setTeam team { v with requeued := true }
      some ((s1.requeue v.cluster).getD s1))

/-- SUMP_KILL: software has written KILL to a record (R257, R258). -/
def execSumpKill (team : Nat) (s : State) : Host.Outcome State Fault Refusal :=
  let f := (s.team team).faultOf
  event s (if s.controlOf team = 2 && s.recordOpen team then some (s.finishTeam team .killed f.1 f.2.1 f.2.2) else none)

/-! Discard (R266). -/

/-- A discarded team starts from nothing when it is placed again; its number stays (R290). -/
def discardedTeam (v : Team) : Team :=
  { v with st := .discarded, priv := none, barriers := [], tblld := none, current := none, idle := false, fault := none, gone := [] }

/-- TEAM_DISCARD: a team under decision 2 has stopped, its work is awaited, and it is DISCARDED; its cluster then goes back to a queue
(R42, R266). -/
def execTeamDiscard (team : Nat) (s : State) : Host.Outcome State Fault Refusal :=
  let v := s.team team
  let open_ := (s.heldGroups team).all fun g => s.ownOpen g.1 g.2.1
  event s (match v.st, v.ending.isNone && s.quiet team false && open_ with
    | .discarding, true =>
      let s1 := s.leaveCore team (discardedTeam v)
      some ((s1.requeue v.cluster).getD s1)
    | .discarded, _ => s.requeue v.cluster
    | _, _ => none)

/-! Loading (R33, R42, R209, R233). -/

/-- A TBLLD whose run at a restore fails: the cluster returns to SAVED, and the record of the team names the fault (R233). -/
def State.abandon (s : State) (t : Nat) (tr : Trap) (privd : Bool) : State :=
  let v := s.team t
  let p := (s.launch v.launch).part
  let ec := ecauseOf tr privd
  let back (u : State) (k : Nat) : State :=
    let w := u.team k
    match w.record with
    | none => u
    | some b =>
      let w1 : Team := if k = t then { w with kind := 1, fault := some (2 ^ 64 - 1, ec, 0, tr.einfo) } else w
      let put (x : State) (o : Nat) (d : Word) : State := ((x.gStore p (b.toNat + o) (bytesOf d 8)).map (·.1)).getD x
      let u1 := u.leaveCore k { w1 with st := .saved, replay := false }
      let u2 := if k = t then (List.range 4).foldl (fun x i => put x (0x60 + 8 * i) (faultWord w1.fault i)) u1 else u1
      put (put u2 8 0) 0 (statusWord w1.kind true)
  let s1 := (s.alive v.cluster).foldl back s
  match v.record with
  | some b => s1.logSave p b 1
  | none => s1

/-- The TBLLD of a restored team is run again; none while it has to wait (R233). -/
def State.replayTable (s : State) (n k t : Nat) (x : Space × Word × Bool) : Option State :=
  let sp := x.1
  let u := s.at_ n k 0
  let a := { u.newAccess with kind := .tblld, ty := .z32, space := sp, scope := tblldScope sp, privd := x.2.2, dst := .table, pieces := tablePieces x.2.1 }
  let c := s.core n
  if !c.lut.queue.isEmpty || c.windows.any (fun w => w.bank == some (!c.lut.cur)) || (sp == .g && !u.piecesWalk a.pieces) then none else
  match (if sp = .w then none else piecesFault u sp .load a.pieces) with
  | some tr => some (s.abandon t tr x.2.2)
  | none =>
    match (if sp = .g then resolvePieces u a .load a.pieces
        else .ok (u, a.pieces.map fun p => { p with place := u.placeOf sp p.addr })) with
    | .error tr => some (s.abandon t tr x.2.2)
    | .ok (u1, ps) =>
      if (piecesValve u1 sp .load ps).isSome || !u1.entryTravels a ps then none else
      let got := ps.foldl (fun (w : State × List Piece) p => let q := w.1.performPiece a p; (q.1, w.2 ++ [q.2])) (u1, [])
      some ((got.1.modCore n fun m =>
        { m with lut := { m.lut with elts := Store.putAll m.lut.elts (bankOf m.lut.cur got.2), cur := !m.lut.cur } }).modTeam t fun v =>
          { v with replay := false })

/-- The sectors of a group record that hold control state. -/
def controlSectors (r : LaunchRec) : List Nat :=
  ((List.range ((0x4000 + 128 * r.allot) / 32)).map (32 * ·)).filter controlOffset

/-- The state of a restored group is written from its record; control state lost to an error ends the team (R256, R269). -/
def State.loadGroup (s0 : State) (n k : Nat) : State :=
  let g := s0.group n k
  let v := s0.team g.team
  let l := s0.launch v.launch
  match v.record with
  | none => s0
  | some b =>
    let off := groupOffset l.info v.saved g.index
    let s := s0.countRead l.part (b.toNat + off) 32
    let f : RecordImage := fun o => s.readRecord l.part b (off + o)
    if (controlSectors l.info).any fun o => (f o).2 then (s.endTeam g.team .ctlerr 0 0 0).logError 16
    else
      let kept := groupImage l.info.det l.info.allot g (g.lease.map (s.ctx n))
      let s1 := s.setGroup n k (groupFrom f kept l.info.allot g)
      match g.lease with
      | some x => s1.modCtx n x (leaseFrom f kept l.info.allot)
      | none => s1

/-- The barriers and the counters of a restored team (R255). -/
def State.loadTeam (s : State) (t : Nat) : State :=
  let v := s.team t
  let l := s.launch v.launch
  match v.record with
  | none => s
  | some b =>
    let f := s.readRecord l.part b
    let all : BitVec 32 := maskOf 32 (List.range l.info.groups)
    let bar (i : Nat) : Barrier :=
      let w := (f (0x80 + 8 * i)).1
      { left := all &&& ~~~(w.setWidth 32), arrived := w.extractLsb' 32 32 }
    s.setTeam t { v with barriers := Store.putAll [] ((List.range 16).map fun i => (i, bar i)), used := (f 0x50).1.toNat }

/-- Whether a team may leave LOADING as the slots of its links stand: what its core's L1 writes home, and for a restored team the records of
its cluster and the Sump log (R287). -/
def State.loadOpen (s : State) (t : Nat) : Bool :=
  let v := s.team t
  s.flushOpen v.core (fun _ _ => true)
    && (v.record.isNone || ((s.alive v.cluster).all s.recordOpen && s.logOpen (s.launch v.launch).part))

/-- What has begun for the cluster of a team while the team was placed: a save with its KIND, or a discard (R43, R254, R266, log 85). -/
def State.clusterFate (s : State) (t : Nat) : Option (TeamState × Nat) :=
  (s.cluster (s.team t).cluster).teams.findSome? fun k =>
    let w := s.team k
    match w.st with
    | .saving | .saved => some (.saving, w.kind)
    | .discarding | .discarded => some (.discarding, 0)
    | _ => none

/-- A team that has just become resident joins what has begun for its cluster: every team of the cluster is saved, or is discarded
(R43, R254, R266, log 85). -/
def State.joinFate (s : State) (t : Nat) : State :=
  match s.clusterFate t with
  | some (st, kd) =>
    let s1 := s.modTeam t fun w => { w with st := st, kind := kd }
    if st = .discarding then s1.dropTeamWork t else s1
  | none => s

/-- Every group of a team has left LOADING: it is resident, its record is freed, and a deterministic core has a current group (R42, R47,
R50, R258). Where teams of one launch share a deterministic core, the saved index of a restored one becomes current only when the core
has no current group: R48 and R50 leave open how the two rotations meet, and this is the model's choice (log 86). -/
def State.becomeResident (s : State) (t : Nat) : State :=
  let v := s.team t
  let s1 := (s.loadTeam t).freeRecord t
  let s2 := ((s1.modTeam t fun w =>
    { w with st := .resident, saved := [], spPoison := [], fault := none, current := none, idle := false }).unpark t).joinFate t
  let det := (s.launch v.launch).info.det
  let c := s.core v.core
  if det && c.current.isNone then
    let low := (minBy id ((s2.heldGroups t).map fun g => s2.logical g.2.2)).getD 0
    s2.modCore v.core fun k => { k with current := some (v.current.getD low), idle := v.current.isSome && v.idle }
  else s2

/-- GROUP_LOAD_DONE: a group's starting or restored state has been written. Before any group of a restored cluster leaves LOADING, the
last TBLLD of its team runs again (R33, R93, R233, R279, R327). -/
def execGroupLoadDone (core slot : Nat) (s : State) : Host.Outcome State Fault Refusal :=
  let g := s.group core slot
  let v := s.team g.team
  event s (if g.st != .loading || v.wakeUntil.isSome || v.ending.isSome || !s.loadOpen g.team then none
    else match v.replay, v.tblld with
    | true, some x => s.replayTable core slot g.team x
    | _, _ =>
      if (s.alive v.cluster).any fun t => (s.team t).replay then none else
      let s1 := (s.loadGroup core slot).l1Drop core
      let s2 := s1.modGroup core slot fun h => { h with st := if h.arch.liveSlices = 0 then .done else .resident }
      some (if (s2.heldGroups g.team).any fun h => h.2.2.st == .loading then s2 else s2.becomeResident g.team))

end Sys2Proof.Machine
end

