-- ==== Sys2Proof/Machine/Device.lean ====
section
/-! DEFINITION. What reaches the device from outside and what its own clocks do: the time base (R286), links (R287 to R289), host writes
(R132, R145, R258, R273, R285, R288, R457), accesses of the host and of peers (R289, R340), soft errors (R205, R268, R269, R272),
tenants and resources (R140, R141, R284), starts and quotes (R292). -/

namespace Sys2Proof.Machine

open Sys2Proof

/-! The time base (R286). -/

/-- The time base is set: it steps forward to a value, or slews toward an earlier one. -/
def Time.setTo (t : Time) (v : Word) : Time :=
  if t.wall.toNat ≤ v.toNat then { t with wall := v, set := true }
  else { t with set := true, slew := v.toNat - t.wall.toNat }

/-- A correction once the time base is set: it is slewed. -/
def Time.correct (t : Time) (v : Word) : Time := { t with slew := v.toNat - t.wall.toNat }

/-- A write to TSEED; once the time base is set it does nothing. -/
def seedTime (s : State) (v : Word) : State := if s.time.set then s else { s with time := s.time.setTo v }

/-- TSEED (R286). -/
def execTseed (v : Word) (s : State) : Host.Outcome State Fault Refusal := event s (some (seedTime s v))

/-- TIME_LOCK: the clock locks to a TAI time; the first lock sets an unset time base, a later one slews it (R286). -/
def execTimeLock (tai : Word) (s : State) : Host.Outcome State Fault Refusal :=
  event s (some { s with time := { (if s.time.set then s.time.correct tai else s.time.setTo tai) with lock := true } })

/-- TIME_LOCK_LOSS (R286). -/
def execTimeLockLoss (s : State) : Host.Outcome State Fault Refusal := event s (some { s with time := { s.time with lock := false } })

/-- IEEE_1588_EVENT_MESSAGE: the delay measured from event messages gives a correction in nanoseconds, which is slewed (R286). -/
def execIeee1588EventMessage (slew : Int) (s : State) : Host.Outcome State Fault Refusal :=
  event s (some { s with time := { s.time with slew := slew } })

/-! Links (R287 to R289). -/

/-- Links of the device. -/
def linkCount : Nat := 23
def State.linkIs (s : State) (k : Nat) : Bool := k < linkCount && !s.linkOff k

/-- A write to ACTTIME arms the shadow table (R288). -/
def armLink (s : State) (k : Nat) (v : Word) : State := if s.linkIs k then s.modLink k fun l => { l with acttime := v, armed := true } else s

/-- ACTTIME (R288). -/
def execActtime (link : Nat) (v : Word) (s : State) : Host.Outcome State Fault Refusal := event s (some (armLink s link v))

/-- SLOT_TABLE_SWITCH: an armed shadow replaces the table at the first slot 0 at or after its time (R287, R288). -/
def execSlotTableSwitch (link : Nat) (s : State) : Host.Outcome State Fault Refusal :=
  let l := s.link link
  let pos := s.linkPos link
  event s (if s.linkIs link && l.armed && decide (pos < 100) && decide (l.acttime.toNat + pos ≤ s.time.wall.toNat) then
      some (s.setLink link { l with table := l.shadow, armed := false })
    else none)

/-- SLOT_BOUNDARY: a written OFFSET takes effect (R288). A slewed time base may pass over the nanosecond of the boundary itself. -/
def execSlotBoundary (link : Nat) (s : State) : Host.Outcome State Fault Refusal :=
  event s (match (s.link link).offsetNext, decide (s.linkPos link % 100 < 2) with
    | some o, true => some (s.modLink link fun l => { l with offset := o, offsetNext := none })
    | _, _ => none)

/-- LINK_DOWN and LINK_UP (R288, R289). -/
def execLinkDown (link : Nat) (s : State) : Host.Outcome State Fault Refusal :=
  event s (if s.linkIs link && (s.link link).up then
      some (s.modLink link fun l => { l with up := false, downSince := some s.power.nanos }) else none)
def execLinkUp (link : Nat) (s : State) : Host.Outcome State Fault Refusal :=
  event s (if s.linkIs link && !(s.link link).up then
      some (s.modLink link fun l => { l with up := true, downSince := none, dead := false }) else none)

/-- LINK_DOWN_TIMEOUT: a link has been down for 1 ms (R289). -/
def execLinkDownTimeout (link : Nat) (s : State) : Host.Outcome State Fault Refusal :=
  event s (match (s.link link).downSince with
    | some t => if t + 1000000 ≤ s.power.nanos ∧ !(s.link link).dead then some (s.modLink link fun l => { l with dead := true }) else none
    | none => none)

/-- LINK_FLIT_RESEND: a flit fails its check code and is resent (R272, R457). -/
def execLinkFlitResend (link : Nat) (s : State) : Host.Outcome State Fault Refusal :=
  event s (if s.linkIs link then some (s.logError (32 + link)) else none)

/-! Host writes. -/

/-- A host write clears a counter of the error log (R457). -/
def clearError (s : State) (n : Nat) : State := { s with errors := Store.put s.errors n 0 }

/-- ERROR_LOG_CLEAR (R457). -/
def execErrorLogClear (n : Nat) (s : State) : Host.Outcome State Fault Refusal := event s (if n < 128 then some (clearError s n) else none)

/-- XLINV, written by the host or by a group (R150). -/
def execXlinv (v : Word) (s : State) : Host.Outcome State Fault Refusal := event s (some (writeXlinv s v))

/-- A multiple of 4 KB below 2^57. -/
def pageField (v : Word) : Word := v &&& 0x01FFFFFFFFFFF000

/-- The registers of a partition that only the host writes (R258, R285, R293). -/
def hostPart (s : State) (p r : Nat) (v : Word) : State :=
  if r = 0x60 then (if v = 1 ∧ !(s.part p).resetting then resetPartition s p else s)
  else if r = 0x70 then s.modPart p fun x => { x with sumpBase := pageField v }
  else if r = 0x78 then s.modPart p fun x => { x with sumpSize := v &&& 0xFFFFFFFFFFFFF000 }
  else if r = 0x80 then s.modPart p fun x => { x with sumpLog := pageField v }
  else if 0x90 ≤ r ∧ r < 0xC0 then
    s.modPart p fun x => { x with timedCores := putCores x.timedCores ((r - 0x90) / 8) v &&& maskOf 384 x.cores }
  else s

/-- The registers of the Wellhead block that only the host writes. -/
def hostWellhead (s : State) (o : Nat) (v : Word) : State :=
  if o < 0x2000 then (if o % 0x40 = 0 then writeStart s (o / 0x40) v else s)
  else if 0x4000 ≤ o ∧ o < 0x6000 then hostPart s ((o - 0x4000) / 0x100) (o % 0x100) v
  else if o = 0x8008 then seedTime s v
  else if 0x9000 ≤ o ∧ o < 0x9400 then clearError s ((o - 0x9000) / 8)
  else if o = 0xA000 then startRewriter s v
  else s

/-- The registers of the link slot block (R288). -/
def hostLink (s : State) (o : Nat) (v : Word) : State :=
  let k := o / 0x800
  let r := o % 0x800
  if !s.linkIs k then s
  else if 0x200 ≤ r ∧ r < 0x400 then
    s.modLink k fun l => if l.armed then l else { l with
      shadow := (List.range 4).foldl (fun t i => putSlotEntry t ((r - 0x200) / 2 + i) (v.extractLsb' (16 * i) 16)) l.shadow }
  else if r = 0x400 then s.modLink k fun l => { l with offsetNext := some (v.setWidth 16) }
  else if r = 0x408 then armLink s k v
  else s

/-- A write to PWT register i: each power cluster goes on with the weights it has up to its next 128-stroke boundary (R91). -/
def Power.putWeight (w : Power) (i : Nat) (v : BitVec 16) : Power :=
  { w with weights := Store.put w.weights i v,
           clusters := (List.range 64).foldl (fun m c =>
             let k := Store.get m c
             Store.put m c { k with late := some (k.late.getD w.weights) }) w.clusters }

/-- The registers of the power block that are written (R91, R92). -/
def hostPower (s : State) (o : Nat) (v : Word) : State :=
  let w := s.power
  if 0x40 ≤ o ∧ o < 0x60 then { s with power := { w with budget := Store.put w.budget ((o - 0x40) / 8) (v.setWidth 16) } }
  else if 0x100 ≤ o ∧ o < 0x280 then { s with power := w.putWeight ((o - 0x100) / 8) (v.setWidth 16) }
  else s

/-- The root registers; bits 51:17 and RV are kept (R145). A write while work of the partition runs, which R145 says the host does not make,
is taken: the model's choice (log 118). -/
def hostXlate (s : State) (o : Nat) (v : Word) : State :=
  if 0x100 ≤ o ∧ o < 0x200 then s.modPart ((o - 0x100) / 8) fun p => { p with xlroot := v &&& 0x000FFFFFFFFE0001 } else s

/-- A register outside the core blocks, written whole by the host. -/
def hostReg (s : State) (a : Nat) (v : Word) : State :=
  let s1 := s.putReg a v
  if 0x7F00010000 ≤ a ∧ a < 0x7F00020000 then hostPower s1 (a - 0x7F00010000) v
  else if 0x7F00020000 ≤ a ∧ a < 0x7F00021000 then hostXlate s1 (a - 0x7F00020000) v
  else if 0x7F00030000 ≤ a ∧ a < 0x7F00040000 then hostWellhead s1 (a - 0x7F00030000) v
  else if 0x7F00040000 ≤ a ∧ a < 0x7F00050000 then hostLink s1 (a - 0x7F00040000) v
  else s1

/-- REGISTER_WRITE: the host writes n bytes inside one 8-byte unit of the window through its aperture; it reaches every block (R132). -/
def execRegisterWrite (addr n : Nat) (v : Word) (s : State) : Host.Outcome State Fault Refusal :=
  let bs := bytesOf v n
  event s (if n = 0 || decide (8 < addr % 8 + n) || !winMapped addr then none
    else if addr < 384 * 0x400000 then some (s.coreWrite (addr / 0x400000) (addr % 0x400000) bs false)
    else some (hostReg s (addr / 8 * 8) (mergeBytes (s.regBase (addr / 8 * 8)) (addr % 8) bs)))

/-! Accesses from outside (R289, R340). -/

/-- The place of a byte that an outside agent reaches. -/
def State.targetPlace (s : State) (t : PeerTarget) (i : Nat) : Nat :=
  match t with
  | .loc p a => s.localPlace p (a + i)
  | .host a => hostPlace (a + i)
  | .peer d a => peerPlace (d / 32) (d % 32) (a + i)

/-- Whether n bytes from a target exist. -/
def State.targetOk (s : State) (t : PeerTarget) (n : Nat) : Bool :=
  match t with
  | .loc p a => decide (a + n ≤ s.localBytes p)
  | .host a => decide (a + n ≤ 2 ^ 52)
  | .peer d a => decide (d < 2 ^ 27) && decide (a + n ≤ 2 ^ 52)

/-- Bytes that an outside agent writes. -/
def State.targetWrite (s : State) (t : PeerTarget) (bs : List Byte) (poison : Bool) : State :=
  bs.zipIdx.foldl (fun (u : State) p => (u.setByte (s.targetPlace t p.2) p.1).setPoison (s.targetPlace t p.2) poison) s

/-- An atomic step of an outside agent on n bytes: the new value from the old, if it stores. -/
def State.targetAtomic (s : State) (t : PeerTarget) (n : Nat) (f : Word → Option Word) (keep : Bool) : State :=
  let old : Word := ofBytes 64 ((List.range n).map fun i => s.byteAt (s.targetPlace t i))
  match f old with
  | some v => s.targetWrite t (bytesOf v n) (keep && s.poisoned (s.targetPlace t 0))
  | none => s

/-- PEER_ACCESS: an access of the host or of a peer device lands at its home (R289, R340). -/
def execPeerAccess (t : PeerTarget) (op : PeerOp) (s : State) : Host.Outcome State Fault Refusal :=
  let n : Nat := match op with
    | .load => 1
    | .store bs => bs.length
    | .add n _ | .xch n _ | .cas n _ _ => n
  let width (k : Nat) : Bool := k == 4 || k == 8
  event s (if !s.targetOk t n then none else
    match op with
    | .load => none
    | .store bs => some (s.targetWrite t bs false)
    | .add n v => if width n then some (s.targetAtomic t n (fun old => some (old + v)) true) else none
    | .xch n v => if width n then some (s.targetAtomic t n (fun _ => some v) false) else none
    | .cas n old new => if width n then some (s.targetAtomic t n (fun x =>
        if x.toNat % 2 ^ (8 * n) = old.toNat % 2 ^ (8 * n) ∧ !s.poisoned (s.targetPlace t 0) then some new else none) false) else none)

/-! Soft errors (R268, R269, R272). -/

/-- The counters of corrected and of uncorrectable errors of what an upset strikes (R457). -/
def upsetCounters (u : Upset) : Nat :=
  match u with
  | .vreg _ _ _ _ => 0
  | .sreg _ _ _ _ | .temp _ _ _ _ | .stack _ _ _ _ => 2
  | .scratch _ _ => 4
  | .accum _ _ _ _ => 6
  | .l1 _ _ => 8
  | .table _ _ _ => 10
  | .cistern _ => 12
  | .hbm _ => 14
  | _ => 17

/-- The mark of an element. -/
def Elt.bad (e : Elt) : Elt := { e with poison := true }

/-- The lanes of a pass of a port (R86). -/
def passLanes (passes k : Nat) : List Nat := (List.range 32).filter fun l => l / (32 / passes) == k

/-- The word that a port is issuing for a slot: it holds the port for its PASSES strokes (R38, R272). -/
def State.wordInPass (s : State) (n k : Nat) : Option Word :=
  let p := (s.core n).port (k % 4)
  match p.cur, p.word with
  | some (slot, low), some _ =>
    let r := (s.at_ n k low).curRun
    if slot = k ∧ p.busy ≠ 0 ∧ r.pos ≠ 0 then r.words[r.pos - 1]? else none
  | _, _ => none

/-- The vector registers and temporaries that the passes of a word write in the lanes `on`, with those lanes: MCOMP and VPKN write whole
registers (R202, R272, R436). -/
def passRefs (a : Arch) (i : Instr) (on : Mask) : List (VRef × Mask) :=
  match i with
  | .mcomp _ t vd vm _ =>
    ((List.range 4).map (effReg a vd + ·) ++ (List.range (metaRegs t)).map (effReg a vm + ·)).map fun r => (.reg r, 0xFFFFFFFF)
  | .vpkn .. => (passVecs i).map fun v => (vref a v, 0xFFFFFFFF)
  | _ => (passVecs i).map fun v => (vref a v, on)

/-- Whether an arithmetic pass of a port writes elements: registers, or lane-stack slots. -/
def State.inPass (s : State) (n k p : Nat) : Bool :=
  match s.wordInPass n k with
  | none => false
  | some w => decide (p < ((s.core n).port (k % 4)).passes) && !((passVecs (instrOf w)).isEmpty && (passScals (instrOf w)).isEmpty)

/-- An element of a register or temporary is marked. -/
def Arch.badRef (a : Arch) (r : VRef) (l : Nat) : Arch :=
  match r with
  | .reg n => a.putV n l (a.getV n l).bad
  | .temp t => a.putT t l (a.getT t l).bad

/-- The destination elements of pass p are marked: lanes of registers, scalar registers, lane-stack slots; none of a word that executes in
no lane, and so writes nothing (R272, R295). -/
def Arch.badPass (a : Arch) (port : Port) (i : Instr) (p : Nat) : Arch :=
  if port.lanes = 0 then a else
  let ls := passLanes port.passes p
  let b := (passRefs a i port.lanes).foldl (fun (x : Arch) r => (ls.filter fun l => bit r.2 l).foldl (fun y l => y.badRef r.1 l) x) a
  let b := (passScals i).foldl (fun (x : Arch) r => x.putS r { x.getS r with lo := true, hi := true }) b
  (port.slots.filter fun j => ls.contains (j / 8)).foldl (fun x j => x.setStk (j / 8) (j % 8) (x.getStk (j / 8) (j % 8)).bad) b

/-- A third mismatch: the elements that the pass writes are poisoned (R272). -/
def State.poisonPass (s : State) (n k p : Nat) : State :=
  let i := instrOf ((s.wordInPass n k).getD 0)
  s.modGroup n k fun g => { g with arch := g.arch.badPass ((s.core n).port (k % 4)) i p }

/-- Mismatches that the pass of a port has had (R272). -/
def State.passMisses (s : State) (n k p : Nat) : Nat :=
  let m := ((s.core n).port (k % 4)).misses
  if m.1 = p then m.2 else 0

/-- A mismatch: the pass is executed again, and the execute window is extended by its stroke (R77, R272). -/
def State.repeatPass (s : State) (n k p : Nat) : State :=
  s.modCore n fun c =>
    let v := c.port (k % 4)
    { c.setPort (k % 4) { v with busy := v.busy + 1, misses := (p, s.passMisses n k p + 1) } with
      windows := modNth c.windows (c.windows.findIdx fun w => w.port == k % 4) fun w => { w with left := w.left + 1 } }

/-- An element of a group is marked. The checkpoint of an unresolved word holds the same element while no younger word has changed it: it
is marked there too, so that a rollback keeps the mark (R251, R268, log 126). -/
def Group.strike {α : Type} [DecidableEq α] (g : Group) (elt : Arch → α) (mark : Arch → Arch) : Group :=
  { g with arch := mark g.arch,
           aq := g.aq.map fun y => if !y.resolved ∧ elt y.ckpt = elt g.arch then { y with ckpt := mark y.ckpt } else y }

/-- Half of a scalar register is marked. -/
def Arch.badHalf (a : Arch) (r : BitVec 6) (hi : Bool) : Arch :=
  let v := a.getS r
  a.putS r (if hi then { v with hi := true } else { v with lo := true })

/-- An uncorrectable error: the unit that it strikes is poisoned. -/
def State.poisonUpset (s : State) (u : Upset) : State :=
  match u with
  | .vreg n k r l => s.modGroup n k fun g => g.strike (·.getV r l) fun a => a.putV r l (a.getV r l).bad
  | .sreg n k r hi => s.modGroup n k fun g => g.strike (·.getS (BitVec.ofNat 6 r)) fun a => a.badHalf (BitVec.ofNat 6 r) hi
  | .temp n k t l => s.modGroup n k fun g => g.strike (·.getT t l) fun a => a.putT t l (a.getT t l).bad
  | .stack n k l i => s.modGroup n k fun g => g.strike (·.getStk l i) fun a => a.setStk l i (a.getStk l i).bad
  | .accum n x t i => s.modCtx n x fun c =>
      let v := Store.get c.tiles t
      { c with tiles := Store.put c.tiles t { v with elts := Store.put v.elts i (Store.get v.elts i).bad } }
  | .scratch n i => s.setPoison (scratchPlace n (8 * i)) true
  | .table n b i => s.modCore n fun c =>
      { c with lut := { c.lut with elts := Store.put c.lut.elts (256 * b + i) (Store.get c.lut.elts (256 * b + i)).bad } }
  | .cistern i => s.setPoison (cisternBase + 32 * i) true
  | .hbm i => s.setPoison (32 * i) true
  | .l1 _ l => (List.range 4).foldl (fun (t : State) j => t.setPoison (128 * l + 32 * j) true) s
  | .portPass n k p => s.poisonPass n k p
  | _ => s

/-- An uncorrectable error in control state ends the team (R269). -/
def State.controlLost (s : State) (n k : Nat) : State :=
  let g := s.group n k
  if g.st = .free ∨ (s.team g.team).ending.isSome then s
  else (s.endTeam g.team .ctlerr g.ecause g.epc g.einfo).logError 16

/-- What an upset strikes exists. -/
def State.upsetOk (s : State) (u : Upset) : Bool :=
  match u with
  | .vreg n k r l => (s.group n k).st != .free && decide (r < (s.group n k).allot) && decide (l < 32)
  | .sreg n k r _ => (s.group n k).st != .free && decide (0 < r) && decide (r < 64)
  | .temp n k t l => (s.group n k).st != .free && decide (t < 8) && decide (l < 32)
  | .stack n k l i => (s.group n k).st != .free && decide (l < 32) && decide (i < 8)
  | .accum n x t i => s.coreEnabled n && decide (x < 4) && decide (t < 8) && decide (i < 1024)
  | .scratch n i => s.coreEnabled n && decide (8 * i < 0xC0000)
  | .table n b i => s.coreEnabled n && decide (b < 2) && decide (i < 256)
  | .cistern i => decide (32 * i < 256 * 0x800000)
  | .hbm i => decide (32 * i < 384 * channelBytes) && !s.fuses.noChannels.contains (32 * i / channelBytes)
  | .l1 n l => (s.core n).l1.any fun e => lineOf e.1 == l
  | .control n k => (s.group n k).st != .free
  | .portPass n k p => s.inPass n k p
  | .engineCheck n x => s.engineOn n x && (s.ctx n x).work.count != 0
  | .engineData => true

/-- SOFT_ERROR: an error is corrected where it struck, or marks what it struck; a failed residue check is left to the engine (R205, R268,
R269, R272, R457). -/
def execSoftError (u : Upset) (corrected : Bool) (s : State) : Host.Outcome State Fault Refusal :=
  event s (if !s.upsetOk u then none else
    match u, corrected with
    | .control n k, c => if c then none else some (s.controlLost n k)
    | .engineCheck n x, _ => some (s.modCtx n x fun c => { c with checkFail := true })
    | .engineData, _ => some (s.logError 21)
    | .portPass n k p, true => if s.passMisses n k p < 2 then some ((s.repeatPass n k p).logError 17) else none
    | .portPass n k p, false => if s.passMisses n k p = 2 then some ((s.poisonPass n k p).logError 18) else none
    | _, true => some (s.logError (upsetCounters u))
    | _, false => some ((s.poisonUpset u).logError (upsetCounters u + 1)))

/-! Tenants and resources (R140, R141, R284). -/

/-- TENANT_CREATE: a tenant and its key (R141). -/
def execTenantCreate (t : BitVec 32) (s : State) : Host.Outcome State Fault Refusal :=
  event s (if s.tenants.contains t then none else some { s with tenants := s.tenants ++ [t] })

/-- Lines of a Cistern slice read as zero (R141). -/
def State.clearSlices (s : State) (l : List Nat) : State := l.foldl (fun (u : State) i => u.clearRange (cisternPlace i 0) 0x800000) s

/-- TENANT_TEARDOWN: the tenant's key is discarded, and what its slices hold is lost (R141). -/
def execTenantTeardown (t : BitVec 32) (s : State) : Host.Outcome State Fault Refusal :=
  let slices := (s.parts.filter fun p => p.2.tenant == t).flatMap fun p => p.2.cacheSlices ++ p.2.bufSlices
  event s (if s.tenants.contains t then some { s.clearSlices slices with tenants := s.tenants.filter (· != t) } else none)

/-- Whether no partition but p owns one of some resources. -/
def State.unowned (s : State) (p : Nat) (own : Partition → List Nat) (l : List Nat) : Bool :=
  s.parts.all fun q => q.1 == p || (own q.2).all fun i => !l.contains i

/-- Whether every team of a partition has retired or ended, the PENDING ones of its accepted launches among them (R42, R284). -/
def State.teamsGone (s : State) (p : Nat) : Bool :=
  (s.liveTeams p).isEmpty && s.launches.all fun l => l.2.part != p || l.2.live == 0

/-- Whether an assignment can be made: the partition is at rest, the tenant exists, and every resource is enabled and owned by no other
partition, the switch routes of its peer table among them; a partition with a core gets a Pump (R284, R285). -/
def State.mayAssign (s : State) (p : Nat) (a : Assignment) : Bool :=
  let running (v : Stream) : Bool := v.part == some p && (v.state == 1 || v.state == 2)
  decide (p < 32) && (!s.streams.any fun v => running v.2) && s.teamsGone p && s.tenants.contains a.tenant
    && s.parts.all (fun q => q.1 == p || q.2.ident != a.ident)
    && a.cores.all s.coreEnabled && s.unowned p (·.cores) a.cores
    && a.channels.all (fun c => decide (c < 384) && !s.fuses.noChannels.contains c) && s.unowned p (·.channels) a.channels
    && decide (a.channels.Nodup)
    && (a.cacheSlices ++ a.bufSlices).all (· < 256) && s.unowned p (fun q => q.cacheSlices ++ q.bufSlices) (a.cacheSlices ++ a.bufSlices)
    && (bitsOf a.pumps).all (fun i => !s.fuses.noPumps.contains i) && s.unowned p (fun q => bitsOf q.pumps) (bitsOf a.pumps)
    && a.ports.all (fun i => decide (i < 16) && !s.fuses.noPorts.contains i) && s.unowned p (·.aqPorts) a.ports
    && s.unowned p (fun q => q.peers.map (·.2)) (a.peers.map (·.2))
    && (a.cores.isEmpty || a.pumps != 0)
    && a.streams.all fun k => decide (k < 128) && ((s.stream k).part == none || (s.stream k).part == some p)

/-- FIRMWARE_RESOURCE_ASSIGN: the management firmware gives a partition its resources; slices that it did not own read as zero (R140,
R141, R284, R285, R289). Two choices of the model: a core keeps its lookup table when it changes its partition without a reset, which R234
does not list (log 130), and the registers of a stream slot that is taken away are as after a start (R273, log 131). -/
def execFirmwareResourceAssign (part : Nat) (a : Assignment) (s : State) : Host.Outcome State Fault Refusal :=
  event s (if !s.mayAssign part a then none else
    let v := s.part part
    let old := v.cacheSlices ++ v.bufSlices
    let s1 := s.clearSlices ((a.cacheSlices ++ a.bufSlices).filter fun i => !(old.contains i && v.tenant == a.tenant))
    let s2 := s1.setPart part { v with
      ident := a.ident, tenant := a.tenant, cores := a.cores, channels := a.channels, cacheSlices := a.cacheSlices,
      bufSlices := a.bufSlices, pumps := a.pumps, aqPorts := a.ports, dests := a.dests, peers := a.peers,
      timedCores := v.timedCores &&& maskOf 384 a.cores }
    some ((List.range 128).foldl (fun (u : State) k =>
      if a.streams.contains k then u.modStream k fun w => { w with part := some part }
      else if (u.stream k).part = some part then u.setStream k {} else u) s2))

/-! Starts and quotes (R90, R141, R234, R286, R292). -/

/-- A digest of the measurement log, or the signature of a quote: neither is stated (R292, log 7). -/
def State.newDigest (s : State) : Nat := Config.digest s.fresh

/-- The memories outside the device, and HBM when it is kept in self-refresh. -/
def keptPlace (hbm : Bool) (a : Nat) : Bool := (hbm && decide (a < cisternBase)) || decide (hostBase ≤ a)

/-- The device after a start; what the model itself keeps goes on. -/
def State.started (s : State) (warm : Bool) : State :=
  let d : State := {}
  { d with
    mem := s.mem.filter fun e => keptPlace warm e.1, poison := s.poison.filter fun e => keptPlace warm e.1,
    fuses := s.fuses, power := { weights := s.fuses.weights }, measured := s.measured ++ [s.newDigest], fresh := s.fresh + 1, agenda := s.agenda,
    time := if warm then s.time else {}, errors := if warm then s.errors else [] }

/-- COLD_START: the fuses are loaded and the firmware image is verified; a bad signature halts the device (R286, R292). -/
def execColdStart (sigOk : Bool) (stepping : BitVec 8) (s : State) : Host.Outcome State Fault Refusal :=
  if !sigOk then .fault .firmwareHalt
  else
    let t := s.started false
    .next { t with fuses := { t.fuses with stepping := stepping } }

/-- WARM_START: HBM is kept in self-refresh, the time base runs on, every partition ends (R286, R292, R293). -/
def execWarmStart (sigOk : Bool) (s : State) : Host.Outcome State Fault Refusal :=
  if !sigOk then .fault .firmwareHalt else .next (s.started true)

/-- The partition configuration: what each partition holds. -/
def State.config (s : State) : List (Nat × Assignment) :=
  s.parts.map fun p =>
    (p.1, { ident := p.2.ident, tenant := p.2.tenant, cores := p.2.cores, channels := p.2.channels, cacheSlices := p.2.cacheSlices,
            bufSlices := p.2.bufSlices, pumps := p.2.pumps, ports := p.2.aqPorts, dests := p.2.dests, peers := p.2.peers,
            streams := (s.streams.filter fun v => v.2.part == some p.1).map (·.1) })

/-- ATTESTATION_QUOTE: the measurement log, the partition configuration and a 32-byte nonce, signed inside the device (R292). -/
def execAttestationQuote (nonce : List Byte) (s : State) : Host.Outcome State Fault Refusal :=
  event s (if nonce.length = 32 then some { s with
      quotes := s.quotes ++ [{ log := s.measured, config := s.config, nonce := nonce, signature := s.newDigest }],
      fresh := s.fresh + 1 } else none)

end Sys2Proof.Machine
end

