-- ==== Sys2Proof/Machine/Dispatch.lean ====
section
/-! DEFINITION. The dispatch: one arm per constructor of `Instr`, each one direct call of its meaning. -/

namespace Sys2Proof.Machine

open Sys2Proof

/-- What each instruction and each event does. -/
def exec (i : Instr) (s : State) : Host.Outcome State Fault Refusal :=
  match i with
  | .aadd h a => Sys2Proof.Machine.execAadd h a s
  | .aand h a => Sys2Proof.Machine.execAand h a s
  | .aor h a => Sys2Proof.Machine.execAor h a s
  | .axor h a => Sys2Proof.Machine.execAxor h a s
  | .amax h a => Sys2Proof.Machine.execAmax h a s
  | .amin h a => Sys2Proof.Machine.execAmin h a s
  | .axch h a => Sys2Proof.Machine.execAxch h a s
  | .acas h a => Sys2Proof.Machine.execAcas h a s
  | .bar h b => Sys2Proof.Machine.execBar h b s
  | .bara h sc b => Sys2Proof.Machine.execBara h sc b s
  | .barw h sc b => Sys2Proof.Machine.execBarw h sc b s
  | .cbar h b => Sys2Proof.Machine.execCbar h b s
  | .barrierComplete team b cluster => Sys2Proof.Machine.execBarrierComplete team b cluster s
  | .bra h off join => Sys2Proof.Machine.execBra h off join s
  | .brx h sr join => Sys2Proof.Machine.execBrx h sr join s
  | .brk h => Sys2Proof.Machine.execBrk h s
  | .call h off => Sys2Proof.Machine.execCall h off s
  | .callx h sr => Sys2Proof.Machine.execCallx h sr s
  | .end_ h => Sys2Proof.Machine.execEnd h s
  | .fence h ord sc => Sys2Proof.Machine.execFence h ord sc s
  | .ftinit h acc dim sk => Sys2Proof.Machine.execFtinit h acc dim sk s
  | .ftupd h acc va => Sys2Proof.Machine.execFtupd h acc va s
  | .ftdnd h acc va => Sys2Proof.Machine.execFtdnd h acc va s
  | .ftsolv h acc va bwd => Sys2Proof.Machine.execFtsolv h acc va bwd s
  | .ftldet h acc va => Sys2Proof.Machine.execFtldet h acc va s
  | .ftld h acc sp sb dim off => Sys2Proof.Machine.execFtld h acc sp sb dim off s
  | .ftst h acc sp sb off => Sys2Proof.Machine.execFtst h acc sp sb off s
  | .icinv h => Sys2Proof.Machine.execIcinv h s
  | .launch h sd sr => Sys2Proof.Machine.execLaunch h sd sr s
  | .launchat h sd sr st => Sys2Proof.Machine.execLaunchat h sd sr st s
  | .timedLaunchRelease lid => Sys2Proof.Machine.execTimedLaunchRelease lid s
  | .lexit h id => Sys2Proof.Machine.execLexit h id s
  | .loopC h id cnt max stop => Sys2Proof.Machine.execLoopC h id cnt max stop s
  | .loopW h id pk max stop => Sys2Proof.Machine.execLoopW h id pk max stop s
  | .mcomp h ty vd vm vs => Sys2Proof.Machine.execMcomp h ty vd vm vs s
  | .merge h mask => Sys2Proof.Machine.execMerge h mask s
  | .mfence h sd => Sys2Proof.Machine.execMfence h sd s
  | .mfree h => Sys2Proof.Machine.execMfree h s
  | .mlda h acc sp sb off => Sys2Proof.Machine.execMlda h acc sp sb off s
  | .msta h acc sp sb off => Sys2Proof.Machine.execMsta h acc sp sb off s
  | .mlease h sd cnt tiles => Sys2Proof.Machine.execMlease h sd cnt tiles s
  | .mma h ty acc va vb fb => Sys2Proof.Machine.execMma h ty acc va vb fb s
  | .mmas h ty acc va vm vb fb => Sys2Proof.Machine.execMmas h ty acc va vm vb fb s
  | .mmova h acc va qtr dir => Sys2Proof.Machine.execMmova h acc va qtr dir s
  | .mwait h sk => Sys2Proof.Machine.execMwait h sk s
  | .mzero h acc => Sys2Proof.Machine.execMzero h acc s
  | .engineOpRun core => Sys2Proof.Machine.execEngineOpRun core s
  | .engineMemoryReturn core ctx => Sys2Proof.Machine.execEngineMemoryReturn core ctx s
  | .batchCommit core ctx => Sys2Proof.Machine.execBatchCommit core ctx s
  | .nop h => Sys2Proof.Machine.execNop h s
  | .ovtld h sk => Sys2Proof.Machine.execOvtld h sk s
  | .pcanc h st => Sys2Proof.Machine.execPcanc h st s
  | .pcpy h st sd sa sl dsp ssp sc => Sys2Proof.Machine.execPcpy h st sd sa sl dsp ssp sc s
  | .pfill h st sd sl sp dsp sc => Sys2Proof.Machine.execPfill h st sd sl sp dsp sc s
  | .pumpPieceDone core slot idx piece => Sys2Proof.Machine.execPumpPieceDone core slot idx piece s
  | .pstat h sd st => Sys2Proof.Machine.execPstat h sd st s
  | .regang h mask => Sys2Proof.Machine.execRegang h mask s
  | .ret h => Sys2Proof.Machine.execRet h s
  | .rsst h sp sc sb what off => Sys2Proof.Machine.execRsst h sp sc sb what off s
  | .runend cls exports => Sys2Proof.Machine.execRunend cls exports s
  | .sadd h ty sd sa b => Sys2Proof.Machine.execSadd h ty sd sa b s
  | .ssub h ty sd sa b => Sys2Proof.Machine.execSsub h ty sd sa b s
  | .sand h ty sd sa b => Sys2Proof.Machine.execSand h ty sd sa b s
  | .sor h ty sd sa b => Sys2Proof.Machine.execSor h ty sd sa b s
  | .sxor h ty sd sa b => Sys2Proof.Machine.execSxor h ty sd sa b s
  | .sshl h ty sd sa b => Sys2Proof.Machine.execSshl h ty sd sa b s
  | .sshr h ty sd sa b => Sys2Proof.Machine.execSshr h ty sd sa b s
  | .ssra h ty sd sa b => Sys2Proof.Machine.execSsra h ty sd sa b s
  | .smax h ty sd sa b => Sys2Proof.Machine.execSmax h ty sd sa b s
  | .smin h ty sd sa b => Sys2Proof.Machine.execSmin h ty sd sa b s
  | .scmp h ty c sd sa b => Sys2Proof.Machine.execScmp h ty c sd sa b s
  | .ssel h ty sd sa sb sc => Sys2Proof.Machine.execSsel h ty sd sa sb sc s
  | .smul h ty sd sa b => Sys2Proof.Machine.execSmul h ty sd sa b s
  | .smulh h ty sd sa b => Sys2Proof.Machine.execSmulh h ty sd sa b s
  | .sdiv h ty sd sa b => Sys2Proof.Machine.execSdiv h ty sd sa b s
  | .smov h f => Sys2Proof.Machine.execSmov h f s
  | .smovi h sd imm => Sys2Proof.Machine.execSmovi h sd imm s
  | .shi h sd sa imm q => Sys2Proof.Machine.execShi h sd sa imm q s
  | .slea h sd sa b sc => Sys2Proof.Machine.execSlea h sd sa b sc s
  | .sclz h sd sa => Sys2Proof.Machine.execSclz h sd sa s
  | .spopc h sd sa => Sys2Proof.Machine.execSpopc h sd sa s
  | .semwait h op sa sv => Sys2Proof.Machine.execSemwait h op sa sv s
  | .semwaitRecheck k => Sys2Proof.Machine.execSemwaitRecheck k s
  | .semsig h op sa sv => Sys2Proof.Machine.execSemsig h op sa sv s
  | .siph h st vi sb sp dst src => Sys2Proof.Machine.execSiph h st vi sb sp dst src s
  | .siphonGatherDone core slot idx => Sys2Proof.Machine.execSiphonGatherDone core slot idx s
  | .sld h ty m sd off => Sys2Proof.Machine.execSld h ty m sd off s
  | .sst h ty m sv off => Sys2Proof.Machine.execSst h ty m sv off s
  | .srd h dst spr => Sys2Proof.Machine.execSrd h dst spr s
  | .swr h sa spr => Sys2Proof.Machine.execSwr h sa spr s
  | .svst h sp sc sb what off => Sys2Proof.Machine.execSvst h sp sc sb what off s
  | .tblld h sp sb off => Sys2Proof.Machine.execTblld h sp sb off s
  | .tblldSwitch core => Sys2Proof.Machine.execTblldSwitch core s
  | .tfence h => Sys2Proof.Machine.execTfence h s
  | .trap h imm => Sys2Proof.Machine.execTrap h imm s
  | .tret h => Sys2Proof.Machine.execTret h s
  | .vabs h ty vd va rm => Sys2Proof.Machine.execVabs h ty vd va rm s
  | .vneg h ty vd va rm => Sys2Proof.Machine.execVneg h ty vd va rm s
  | .vmov h vd va rm => Sys2Proof.Machine.execVmov h vd va rm s
  | .vbcast h vd sa rm => Sys2Proof.Machine.execVbcast h vd sa rm s
  | .vact h mode vd va rm => Sys2Proof.Machine.execVact h mode vd va rm s
  | .vgate h mode vd vx vy rm => Sys2Proof.Machine.execVgate h mode vd vx vy rm s
  | .vadd h ty vd va vb rm => Sys2Proof.Machine.execVadd h ty vd va vb rm s
  | .vsub h ty vd va vb rm => Sys2Proof.Machine.execVsub h ty vd va vb rm s
  | .vmul h ty vd va vb rm => Sys2Proof.Machine.execVmul h ty vd va vb rm s
  | .vmax h ty vd va vb rm => Sys2Proof.Machine.execVmax h ty vd va vb rm s
  | .vmin h ty vd va vb rm => Sys2Proof.Machine.execVmin h ty vd va vb rm s
  | .vand h vd va vb rm => Sys2Proof.Machine.execVand h vd va vb rm s
  | .vor h vd va vb rm => Sys2Proof.Machine.execVor h vd va vb rm s
  | .vxor h vd va vb rm => Sys2Proof.Machine.execVxor h vd va vb rm s
  | .vshl h vd va vb rm => Sys2Proof.Machine.execVshl h vd va vb rm s
  | .vshr h vd va vb rm => Sys2Proof.Machine.execVshr h vd va vb rm s
  | .vsra h vd va vb rm => Sys2Proof.Machine.execVsra h vd va vb rm s
  | .vcmp h c ty pd va vb rm => Sys2Proof.Machine.execVcmp h c ty pd va vb rm s
  | .vcvt h vd f rm => Sys2Proof.Machine.execVcvt h vd f rm s
  | .vexpE h vd va rm => Sys2Proof.Machine.execVexpE h vd va rm s
  | .vexp2 h vd va rm => Sys2Proof.Machine.execVexp2 h vd va rm s
  | .vlog h vd va rm => Sys2Proof.Machine.execVlog h vd va rm s
  | .vrcp h vd va rm => Sys2Proof.Machine.execVrcp h vd va rm s
  | .vrsq h vd va rm => Sys2Proof.Machine.execVrsq h vd va rm s
  | .vsqrt h vd va rm => Sys2Proof.Machine.execVsqrt h vd va rm s
  | .vfma h ty vd va vb vc rm => Sys2Proof.Machine.execVfma h ty vd va vb vc rm s
  | .vsel h vd va vb pc rm => Sys2Proof.Machine.execVsel h vd va vb pc rm s
  | .vld h ty m vd off => Sys2Proof.Machine.execVld h ty m vd off s
  | .vst h ty m vr rm off => Sys2Proof.Machine.execVst h ty m vr rm off s
  | .vgth h ty m vd vi off => Sys2Proof.Machine.execVgth h ty m vd vi off s
  | .vsct h ty m vr vi off => Sys2Proof.Machine.execVsct h ty m vr vi off s
  | .vldt h ty vd sk so => Sys2Proof.Machine.execVldt h ty vd sk so s
  | .vstt h ty vr sk so => Sys2Proof.Machine.execVstt h ty vr sk so s
  | .vlut h ty vd va rm => Sys2Proof.Machine.execVlut h ty vd va rm s
  | .vmoms h sd va pm sk rm => Sys2Proof.Machine.execVmoms h sd va pm sk rm s
  | .vpkn h ty vd va vs rm => Sys2Proof.Machine.execVpkn h ty vd va vs rm s
  | .vupn h ty vd va vs rm => Sys2Proof.Machine.execVupn h ty vd va vs rm s
  | .vshfl h vd va vi sk rm => Sys2Proof.Machine.execVshfl h vd va vi sk rm s
  | .vvote h sd pa sk rm => Sys2Proof.Machine.execVvote h sd pa sk rm s
  | .vrank h vd sa sk rm => Sys2Proof.Machine.execVrank h vd sa sk rm s
  | .vred h op ty sd va sk rm => Sys2Proof.Machine.execVred h op ty sd va sk rm s
  | .vscan h op ty vd va sk rm => Sys2Proof.Machine.execVscan h op ty vd va sk rm s
  | .vrng h ty w vd sc rm => Sys2Proof.Machine.execVrng h ty w vd sc rm s
  | .vsmax h sd va pm sk rm => Sys2Proof.Machine.execVsmax h sd va pm sk rm s
  | .vsexp h vd va ss sm sk pm => Sys2Proof.Machine.execVsexp h vd va ss sm sk pm s
  | .vsdiv h vd va ss pm rm => Sys2Proof.Machine.execVsdiv h vd va ss pm rm s
  | .wait h ld st cp sg mx => Sys2Proof.Machine.execWait h ld st cp sg mx s
  | .waitp h path sk => Sys2Proof.Machine.execWaitp h path sk s
  | .xclr h what => Sys2Proof.Machine.execXclr h what s
  | .xlfs h vd => Sys2Proof.Machine.execXlfs h vd s
  | .xlsp h vd => Sys2Proof.Machine.execXlsp h vd s
  | .xv h vd vw f => Sys2Proof.Machine.execXv h vd vw f s
  | .xvn h n vd vw f => Sys2Proof.Machine.execXvn h n vd vw f s
  | .yield h => Sys2Proof.Machine.execYield h s
  | .runFetch core slot cand => Sys2Proof.Machine.execRunFetch core slot cand s
  | .runStart core port => Sys2Proof.Machine.execRunStart core port s
  | .spillFillReturn core slot slice => Sys2Proof.Machine.execSpillFillReturn core slot slice s
  | .linkageReturn core slot => Sys2Proof.Machine.execLinkageReturn core slot s
  | .loadReturn core slot idx sectors => Sys2Proof.Machine.execLoadReturn core slot idx sectors s
  | .storePerformed core slot idx piece => Sys2Proof.Machine.execStorePerformed core slot idx piece s
  | .accessResolve core slot idx => Sys2Proof.Machine.execAccessResolve core slot idx s
  | .scaleReadReturn core ctx idx => Sys2Proof.Machine.execScaleReadReturn core ctx idx s
  | .groupLoadDone core slot => Sys2Proof.Machine.execGroupLoadDone core slot s
  | .groupFree core slot => Sys2Proof.Machine.execGroupFree core slot s
  | .teamEnd team => Sys2Proof.Machine.execTeamEnd team s
  | .launchComplete lid => Sys2Proof.Machine.execLaunchComplete lid s
  | .dispatchBatch lid => Sys2Proof.Machine.execDispatchBatch lid s
  | .teamPlace q => Sys2Proof.Machine.execTeamPlace q s
  | .clusterPlace q => Sys2Proof.Machine.execClusterPlace q s
  | .powerWake pc => Sys2Proof.Machine.execPowerWake pc s
  | .activityEstimate pc counts => Sys2Proof.Machine.execActivityEstimate pc counts s
  | .arbiterInterval q sensed => Sys2Proof.Machine.execArbiterInterval q sensed s
  | .preemptRequest part d => Sys2Proof.Machine.execPreemptRequest part d s
  | .preemptWithdraw part => Sys2Proof.Machine.execPreemptWithdraw part s
  | .drainDeadline cl => Sys2Proof.Machine.execDrainDeadline cl s
  | .windowExpiry cl => Sys2Proof.Machine.execWindowExpiry cl s
  | .clusterParked cl => Sys2Proof.Machine.execClusterParked cl s
  | .teamSave team => Sys2Proof.Machine.execTeamSave team s
  | .teamDiscard team => Sys2Proof.Machine.execTeamDiscard team s
  | .sumpResume team => Sys2Proof.Machine.execSumpResume team s
  | .sumpKill team => Sys2Proof.Machine.execSumpKill team s
  | .streamStart k v => Sys2Proof.Machine.execStreamStart k v s
  | .partitionReset part => Sys2Proof.Machine.execPartitionReset part s
  | .partitionResetDone part => Sys2Proof.Machine.execPartitionResetDone part s
  | .xlinv v => Sys2Proof.Machine.execXlinv v s
  | .tseed v => Sys2Proof.Machine.execTseed v s
  | .timeLock tai => Sys2Proof.Machine.execTimeLock tai s
  | .acttime link v => Sys2Proof.Machine.execActtime link v s
  | .slotTableSwitch link => Sys2Proof.Machine.execSlotTableSwitch link s
  | .linkDownTimeout link => Sys2Proof.Machine.execLinkDownTimeout link s
  | .errorLogClear n => Sys2Proof.Machine.execErrorLogClear n s
  | .rewriterStart v => Sys2Proof.Machine.execRewriterStart v s
  | .rewriterDone => Sys2Proof.Machine.execRewriterDone s
  | .coldStart sigOk stepping => Sys2Proof.Machine.execColdStart sigOk stepping s
  | .warmStart sigOk => Sys2Proof.Machine.execWarmStart sigOk s
  | .registerWrite addr n v => Sys2Proof.Machine.execRegisterWrite addr n v s
  | .scFenceGrant core slot => Sys2Proof.Machine.execScFenceGrant core slot s
  | .l1DirtyWriteback core line evict => Sys2Proof.Machine.execL1DirtyWriteback core line evict s
  | .runBufferEviction core start => Sys2Proof.Machine.execRunBufferEviction core start s
  | .peerAccess t op => Sys2Proof.Machine.execPeerAccess t op s
  | .unassignedEncoding w => Sys2Proof.Machine.execUnassignedEncoding w s
  | .linkDown link => Sys2Proof.Machine.execLinkDown link s
  | .linkUp link => Sys2Proof.Machine.execLinkUp link s
  | .linkFlitResend link => Sys2Proof.Machine.execLinkFlitResend link s
  | .slotBoundary link => Sys2Proof.Machine.execSlotBoundary link s
  | .ieee1588EventMessage slew => Sys2Proof.Machine.execIeee1588EventMessage slew s
  | .timeLockLoss => Sys2Proof.Machine.execTimeLockLoss s
  | .softError u corrected => Sys2Proof.Machine.execSoftError u corrected s
  | .tenantCreate t => Sys2Proof.Machine.execTenantCreate t s
  | .tenantTeardown t => Sys2Proof.Machine.execTenantTeardown t s
  | .firmwareResourceAssign part a => Sys2Proof.Machine.execFirmwareResourceAssign part a s
  | .attestationQuote nonce => Sys2Proof.Machine.execAttestationQuote nonce s

end Sys2Proof.Machine
end

