-- ==== Sys2Proof/Machine/Schedule.lean ====
section
/-! DEFINITION. The moves that may come next when the agenda names none, in a fixed order; the step takes the first that changes the
state (log 1). -/

namespace Sys2Proof.Machine

open Sys2Proof

/-- The occupied group slots, as core and slot. -/
def State.occupied (s : State) : List (Nat × Nat) :=
  (s.groups.filter fun p => p.2.st ≠ .free).map fun p => (p.1 / 64, p.1 % 64)

/-- The words of groups that could issue: the ports of occupied slots. -/
def issueMoves (s : State) : List Move := s.occupied.map fun p => Move.issue p.1 (p.2 % 4)

/-- The events of the entries of an address queue. -/
def queueEvents (n k : Nat) (aq : List Access) : List Instr :=
  aq.zipIdx.flatMap fun x =>
    if !x.1.resolved then [Instr.accessResolve n k x.2]
    else if x.1.stores then ((List.range (max 1 x.1.pieces.length)).filter fun i => !((x.1.pieces[i]?).map (·.done)).getD false).map
      (Instr.storePerformed n k x.2)
    else [Instr.loadReturn n k x.2 []]

/-- The events of a command. -/
def commandEvents (n k : Nat) (cmds : List Cmd) : List Instr :=
  cmds.zipIdx.flatMap fun c =>
    match c.1.kind with
    | .siph => [Instr.siphonGatherDone n k c.2]
    | _ => [Instr.pumpPieceDone n k c.2 ((c.1.left.head?).getD 0)]

/-- The scale reads of a context that have not returned. -/
def scaleEvents (s : State) (n x : Nat) : List Instr :=
  ((s.ctx n x).ops.zipIdx.filter fun o => o.1.scaleWait).flatMap fun o => (List.range 512).map fun i => Instr.scaleReadReturn n x (32 * i + o.2)

/-- The events of one group slot. -/
def groupEvents (s : State) (n k : Nat) : List Instr :=
  let g := s.group n k
  [.groupLoadDone n k, .linkageReturn n k]
  ++ queueEvents n k g.aq ++ commandEvents n k g.cmds
  ++ [.scFenceGrant n k]
  ++ ((List.range 8).flatMap fun sl => [Instr.spillFillReturn n k sl, Instr.runFetch n k sl])
  ++ [.runStart n (k % 4), .tblldSwitch n, .engineOpRun n]
  ++ ((List.range 4).flatMap fun x => scaleEvents s n x ++ [.engineMemoryReturn n x, .batchCommit n x])
  ++ [.groupFree n k]

/-- The events of one stream. -/
def streamEvents (k : Nat) (v : Stream) : List Instr :=
  queueEvents 384 k v.grp.aq
    ++ [.scFenceGrant 384 k, .spillFillReturn 384 k 0, .linkageReturn 384 k, .runFetch 384 k 0, .runStart 384 k, .semwaitRecheck k]

/-- The events of teams, clusters, launches, queues, partitions and links. -/
def systemEvents (s : State) : List Instr :=
  (s.teams.flatMap fun p => ((List.range 16).map fun b => Instr.barrierComplete p.1 b false)
    ++ [.teamEnd p.1, .teamSave p.1, .teamDiscard p.1, .sumpResume p.1, .sumpKill p.1])
  ++ (s.clusters.flatMap fun p => ((List.range 4).map fun b => Instr.barrierComplete ((p.2.teams.head?).getD 0) b true)
    ++ [.drainDeadline p.1, .windowExpiry p.1, .clusterParked p.1])
  ++ (s.launches.flatMap fun p => [Instr.timedLaunchRelease p.1, .dispatchBatch p.1, .launchComplete p.1])
  ++ ((List.range 4).flatMap fun q => [Instr.clusterPlace q, .teamPlace q])
  ++ (s.power.clusters.map fun p => Instr.powerWake p.1)
  ++ (s.parts.map fun p => Instr.partitionResetDone p.1)
  ++ (s.links.flatMap fun p => [Instr.slotTableSwitch p.1, .slotBoundary p.1, .linkDownTimeout p.1])
  ++ [.rewriterDone]

/-- The moves to try, in order: events and words of streams, words and events of groups, events of the system, then a stroke of every
occupied core that lags behind the time base. -/
def candidateMoves (s : State) : List Move :=
  ((s.streams.flatMap fun p => streamEvents p.1 p.2).map Move.event)
  ++ (s.streams.map fun p => Move.stream p.1)
  ++ issueMoves s
  ++ ((s.occupied.flatMap fun p => groupEvents s p.1 p.2).map Move.event)
  ++ ((systemEvents s).map Move.event)
  ++ ((s.occupied.filter fun p => decide ((s.core p.1).strokes.toNat ≤ s.time.wall.toNat)).map fun p => Move.stroke p.1)

end Sys2Proof.Machine
end

