-- ==== Sys2Proof/Machine/Step.lean ====
section
/-! DEFINITION. One step of the device: the agenda's next move, or, when the agenda is empty, the first move that changes the state,
and the passing of a nanosecond when none does. -/

namespace Sys2Proof.Machine

open Sys2Proof

/-- Whether an instruction is a word, which only an issuing agent runs, and no event of the device. -/
def isWord (i : Instr) : Bool :=
  match encode i, i with
  | some _, _ => true
  | none, .unassignedEncoding _ => true
  | none, _ => false

/-- One move. -/
def runMove (m : Move) (s : State) : Host.Outcome State Fault Refusal :=
  match m with
  | .issue n p =>
    match prepIssue s n p with
    | some s' => exec (instrOf s'.curWord) s'
    | none => .next s
  | .stream k =>
    match prepStream s k with
    | some s' => exec (instrOf s'.curWord) s'
    | none => .next s
  | .event i => if isWord i then .next s else exec i s
  | .stroke n => .next (passStroke s n)
  | .time => .next (passTime s)
  | .dropTranslation n i => .next (dropTranslation s n i)

/-- Whether a move changes the state. -/
def changes (m : Move) (s : State) : Bool :=
  match runMove m s with
  | .next s' => decide (s' ≠ s)
  | _ => true

/-- One step of the device. -/
def step (s : State) : Host.Outcome State Fault Refusal :=
  match s.agenda with
  | m :: r => runMove m { s with agenda := r }
  | [] => runMove (((candidateMoves s).find? fun m => changes m s).getD .time) s

/-- The state with the instruction of the word w next to issue. A word of major 0x2E stands in command streams, so it is put before
stream slot 0; every other word is put into the run that port 0 of core 0 issues for the group in slot 0, closed by a trailer.
The group is resident with all its lanes, and holds the whole vector register allotment (log 16). -/
def State.withFetchWord (s : State) (nbits w : Nat) : State :=
  let word : Word := BitVec.ofNat 64 (w % 2 ^ nbits)
  let run : Run := { start := 0, words := [word], trailer := BitVec.ofNat 64 0xBF00000000000000 }
  let cand (set : BitVec 8) : Cand := { slices := set, run := some run, started := true, settled := true }
  if majorOf word = 0x2E then
    let v := s.stream 0
    let b := (List.range 8).foldl (fun (x : Arch) sl =>
      x.setSlice sl { active := if sl = 0 then 1 else 0, exited := if sl = 0 then 0xE else 0xF }) v.grp.arch
    let a := { b with cands := [cand 1] }
    { s.setStream 0 { v with state := 1, part := some 0, hold := .none, grp := { v.grp with arch := a, st := .resident } } with
      agenda := [.stream 0], agent := .stream 0 }
  else
    let g := s.group 0 0
    let a := (List.range 8).foldl (fun b sl => b.setSlice sl { active := 0xF })
      { g.arch with cands := [cand 0xFF] }
    let c := s.core 0
    let s := s.setGroup 0 0 { g with st := .resident, allot := 256, blocks := List.range 32, handler := none, arch := a }
    { s.setCore 0 (c.setPort 0 { c.port 0 with busy := 0, cur := some (0, 0) }) with
      agenda := [.issue 0 0], agent := .group 0 0 0 }

end Sys2Proof.Machine
end

