-- ==== Sys2Proof/Safety.lean ====
section
/-! DEFINITION. The terms that claims use: what a safe run is, when a word issues undisturbed, and what a word leaves unchanged. -/

namespace Sys2Proof.Machine

open Sys2Proof

/-! Runs. -/

/-- Whether an outcome is a next state. -/
def goesOn : Host.Outcome State Fault Refusal → Bool
  | .next _ => true
  | _ => false

/-- A step of the state answers a next state. -/
def Safe (s : State) : Prop := goesOn (step s) = true

/-- Memory is in canonical form. -/
abbrev MemOk (s : State) : Prop := Memory.wf s.mem = true

/-! When a word issues undisturbed. -/

/-- No slice falls off the top of the code space at the end of the run being issued (R74). -/
abbrev Inside (s : State) : Prop := s.curRun.trailerAddr + 8 ≠ 0

/-- The word is a group's, its guard is not the reserved one (R295), and no counter wraps. -/
abbrev Plain (s : State) (h : Hdr) : Prop := s.inStream = false ∧ badGuard h = false ∧ Inside s

/-- The guard of the word is true in some active lane (R295). -/
abbrev Executes (s : State) (h : Hdr) : Prop := badGuard h = false ∧ s.execMask h ≠ 0 ∧ Inside s

/-- No memory word of the group is still to pass its checks (R250). -/
abbrev Resolved (s : State) : Prop := s.cur.unresolved = false

/-- The candidate holds every slice with a lane that has not exited (R68). -/
abbrev Whole (s : State) : Prop := s.cur.arch.liveSlices &&& ~~~s.curCand.slices = 0

/-- A scalar register that holds no poison; its low half alone. -/
abbrev CleanS (s : State) (r : BitVec 6) : Prop := (s.cur.arch.getS r).lo = false ∧ (s.cur.arch.getS r).hi = false
abbrev CleanLo (s : State) (r : BitVec 6) : Prop := (s.cur.arch.getS r).lo = false

/-- What a word of a type reads of a scalar register is not poisoned (R394). -/
abbrev CleanTy (s : State) (t : Ty) (r : BitVec 6) : Prop := if scalarWidth t = 32 then CleanLo s r else CleanS s r
abbrev CleanSrc (s : State) (t : Ty) (b : SSrc) : Prop :=
  match b with
  | .reg r => CleanTy s t r
  | .imm _ => True

/-- A reference inside the group's allotment (R249). -/
abbrev Held (s : State) (r : VRef) : Prop :=
  (match r with
  | .reg n => decide (n < s.cur.allot)
  | .temp _ => true) = true

/-- No lane of a mask reads a poisoned element of a reference (R270). -/
abbrev CleanIn (s : State) (m : Mask) (r : VRef) : Prop :=
  ∀ l, l < 32 → bit m l = true → (s.cur.arch.getRef r l).poison = false

/-- The reference of a vector operand of the word being issued. -/
abbrev refOf (s : State) (v : VOp) : VRef := vref s.cur.arch v

/-- A vector word of destination and sources issues undisturbed. -/
abbrev VecReady (s : State) (h : Hdr) (vd : VOp) (vs : List VOp) : Prop :=
  Plain s h ∧ Held s (refOf s vd) ∧ (∀ v ∈ vs, Held s (refOf s v)) ∧ ∀ v ∈ vs, CleanIn s (s.execMask h) (refOf s v)

/-- The member mask of a cross-lane word, and its lanes that have not exited (R68, R69). -/
abbrev namedBy (s : State) (sk : BitVec 6) : Mask := (s.cur.arch.valS sk).setWidth 32
abbrev liveBy (s : State) (sk : BitVec 6) : Mask := namedBy s sk &&& ~~~s.cur.arch.exitedMask

/-- A cross-lane word passes the cases of R68: it names its executing lanes; a named lane that has not exited is active, so that it is of
the issuing candidate; no named lane has exited under DETMODE 1. -/
abbrev CrossReady (s : State) (h : Hdr) (sk : BitVec 6) : Prop :=
  Plain s h ∧ CleanLo s sk ∧
  (∀ l, l < 32 → bit (s.execMask h) l = true → bit (namedBy s sk) l = true) ∧
  (∀ l, l < 32 → bit (liveBy s sk) l = true → bit s.activeMask l = true) ∧
  (s.det = true → ∀ l, l < 32 → bit (namedBy s sk) l = true → bit s.cur.arch.exitedMask l = false)

/-! What a word leaves. -/

/-- Every byte of memory reads as before. -/
def SameBytes (s t : State) : Prop := ∀ a, t.byteAt a = s.byteAt a

/-- Nothing but the record of the issuing group or stream differs. -/
def OthersKept (s t : State) : Prop :=
  t = { s with groups := t.groups, streams := t.streams } ∧
  match s.agent with
  | .group n k _ => t.streams = s.streams ∧ ∀ j, j ≠ groupKey n k → Store.get t.groups j = Store.get s.groups j
  | .stream k => t.groups = s.groups ∧ (∀ j, j ≠ k → t.stream j = s.stream j) ∧ t.stream k = { s.stream k with grp := t.cur }

/-- Of the record of the issuing group only its registers, slices and candidates differ: no exception register, no queue, no mode. -/
def ArchOnly (s t : State) : Prop :=
  OthersKept s t ∧ t.cur = { s.cur with arch := t.cur.arch } ∧ SameBytes s t

/-- The word has issued: the next word of its run follows, and RETIRED counts it unless a PREEMPT handler runs it (R83). -/
def Advanced (s t : State) : Prop :=
  t.cur.arch.retired = (if s.uncounted then s.cur.arch.retired else s.cur.arch.retired + 1) ∧
  t.cur.arch.cands = s.cur.arch.cands.map fun c => if c.has s.curLow then
    { c with run := c.run.map fun r => { r with pos := r.pos + 1, resume := none }, switched := false, fenced := false } else c

/-- The same for a word that is still to write registers, where it is: the run notes the number under which it will (R311). -/
def AdvancedBy (writes : Bool) (seq : Nat) (s t : State) : Prop :=
  (writes = false → Advanced s t) ∧ (writes = true →
    t.cur.arch.retired = (if s.uncounted then s.cur.arch.retired else s.cur.arch.retired + 1) ∧
    t.cur.arch.cands = s.cur.arch.cands.map fun c => if c.has s.curLow then
      { c with run := c.run.map fun r => { r with pos := r.pos + 1, resume := none, own := r.own ++ [seq] },
               switched := false, fenced := false } else c)

/-- A word writes scalar register sd and nothing else. -/
def ScalarFrame (sd : BitVec 6) (s t : State) : Prop :=
  ArchOnly s t ∧ Advanced s t ∧ (∀ r, r ≠ sd → t.cur.arch.getS r = s.cur.arch.getS r) ∧
  t.cur.arch = { s.cur.arch with sregs := t.cur.arch.sregs, pend := t.cur.arch.pend, retired := t.cur.arch.retired,
                                 cands := t.cur.arch.cands }

/-- The instruction completes with clean value v in scalar register sd; s0 discards it (R298). -/
def WritesS (i : Instr) (s : State) (sd : BitVec 6) (v : Word) : Prop :=
  ∃ t, exec i s = .next t ∧ t.cur.arch.getS sd = (if sd = 0 then {} else ⟨v, false, false⟩) ∧ ScalarFrame sd s t

/-- The same, with flags raised (R102). -/
def WritesSF (i : Instr) (s : State) (sd : BitVec 6) (v : Word) (fl : Flags) : Prop :=
  ∃ t, exec i s = .next t ∧ t.cur.arch.getS sd = (if sd = 0 then {} else ⟨v, false, false⟩) ∧
    t.cur.arch.flags = s.cur.arch.flags ||| fl ∧ ArchOnly s t ∧ Advanced s t ∧
    (∀ r, r ≠ sd → t.cur.arch.getS r = s.cur.arch.getS r) ∧
    t.cur.arch = { s.cur.arch with sregs := t.cur.arch.sregs, flags := t.cur.arch.flags, pend := t.cur.arch.pend,
                                   retired := t.cur.arch.retired, cands := t.cur.arch.cands }

/-- A word writes the lanes of a mask of reference d, may raise flags, and writes nothing else. -/
def VecFrame (d : VRef) (m : Mask) (s t : State) : Prop :=
  ArchOnly s t ∧ Advanced s t ∧
  (∀ r l, l < 32 → (r ≠ d ∨ bit m l = false) → t.cur.arch.getRef r l = s.cur.arch.getRef r l) ∧
  t.cur.arch = { s.cur.arch with vregs := t.cur.arch.vregs, temps := t.cur.arch.temps, flags := t.cur.arch.flags,
                                 pend := t.cur.arch.pend, retired := t.cur.arch.retired, cands := t.cur.arch.cands }

/-- The instruction completes with a clean value in each lane of a mask of reference d, and raises flags (R102). -/
def WritesV (i : Instr) (s : State) (d : VRef) (m : Mask) (f : Nat → Lane) (fl : Flags) : Prop :=
  ∃ t, exec i s = .next t ∧ (∀ l, l < 32 → bit m l = true → t.cur.arch.getRef d l = ⟨f l, false⟩) ∧
    t.cur.arch.flags = s.cur.arch.flags ||| fl ∧ VecFrame d m s t

/-- The instruction completes and does nothing but issue. -/
def Idle (i : Instr) (s : State) : Prop :=
  ∃ t, exec i s = .next t ∧ ArchOnly s t ∧ Advanced s t ∧
    t.cur.arch = { s.cur.arch with retired := t.cur.arch.retired, cands := t.cur.arch.cands }

/-- Where a candidate lacks a slice with a lane that has not exited, the instruction waits at its word; where no lane executes, it does
nothing (R197, R438). -/
def Gangs (i : Instr) (s : State) (h : Hdr) : Prop :=
  (¬ Whole s → s.curCand.has s.curLow = true → ∃ t, exec i s = .next t ∧ SameBytes s t ∧
    t.curCand.hold = .convergent 0xFFFFFFFF ∧ t.cur.arch = { s.cur.arch with cands := t.cur.arch.cands }) ∧
  (Whole s → s.execMask h = 0 → Idle i s)

/-- The instruction takes trap t at its word, with no effect of its own. -/
def Traps (i : Instr) (s : State) (t : Trap) : Prop := exec i s = .next (takeTrap s t)

/-! Control flow. -/

/-- The lanes of a slice that execute a word. -/
abbrev takenBy (s : State) (h : Hdr) (sl : Nat) : BitVec 4 := sliceBits (s.execMask h) sl &&& (s.slice sl).active

/-- The instruction completes by giving each slice of its candidate a new record, and changes no other slice and no register. -/
def Moves (i : Instr) (s : State) (f : Nat → Slice → Slice) : Prop :=
  ∃ t, exec i s = .next t ∧ ArchOnly s t ∧ Advanced s t ∧
    (∀ sl, sl < 8 → t.slice sl = if bit s.curCand.slices sl then f sl (s.slice sl) else s.slice sl) ∧
    t.cur.arch = { s.cur.arch with slices := t.cur.arch.slices, retired := t.cur.arch.retired, cands := t.cur.arch.cands }

/-- A slice whose executing lanes take a branch: all its active lanes move, or the slice divides, the others going on first (R56, R63). -/
def branched (tk : BitVec 4) (target join : Addr) (ret : Option Addr) (v : Slice) : Slice :=
  if tk = 0 then v
  else
    let w := if tk = v.active then { v with pc := target, moved := true }
      else { v with active := v.active &&& ~~~tk,
                    div := { prior := v.active, phase := false, join := join, taken := tk, target := target } :: v.div }
    match ret with
    | some a => { w with ret := a :: w.ret }
    | none => w

/-- No slice of the candidate needs the spill area for a branch (R55, R65). -/
abbrev StackRoom (s : State) (h : Hdr) (call : Bool) : Prop :=
  ∀ sl, sl < 8 → bit s.curCand.slices sl = true → takenBy s h sl ≠ 0 →
    (takenBy s h sl ≠ (s.slice sl).active → (s.slice sl).div.length < 16) ∧ (call = true → (s.slice sl).ret.length < 8)

/-- A word of some offset from the word being issued, when it lies in the code space (R53). -/
abbrev InCode (v : Int) : Prop := 0 ≤ v ∧ v < 2 ^ 57

/-! Run starts. -/

/-- What one run-start test of a slice comes to: nothing, a changed slice, or the LOOPMAX of a loop (R56, R66). -/
inductive StartTest where
  | rests
  | becomes (w : Slice)
  | maximum (l : LoopEntry)
  deriving DecidableEq, Repr

/-- Whether a slice whose top divergence entry is e rejoins: it has no active lane, or stands at the join. A loop that opened after e was
pushed is left first (R56, R67, logs 24, 94). -/
def rejoins (v : Slice) (e : DivEntry) : Bool :=
  match v.loops with
  | [] => v.active == 0 || v.pc == e.join
  | l :: _ =>
    let inner := decide (l.depth < v.div.length + v.divSpill)
    if v.active = 0 then inner else v.pc == e.join && (inner || v.pc != l.stop)

/-- The lanes of a slice once its innermost loop l has closed, with those that were parked in it (R66). -/
def loopClosed (v : Slice) (l : LoopEntry) (r : List LoopEntry) : Slice :=
  { v with active := (v.active ||| l.dormant) &&& ~~~v.exited, loops := r, pc := l.stop }

/-- The test of a slice at a run start (R56, R57, R66, R67): at a join the other side of the branch runs, or the entry is popped; at the
end of the innermost loop the next trip begins, or the loop closes. `pred` gives the slice's bits of a predicate. -/
def startTest (pred : BitVec 4 → BitVec 4) (v : Slice) : StartTest :=
  let loopTest : StartTest := match v.loops with
    | [] => .rests
    | l :: r =>
      let n := l.trips + 1
      if v.active = 0 then .becomes (loopClosed v l r)
      else if v.pc ≠ l.stop then .rests
      else if l.counted = true then
        .becomes (if n < l.limit then { v with pc := l.start, loops := { l with trips := n } :: r } else loopClosed v l r)
      else
        let k := { l with trips := n, dormant := l.dormant ||| (v.active &&& pred l.pk) }
        let mask := v.active &&& ~~~(pred l.pk)
        if mask = 0 then .becomes (loopClosed { v with active := 0 } k r)
        else if n = l.limit then .maximum l
        else .becomes { v with active := mask, pc := l.start, loops := k :: r }
  match v.div with
  | [] => if v.divSpill = 0 then loopTest else .rests
  | e :: r =>
    if rejoins v e = false then loopTest
    else if e.phase = false ∧ e.taken &&& ~~~v.exited ≠ 0 then
      .becomes { v with active := e.taken &&& ~~~v.exited, pc := e.target, div := { e with phase := true } :: r }
    else
      let parked : BitVec 4 := v.loops.foldl (fun m l => m ||| l.dormant) 0
      .becomes { v with active := e.prior &&& ~~~v.exited &&& ~~~parked, pc := e.join, div := r }

/-- The slice after m such tests, each at the counter that the one before left. -/
def startTests (pred : BitVec 4 → BitVec 4) : Nat → Slice → Option Slice
  | 0, v => some v
  | m + 1, v => match startTest pred v with
    | .becomes w => startTests pred m w
    | _ => none

/-! Exceptions. -/

/-- The state u after the trap t of s has entered the group's handler at TBASE (R244). -/
def EntersHandler (s : State) (t : Trap) (u : State) : Prop :=
  let c := s.curCand
  let r := s.curLaunch.info
  SameBytes s u ∧ u.cur.epc = s.pc.setWidth 64 ∧ u.cur.einfo = t.einfo ∧
  u.cur.ecause = BitVec.ofNat 64 (t.ticket * 2 ^ 16 + (if t.engine then 2 ^ 11 else 0) + t.space * 2 ^ 8 + t.cause.code) ∧
  (∃ v, u.cur.handler = some v ∧ v.privd = r.hpriv ∧ v.cause = t.cause ∧ v.epc = s.pc.setWidth 64 ∧ v.slices = c.slices ∧
    v.run = c.run ∧ v.started = c.started ∧ v.depths = depthsOf s.cur.arch c.slices ∧
    ∀ k l, l < 32 → Store.get v.shadow (32 * k + l) = if bit c.slices (l / 4) then s.cur.arch.getT k l else {}) ∧
  (∀ sl, sl < 8 → u.slice sl = if bit c.slices sl then { s.slice sl with pc := r.tbase, moved := false } else s.slice sl) ∧
  u.cur.arch = { s.cur.arch with temps := u.cur.arch.temps, slices := u.cur.arch.slices, cands := u.cur.arch.cands } ∧
  u.cur = { s.cur with arch := u.cur.arch, epc := u.cur.epc, ecause := u.cur.ecause, einfo := u.cur.einfo, handler := u.cur.handler }

/-- The issuing group can take a trap at its handler: it is in none, its team is not ending, and TBASE is not 0. -/
abbrev TakesTraps (s : State) : Prop :=
  s.inStream = false ∧ s.cur.handler = none ∧ s.curTeam.ending = none ∧ s.curLaunch.info.tbase ≠ 0

/-! Exact sums. -/

/-- The exact product of two values; 0 × ∞ is a NaN (R113). -/
def FVal.times : FVal → FVal → FVal
  | .fin n m e, .fin n' m' e' => .fin (n != n') (m * m') (e + e')
  | .inf n, .inf n' => .inf (n != n')
  | .inf n, .fin n' m _ | .fin n' m _, .inf n => if m = 0 then .nan false else .inf (n != n')
  | _, _ => .nan false

/-- A value with its sign inverted where asked. -/
def FVal.signed (neg : Bool) : FVal → FVal
  | .fin n m e => .fin (n != neg) m e
  | .inf n => .inf (n != neg)
  | .nan b => .nan b

/-- The FP32 value of an encoding. -/
abbrev val32 (x : Nat) : FVal := unpack fmtF32 x

/-- r is the FP32 encoding of the exact sum of some values, rounded once by RNE; a NaN among them, or infinities of both signs, give the
default quiet NaN (R113). The sign of a sum that is exactly zero is the model's choice (log 92). -/
def SumsTo (l : List FVal) (r : Nat) : Prop :=
  ((∃ v ∈ l, v.isNan = true) ∨ (FVal.inf true ∈ l ∧ FVal.inf false ∈ l) → r = 0x7FC00000) ∧
  (∀ n, FVal.inf n ∈ l → (∀ v ∈ l, v.isNan = false ∧ v ≠ .inf (!n)) → r = if n then 0xFF800000 else 0x7F800000) ∧
  ∀ p : List (Bool × Nat × Int), l = p.map (fun q => .fin q.1 q.2.1 q.2.2) →
    ∃ e : Int, (∀ q ∈ p, q.2.1 ≠ 0 → e ≤ q.2.2) ∧
      let tot : Int := (p.map fun q => (if q.1 then -1 else 1) * (q.2.1 : Int) * 2 ^ (q.2.2 - e).toNat).sum
      (tot ≠ 0 → r = (roundTo fmtF32 .rne (decide (tot < 0)) tot.natAbs e).bits) ∧ (tot = 0 → r = 0 ∨ r = 2 ^ 31)

/-- a² − b² exceeds 2⁻²⁰ a², exactly (R216). -/
def Definite (a b : Nat) : Prop :=
  ∃ na ma ea nb mb eb, val32 a = .fin na ma ea ∧ val32 b = .fin nb mb eb ∧
    let e := min ea eb
    (mb * 2 ^ (eb - e).toNat) ^ 2 * 2 ^ 20 < (ma * 2 ^ (ea - e).toNat) ^ 2 * (2 ^ 20 - 1)

/-- An FP32 encoding is finite; positive and finite. -/
def Finite32 (x : Nat) : Prop := ∃ n m e, val32 x = .fin n m e
def Positive32 (x : Nat) : Prop := ∃ m e, m ≠ 0 ∧ val32 x = .fin false m e

/-! The address queue. -/

/-- No fence of the group can complete now: the form in which every memory word and every event of the queue leaves it, until a slot of a
link opens to what a fence writes home (R171, R287). -/
abbrev QueueSettled (s : State) : Prop := readyFence s.cur.aq (fun x => s.scopeOpen x.scope) = none

/-- What a location of an access names, without the place it resolves to. -/
def Piece.named (p : Piece) : Nat × Word × Nat × Word × Word × Bool × Bool :=
  (p.lane, p.addr, p.n, p.val, p.val2, p.poison, p.done)

/-- The instruction completes by entering access x in the queue of its group or stream, behind a fence if it is sc (R170), and raises
flags; an access outside G has passed its checks. One that can synchronise with nothing keeps no order of its own (R172, R184). No
register, no byte of memory and nothing of another group changes. -/
def Enqueues (i : Instr) (s : State) (x : Access) (fl : Flags) : Prop :=
  ∃ t y, exec i s = .next t ∧ OthersKept s t ∧ SameBytes s t ∧
    AdvancedBy (x.pieces.any fun p => (dstKey x.dst p.lane).isSome) y.seq s t ∧ y ∈ t.cur.aq ∧ y.kind = x.kind ∧ y.ty = x.ty ∧ y.space = x.space ∧ y.scope = x.scope ∧ y.dst = x.dst ∧ y.epc = s.pc ∧
    y.order = (if s.reaches x.scope = false then .rlx else if x.order ≠ .sc then x.order
      else if x.kind = .load then .acq else if x.kind = .store then .rel else .ar) ∧
    y.pieces.map Piece.named = x.pieces.map Piece.named ∧ y.resolved = decide (x.space ≠ .g) ∧ y.done = false ∧
    s.cur.seq ≤ y.seq ∧ y.seq < t.cur.seq ∧
    (x.order = .sc → ∃ z ∈ t.cur.aq, z.kind = .fence ∧ z.order = .sc ∧ z.scope = x.scope ∧ z.done = false ∧ z.seq < y.seq) ∧
    (∀ z ∈ s.cur.aq, z.done = false → z ∈ t.cur.aq) ∧
    t.cur = { s.cur with arch := t.cur.arch, aq := t.cur.aq, seq := t.cur.seq } ∧
    t.cur.arch = { s.cur.arch with flags := s.cur.arch.flags ||| fl, pend := t.cur.arch.pend, retired := t.cur.arch.retired,
                                   cands := t.cur.arch.cands }

/-- The scalar base of a memory word can be read, and no older fence is ready. -/
abbrev MemReady (s : State) (sb : BitVec 6) : Prop := QueueSettled s ∧ CleanS s sb

/-- The address that a scalar base and an offset name (R127). -/
def addressOf (s : State) (sb : BitVec 6) {w : Nat} (off : BitVec w) : Word := s.cur.arch.valS sb + off.signExtend 64

end Sys2Proof.Machine
end

