-- ==== Sys2Proof/Certificates/Slice0/Obligations.lean ====
section
/-! DEFINITION. The statements for the provers, each a `def Obligations.<Name> : Prop`; every docstring says which rules it formalises. -/

open Sys2Proof Sys2Proof.Machine

/-! Scalar words. -/

/-- From R393, R394, R397: the binary integer words put into sD the exact integer result reduced to the width of the type, extended as the
type says, and change nothing else. -/
def Obligations.ScalarIntegerResults : Prop :=
  ∀ (s : State) (h : Hdr) (ty : Ty) (sd sa : BitVec 6) (b : SSrc), Executes s h → CleanTy s ty sa → CleanSrc s ty b →
    let x := s.cur.arch.valS sa
    let y := srcVal s.cur.arch b
    let r (f : (w : Nat) → BitVec w → BitVec w → BitVec w) : Word :=
      if scalarWidth ty = 32 then extend32 ty (f 32 (x.setWidth 32) (y.setWidth 32)) else f 64 x y
    let v (w : Nat) (a : BitVec w) : Int := if signedTy ty then a.toInt else a.toNat
    let holds (c : Cond) (p q : Int) : Bool := match c with
      | .eq => p = q
      | .ne => p ≠ q
      | .lt => p < q
      | .le => p ≤ q
      | .gt => q < p
      | .ge => q ≤ p
      | .un => false
    WritesS (.sadd h ty sd sa b) s sd (r fun w p q => BitVec.ofInt w (v w p + v w q)) ∧
    WritesS (.ssub h ty sd sa b) s sd (r fun w p q => BitVec.ofInt w (v w p - v w q)) ∧
    WritesS (.sand h ty sd sa b) s sd (r fun _ p q => p &&& q) ∧
    WritesS (.sor h ty sd sa b) s sd (r fun _ p q => p ||| q) ∧
    WritesS (.sxor h ty sd sa b) s sd (r fun _ p q => p ^^^ q) ∧
    WritesS (.sshl h ty sd sa b) s sd (r fun w p q => p <<< (q.toNat % w)) ∧
    WritesS (.sshr h ty sd sa b) s sd (r fun w p q => BitVec.ofNat w (p.toNat / 2 ^ (q.toNat % w))) ∧
    WritesS (.ssra h ty sd sa b) s sd (r fun w p q => BitVec.ofInt w (p.toInt / 2 ^ (q.toNat % w))) ∧
    WritesS (.smax h ty sd sa b) s sd (r fun w p q => BitVec.ofInt w (max (v w p) (v w q))) ∧
    WritesS (.smin h ty sd sa b) s sd (r fun w p q => BitVec.ofInt w (min (v w p) (v w q))) ∧
    (∀ c, WritesS (.scmp h ty c sd sa b) s sd (r fun w p q => if holds c (v w p) (v w q) then 1 else 0)) ∧
    WritesS (.smul h ty sd sa b) s sd (r fun w p q => BitVec.ofInt w (v w p * v w q)) ∧
    WritesS (.smulh h ty sd sa b) s sd (r fun w p q => BitVec.ofInt w (v w p * v w q / 2 ^ w)) ∧
    WritesS (.sdiv h ty sd sa b) s sd (r fun w p q => if q = 0 then BitVec.allOnes w else BitVec.ofInt w ((v w p).tdiv (v w q)))

/-- From R393, R394, R396, R325: the selecting, moving and counting scalar words; SMOV to an index register takes bits 7:0 and writes that
register alone. -/
def Obligations.ScalarMoveResults : Prop :=
  ∀ (s : State) (h : Hdr) (sd sa : BitVec 6), Executes s h →
    let v (r : BitVec 6) : Word := s.cur.arch.valS r
    (∀ ty sb sc, CleanTy s ty sa → CleanTy s ty sb → CleanTy s ty sc → WritesS (.ssel h ty sd sa sb sc) s sd
      (if scalarWidth ty = 32 then extend32 ty (if (v sc).setWidth 32 ≠ (0 : Lane) then (v sa).setWidth 32 else (v sb).setWidth 32)
       else if v sc ≠ 0 then v sa else v sb)) ∧
    (CleanS s sa → WritesS (.smov h (.ss sd sa)) s sd (v sa)) ∧
    (∀ xa, WritesS (.smov h (.xs sd xa)) s sd ((s.cur.arch.getX xa).setWidth 64)) ∧
    (∀ imm, WritesS (.smovi h sd imm) s sd (imm.signExtend 64)) ∧
    (CleanS s sa → ∀ (imm : BitVec 16) (q : BitVec 2), WritesS (.shi h sd sa imm q) s sd
      ((v sa &&& ~~~((0xFFFF : Word) <<< (16 * q.toNat))) ||| (imm.setWidth 64 <<< (16 * q.toNat)))) ∧
    (CleanS s sa → ∀ (b : SSrc) (sc : BitVec 4), CleanSrc s .z64 b → WritesS (.slea h sd sa b sc) s sd
      (BitVec.ofNat 64 ((v sa).toNat + (srcVal s.cur.arch b).toNat * 2 ^ sc.toNat))) ∧
    (CleanS s sa → ∃ n, WritesS (.sclz h sd sa) s sd (BitVec.ofNat 64 n) ∧ n ≤ 64 ∧ (v sa).toNat < 2 ^ (64 - n) ∧
      (n < 64 → 2 ^ (63 - n) ≤ (v sa).toNat)) ∧
    (CleanS s sa → WritesS (.spopc h sd sa) s sd
      (BitVec.ofNat 64 ((List.range 64).countP fun i => (v sa).getLsbD i))) ∧
    (CleanLo s sa → ∀ xd : BitVec 2, xd ≠ 0 →
      ∃ t, exec (.smov h (.sx xd sa)) s = .next t ∧ t.cur.arch.getX xd = (v sa).setWidth 8 ∧
        (∀ k, k ≠ xd → t.cur.arch.getX k = s.cur.arch.getX k) ∧ ArchOnly s t ∧ Advanced s t ∧
        t.cur.arch = { s.cur.arch with xregs := t.cur.arch.xregs, retired := t.cur.arch.retired, cands := t.cur.arch.cands })

/-- From R295: where its guard is true in no executing lane, a scalar word does nothing. -/
def Obligations.FalseGuardDoesNothing : Prop :=
  ∀ (s : State) (h : Hdr), badGuard h = false → s.execMask h = 0 → Inside s →
    ∀ (ty : Ty) (sd sa sb sc : BitVec 6) (b : SSrc) (c : Cond) (imm : BitVec 20),
    (Idle (.sadd h ty sd sa b) s ∧ Idle (.ssub h ty sd sa b) s ∧ Idle (.sand h ty sd sa b) s ∧ Idle (.sor h ty sd sa b) s ∧
      Idle (.sxor h ty sd sa b) s ∧ Idle (.sshl h ty sd sa b) s ∧ Idle (.sshr h ty sd sa b) s ∧ Idle (.ssra h ty sd sa b) s ∧
      Idle (.smax h ty sd sa b) s ∧ Idle (.smin h ty sd sa b) s ∧ Idle (.scmp h ty c sd sa b) s ∧
      Idle (.ssel h ty sd sa sb sc) s ∧ Idle (.smul h ty sd sa b) s ∧ Idle (.smulh h ty sd sa b) s ∧
      Idle (.sdiv h ty sd sa b) s ∧ (∀ f, Idle (.smov h f) s) ∧ Idle (.smovi h sd imm) s ∧
      (∀ i q, Idle (.shi h sd sa i q) s) ∧ (∀ k, Idle (.slea h sd sa b k) s) ∧ Idle (.sclz h sd sa) s ∧
      Idle (.spopc h sd sa) s ∧ Idle (.trap h imm) s) ∧
    ((∀ m o, Idle (.sld h ty m sd o) s ∧ Idle (.sst h ty m sd o) s) ∧ (∀ o w, Idle (.fence h o w) s)) ∧
    (s.inStream = false → Idle (.tfence h) s ∧ Idle (.ovtld h sa) s ∧ Idle (.icinv h) s ∧ Idle (.pstat h sd sa) s ∧
      Idle (.pcanc h sa) s ∧ ∀ sp o, Idle (.tblld h sp sa o) s)

/-! Vector words. -/

/-- R419, R422, R423, R427: the words of two sources that combine bits or integers lane by lane, and the words of major 0x03, which copy
bits. Every executing lane gets its result, every other element and every flag stays. -/
def Obligations.VectorIntegerResults : Prop :=
  (∀ (s : State) (h : Hdr) (vd va vb : VOp) (rm : RMode), VecReady s h vd [va, vb] →
     let x (l : Nat) : Lane := (s.cur.arch.getRef (refOf s va) l).bits
     let y (l : Nat) : Lane := (s.cur.arch.getRef (refOf s vb) l).bits
     let k (l : Nat) : Nat := ((y l).extractLsb' 0 5).toNat
     let ok (i : Instr) (f : Nat → Lane) : Prop := WritesV i s (refOf s vd) (s.execMask h) f 0
     ok (.vand h vd va vb rm) (fun l => x l &&& y l) ∧
     ok (.vor h vd va vb rm) (fun l => x l ||| y l) ∧
     ok (.vxor h vd va vb rm) (fun l => x l ^^^ y l) ∧
     ok (.vshl h vd va vb rm) (fun l => x l <<< k l) ∧
     ok (.vshr h vd va vb rm) (fun l => x l >>> k l) ∧
     ok (.vsra h vd va vb rm) (fun l => (x l).sshiftRight (k l)) ∧
     (∀ pc, ok (.vsel h vd va vb pc rm) fun l => if bit (s.cur.arch.getP pc) l then x l else y l) ∧
     ∀ ty, ty = .s32 ∨ ty = .z32 →
       let v (a : Lane) : Int := if ty = .s32 then a.toInt else a.toNat
       ok (.vadd h ty vd va vb rm) (fun l => BitVec.ofInt 32 (v (x l) + v (y l))) ∧
       ok (.vsub h ty vd va vb rm) (fun l => BitVec.ofInt 32 (v (x l) - v (y l))) ∧
       ok (.vmul h ty vd va vb rm) (fun l => BitVec.ofInt 32 (v (x l) * v (y l))) ∧
       ok (.vmax h ty vd va vb rm) (fun l => BitVec.ofInt 32 (max (v (x l)) (v (y l)))) ∧
       ok (.vmin h ty vd va vb rm) (fun l => BitVec.ofInt 32 (min (v (x l)) (v (y l))))) ∧
  (∀ (s : State) (h : Hdr) (vd va : VOp) (rm : RMode),
     let x (l : Nat) : Lane := (s.cur.arch.getRef (refOf s va) l).bits
     let ok (i : Instr) (f : Nat → Lane) : Prop := WritesV i s (refOf s vd) (s.execMask h) f 0
     (VecReady s h vd [va] →
       ok (.vmov h vd va rm) x ∧
       ok (.vabs h .f32 vd va rm) (fun l => x l &&& 0x7FFFFFFF) ∧ ok (.vabs h .b16 vd va rm) (fun l => x l &&& 0x7FFF7FFF) ∧
       ok (.vneg h .f32 vd va rm) (fun l => x l ^^^ 0x80000000) ∧ ok (.vneg h .b16 vd va rm) (fun l => x l ^^^ 0x80008000)) ∧
     ∀ sa, VecReady s h vd [] → CleanLo s sa → ok (.vbcast h vd sa rm) fun _ => (s.cur.arch.valS sa).extractLsb' 0 32) ∧
  ∀ (h : Hdr) (vd va vb : VOp) (sa : BitVec 6) (rm : RMode),
    let encoded (i : Instr) (major hi : Nat) (ty : BitVec 4) (a b : BitVec 10) : Prop :=
      ∃ w, encode i = some w ∧ minClass i = 0 ∧ (majorOf w).toNat = major ∧ (w.extractLsb' 47 4).toNat = hi ∧
        w.extractLsb' 43 4 = ty ∧ w.extractLsb' 33 10 = vd.code ∧ w.extractLsb' 23 10 = a ∧ w.extractLsb' 13 10 = b ∧
        w.extractLsb' 3 10 = 0
    encoded (.vand h vd va vb rm) 2 0 15 va.code vb.code ∧ encoded (.vor h vd va vb rm) 2 1 15 va.code vb.code ∧
    encoded (.vxor h vd va vb rm) 2 2 15 va.code vb.code ∧ encoded (.vshl h vd va vb rm) 2 3 15 va.code vb.code ∧
    encoded (.vshr h vd va vb rm) 2 4 15 va.code vb.code ∧ encoded (.vsra h vd va vb rm) 2 5 15 va.code vb.code ∧
    encoded (.vabs h .f32 vd va rm) 3 0 1 va.code 0 ∧ encoded (.vabs h .b16 vd va rm) 3 0 2 va.code 0 ∧
    encoded (.vneg h .f32 vd va rm) 3 1 1 va.code 0 ∧ encoded (.vneg h .b16 vd va rm) 3 1 2 va.code 0 ∧
    encoded (.vmov h vd va rm) 3 2 15 va.code 0 ∧ encoded (.vbcast h vd sa rm) 3 3 15 (sa.setWidth 10) 0

/-- From R95, R100 to R103, R422, R427: FP32 lanes hold the exact result rounded once under RM, BF16 halves are rounded each by itself,
and the flags of the executing lanes are ORed into FLAGS; VMAX and VMIN do not depend on RM. Rounding a value that a format holds gives
that value and raises nothing, under every rounding mode. The model's part: the test of UNF is read in log 23. -/
def Obligations.VectorFloatResults : Prop :=
  (∀ (s : State) (h : Hdr) (vd va vb vc : VOp) (rm : RMode),
     let x (l : Nat) : Lane := (s.cur.arch.getRef (refOf s va) l).bits
     let y (l : Nat) : Lane := (s.cur.arch.getRef (refOf s vb) l).bits
     let z (l : Nat) : Lane := (s.cur.arch.getRef (refOf s vc) l).bits
     let ok (i : Instr) (f : Nat → Lane × Flags) : Prop := WritesV i s (refOf s vd) (s.execMask h) (fun l => (f l).1)
       (orFlags ((lanes (s.execMask h)).map fun l => (f l).2))
     let full (f : Nat → Nat → FRes) (l : Nat) : Lane × Flags :=
       let r := f (x l).toNat (y l).toNat
       (BitVec.ofNat 32 r.bits, r.flags)
     let half (f : Nat → Nat → FRes) (l : Nat) : Lane × Flags :=
       let r0 := f ((x l).toNat % 2 ^ 16) ((y l).toNat % 2 ^ 16)
       let r1 := f ((x l).toNat / 2 ^ 16) ((y l).toNat / 2 ^ 16)
       (BitVec.ofNat 32 (r0.bits + r1.bits * 2 ^ 16), r0.flags ||| r1.flags)
     (VecReady s h vd [va, vb] →
       ok (.vadd h .f32 vd va vb rm) (full (fAdd fmtF32 rm)) ∧ ok (.vadd h .b16 vd va vb rm) (half (fAdd fmtB16 rm)) ∧
       ok (.vsub h .f32 vd va vb rm) (full (fSub fmtF32 rm)) ∧ ok (.vsub h .b16 vd va vb rm) (half (fSub fmtB16 rm)) ∧
       ok (.vmul h .f32 vd va vb rm) (full (fMul fmtF32 rm)) ∧ ok (.vmul h .b16 vd va vb rm) (half (fMul fmtB16 rm)) ∧
       ok (.vmax h .f32 vd va vb rm) (full (fMax fmtF32)) ∧ ok (.vmax h .b16 vd va vb rm) (half (fMax fmtB16)) ∧
       ok (.vmin h .f32 vd va vb rm) (full (fMin fmtF32)) ∧ ok (.vmin h .b16 vd va vb rm) (half (fMin fmtB16))) ∧
     (VecReady s h vd [va, vb, vc] →
       ok (.vfma h .f32 vd va vb vc rm) (fun l => full (fun a b => fFma fmtF32 rm a b (z l).toNat) l) ∧
       ok (.vfma h .b16 vd va vb vc rm) (fun l =>
         let r0 := fFma fmtB16 rm ((x l).toNat % 2 ^ 16) ((y l).toNat % 2 ^ 16) ((z l).toNat % 2 ^ 16)
         let r1 := fFma fmtB16 rm ((x l).toNat / 2 ^ 16) ((y l).toNat / 2 ^ 16) ((z l).toNat / 2 ^ 16)
         (BitVec.ofNat 32 (r0.bits + r1.bits * 2 ^ 16), r0.flags ||| r1.flags)))) ∧
  (∀ (f : FFmt) (rm : RMode) (b : Nat) (neg : Bool) (m : Nat) (e : Int), f = fmtF32 ∨ f = fmtB16 ∨ f = fmtH16 →
     b < 2 * f.sign → unpack f b = .fin neg m e → roundTo f rm neg m e = ⟨b, fNone⟩)

/-- From R111, R112, R117 to R123, R421, R425, R426: conversions, special functions and activations put their result into every executing
lane, and raise the flags of those lanes alone. The model's part: VLOG's evaluation to 180 bits is the model's choice, log 18. -/
def Obligations.VectorFunctionResults : Prop :=
  ∀ (s : State) (h : Hdr) (vd va vb : VOp) (rm : RMode),
    let x (l : Nat) : Nat := (s.cur.arch.getRef (refOf s va) l).bits.toNat
    let y (l : Nat) : Nat := (s.cur.arch.getRef (refOf s vb) l).bits.toNat
    let ok (i : Instr) (f : Nat → Lane × Flags) : Prop := WritesV i s (refOf s vd) (s.execMask h) (fun l => (f l).1)
      (orFlags ((lanes (s.execMask h)).map fun l => (f l).2))
    let one (f : Nat → FRes) (l : Nat) : Lane × Flags := (BitVec.ofNat 32 (f (x l)).bits, (f (x l)).flags)
    let pair (f g : FRes) : Lane × Flags := (BitVec.ofNat 32 (f.bits + g.bits * 2 ^ 16), f.flags ||| g.flags)
    let narrow (a : FFmt) (t : Ty) (v : Nat) : FRes := fConvNarrow a (fmtOf t) rm s.cur.ovt v
    (VecReady s h vd [va] →
      ok (.vexpE h vd va rm) (one fExp) ∧ ok (.vexp2 h vd va rm) (one fExp2) ∧ ok (.vlog h vd va rm) (one fLog) ∧
      ok (.vrcp h vd va rm) (one fRcp) ∧ ok (.vrsq h vd va rm) (one fRsq) ∧ ok (.vsqrt h vd va rm) (one fSqrt) ∧
      (∀ mode, ok (.vact h mode vd va rm) (one (fAct mode))) ∧
      (∀ st half, ok (.vcvt h vd (.widen st va half) rm) fun l =>
        let r := fWiden (fmtOf st) (if half = 0 then x l % 2 ^ 16 else x l / 2 ^ 16)
        (BitVec.ofNat 32 r.bits, r.flags)) ∧
      (∀ st dt, ok (.vcvt h vd (.cross st dt va) rm) fun l =>
        pair (narrow (fmtOf st) dt (x l % 2 ^ 16)) (narrow (fmtOf st) dt (x l / 2 ^ 16))) ∧
      (∀ dt, ok (.vcvt h vd (.toInt dt va) rm) fun l => fToInt (dt == .s32 || dt == .s64) rm (x l)) ∧
      (∀ st, ok (.vcvt h vd (.fromInt st va) rm) fun l =>
        let r := fFromInt (st == .s32 || st == .s64) rm (s.cur.arch.getRef (refOf s va) l).bits
        (BitVec.ofNat 32 r.bits, r.flags))) ∧
    (VecReady s h vd [va, vb] →
      (∀ mode, ok (.vgate h mode vd va vb rm) fun l =>
        (BitVec.ofNat 32 (fGate mode (x l) (y l)).bits, (fGate mode (x l) (y l)).flags)) ∧
      ∀ dt, ok (.vcvt h vd (.narrow dt va vb) rm) fun l => pair (narrow fmtF32 dt (x l)) (narrow fmtF32 dt (y l)))

/-- R324, R424: VCMP sets the bits of the executing lanes of pD, keeps the others, and writes no register; a write to p0 is discarded. A
signalling NaN in an executing lane sets INV, and nothing else sets a flag. Conditions 7 to 15, and `un` of an integer type, are encodings
that decode to nothing, which raise UNDEF (SoftwareTrapsEnterTheHandler). -/
def Obligations.VectorCompare : Prop :=
  (∀ (s : State) (h : Hdr) (c : Cond) (ty : Ty) (pd : BitVec 4) (va vb : VOp) (rm : RMode),
    Plain s h → Held s (refOf s va) → Held s (refOf s vb) →
    CleanIn s (s.execMask h) (refOf s va) → CleanIn s (s.execMask h) (refOf s vb) →
    let x (l : Nat) : Lane := (s.cur.arch.getRef (refOf s va) l).bits
    let y (l : Nat) : Lane := (s.cur.arch.getRef (refOf s vb) l).bits
    let num (a : Lane) : Int := if ty = .s32 then a.toInt else if ty = .z32 then a.toNat
      else if a.toNat < 2 ^ 31 then a.toNat else -((a.toNat - 2 ^ 31 : Nat) : Int)
    let nan (a : Lane) : Bool := ty == .f32 && (a &&& 0x7FFFFFFF).toNat > 0x7F800000
    let un (l : Nat) : Bool := nan (x l) || nan (y l)
    let signals (a : Lane) : Bool := nan a && !bit a 22
    let holds (l : Nat) : Bool := match c with
      | .eq => !un l && decide (num (x l) = num (y l))
      | .ne => un l || decide (num (x l) ≠ num (y l))
      | .lt => !un l && decide (num (x l) < num (y l))
      | .le => !un l && decide (num (x l) ≤ num (y l))
      | .gt => !un l && decide (num (y l) < num (x l))
      | .ge => !un l && decide (num (y l) ≤ num (x l))
      | .un => un l
    (ty = .f32 ∨ ty = .s32 ∨ ty = .z32) → (c = .un → ty = .f32) →
    ∃ t, exec (.vcmp h c ty pd va vb rm) s = .next t ∧ ArchOnly s t ∧ Advanced s t ∧
      (pd ≠ 0 → ∀ l, l < 32 → bit (t.cur.arch.getP pd) l = if bit (s.execMask h) l then holds l else bit (s.cur.arch.getP pd) l) ∧
      (∀ k, k ≠ pd ∨ k = 0 → t.cur.arch.getP k = s.cur.arch.getP k) ∧
      t.cur.arch.flags = s.cur.arch.flags |||
        (if ((List.range 32).any fun l => bit (s.execMask h) l && (signals (x l) || signals (y l))) = true then fInv else 0) ∧
      t.cur.arch = { s.cur.arch with preds := t.cur.arch.preds, flags := t.cur.arch.flags, retired := t.cur.arch.retired,
                                     cands := t.cur.arch.cands }) ∧
  (∀ (h : Hdr) (c : Cond) (ty : Ty) (pd : BitVec 4) (va vb : VOp) (rm : RMode),
    ∃ w, encode (.vcmp h c ty pd va vb rm) = some w ∧ minClass (.vcmp h c ty pd va vb rm) = 0 ∧ majorOf w = 5 ∧
      w.extractLsb' 47 4 = (match c with
        | .eq => 0
        | .ne => 1
        | .lt => 2
        | .le => 3
        | .gt => 4
        | .ge => 5
        | .un => 6) ∧
      (ty = .f32 → w.extractLsb' 43 4 = 1) ∧ (ty = .s32 → w.extractLsb' 43 4 = 4) ∧ (ty = .z32 → w.extractLsb' 43 4 = 5) ∧
      w.extractLsb' 33 10 = pd.setWidth 10 ∧ w.extractLsb' 23 10 = va.code ∧ w.extractLsb' 13 10 = vb.code ∧
      w.extractLsb' 3 10 = 0) ∧
  ∀ w : Word, majorOf w = 5 → 7 ≤ (w.extractLsb' 47 4).toNat ∨ (w.extractLsb' 47 4 = 6 ∧ w.extractLsb' 43 4 ≠ 1) →
    ∃ e, decode w = .error e

/-! Cross-lane words, tables and lane code. -/

/-- From R106, R436 to R438: VPKN writes all 32 lanes of vD: bit e of lane j < k is bit 7 − j of the quantised element e, 0 where lane e
does not execute, and the lanes from k up are 0. VUPN writes its executing lanes. Both wait at the word until their candidate holds every
slice with a lane that has not exited, and do nothing where no lane executes. -/
def Obligations.PlanePacking : Prop :=
  (∀ (s : State) (h : Hdr) (ty : Ty) (vd va vs : VOp) (rm : RMode), Plain s h →
    let both (f : Instr → Prop) : Prop := f (.vpkn h ty vd va vs rm) ∧ f (.vupn h ty vd va vs rm)
    (Whole s → s.execMask h = 0 → Held s (refOf s vd) → Held s (refOf s va) → Held s (refOf s vs) → both fun i => Idle i s) ∧
    (¬ Whole s → s.curCand.has s.curLow = true → both fun i => ∃ t, exec i s = .next t ∧ SameBytes s t ∧
      t.curCand.hold = .convergent 0xFFFFFFFF ∧ t.cur.arch = { s.cur.arch with cands := t.cur.arch.cands })) ∧
  ∀ (s : State) (h : Hdr) (ty : Ty) (vd va vs : VOp) (rm : RMode), Plain s h → Whole s → s.execMask h ≠ 0 →
    Held s (refOf s vd) → Held s (refOf s va) → Held s (refOf s vs) → CleanIn s (s.execMask h) (refOf s vs) →
    let x (l : Nat) : Lane := (s.cur.arch.getRef (refOf s va) l).bits
    let c (l : Nat) : Nat := (s.cur.arch.getRef (refOf s vs) l).bits.toNat % 2 ^ 16
    let q (e : Nat) : BitVec 8 × Flags := if bit (s.execMask h) e then toPi ty.pik rm (c e) (x e).toNat else (0, 0)
    (CleanIn s (s.execMask h) (refOf s va) →
      ∃ t, exec (.vpkn h ty vd va vs rm) s = .next t ∧ VecFrame (refOf s vd) 0xFFFFFFFF s t ∧
        (∀ j e, j < 32 → e < 32 → bit (t.cur.arch.getRef (refOf s vd) j).bits e = (decide (j < ty.pik) && bit (q e).1 (7 - j))) ∧
        t.cur.arch.flags = s.cur.arch.flags ||| orFlags ((List.range 32).map fun e => (q e).2)) ∧
    (CleanIn s (maskOf 32 (List.range ty.pik)) (refOf s va) →
      let r (l : Nat) : FRes := ofPi (c l) (unpackPlanes ty.pik ((List.range ty.pik).map x) l)
      WritesV (.vupn h ty vd va vs rm) s (refOf s vd) (s.execMask h) (fun l => BitVec.ofNat 32 (r l).bits)
        (orFlags ((lanes (s.execMask h)).map fun l => (r l).flags)))

/-- From R68, R69, R116, R441, R442: VRED combines the named lanes along the fixed tree, exited ones counting as the identity; VSCAN does
so for each executing lane over the named lanes up to itself. Over integers the tree is the plain sum of the named lanes that live. -/
def Obligations.ReductionResults : Prop :=
  (∀ (s : State) (h : Hdr) (op : RedOp) (ty : Ty) (sd : BitVec 6) (vd va : VOp) (sk : BitVec 6) (rm : RMode),
     CrossReady s h sk → Held s (refOf s va) → CleanIn s (liveBy s sk) (refOf s va) →
     let val (l : Nat) : Lane := (s.cur.arch.getRef (refOf s va) l).bits
     let tree (set : Mask) : Lane × Flags := treeOf (redStep op ty) set s.cur.arch.exitedMask val (identity op ty)
     (s.execMask h ≠ 0 → WritesSF (.vred h op ty sd va sk rm) s sd
       (if ty = .s32 then (tree (namedBy s sk)).1.signExtend 64 else (tree (namedBy s sk)).1.setWidth 64) (tree (namedBy s sk)).2) ∧
     (Held s (refOf s vd) →
       let upTo (l : Nat) : Mask := maskOf 32 ((List.range 32).filter fun j => bit (namedBy s sk) j && decide (j ≤ l))
       WritesV (.vscan h op ty vd va sk rm) s (refOf s vd) (s.execMask h) (fun l => (tree (upTo l)).1)
         (orFlags ((lanes (s.execMask h)).map fun l => (tree (upTo l)).2)))) ∧
  (∀ (ty : Ty) (named exited : Mask) (val : Nat → Lane), ty ≠ .f32 →
     treeOf (redStep .add ty) named exited val (identity .add ty) =
       (((List.range 32).filter fun l => bit named l && !bit exited l).foldl (fun a l => a + val l) 0, 0))

/-- From R325, R439: VSHFL, VVOTE and VRANK. -/
def Obligations.ShuffleVoteRank : Prop :=
  ∀ (s : State) (h : Hdr) (sd sa : BitVec 6) (pa : BitVec 4) (vd va vi : VOp) (sk : BitVec 6) (rm : RMode), CrossReady s h sk →
    let val (l : Nat) : Elt := s.cur.arch.getRef (refOf s va) l
    let src (l : Nat) : Nat := (s.cur.arch.getRef (refOf s vi) l).bits.toNat % 32
    let ex (l : Nat) : Bool := bit s.cur.arch.exitedMask l
    let named (l : Nat) : Bool := bit (namedBy s sk) l
    (Held s (refOf s vd) → Held s (refOf s va) → Held s (refOf s vi) → CleanIn s (s.execMask h) (refOf s vi) →
      (∀ l, l < 32 → bit (s.execMask h) l = true →
        (named (src l) = true → ex (src l) = false → (val (src l)).poison = false) ∧
        (named (src l) = false → (val l).poison = false)) →
      WritesV (.vshfl h vd va vi sk rm) s (refOf s vd) (s.execMask h)
        (fun l => if !named (src l) then (val l).bits else if ex (src l) then 0 else (val (src l)).bits)
        (if (List.range 32).any fun l => bit (s.execMask h) l && named (src l) && ex (src l) then fMemberx else 0)) ∧
    (s.execMask h ≠ 0 → ∃ m : Mask, WritesS (.vvote h sd pa sk rm) s sd (m.setWidth 64) ∧
      ∀ l, l < 32 → bit m l = (named l && !ex l && bit (s.cur.arch.getP pa) l)) ∧
    (Held s (refOf s vd) → CleanLo s sa → WritesV (.vrank h vd sa sk rm) s (refOf s vd) (s.execMask h)
      (fun l => BitVec.ofNat 32 ((List.range l).countP fun j => bit (s.cur.arch.valS sa) j && named j)) 0)

/-- From R237 to R239, R443 to R446: the soft-maximum words, the row moments and the draws of a counter. -/
def Obligations.RowWords : Prop :=
  ∀ (s : State) (h : Hdr) (sd ss sm sc sk : BitVec 6) (pm : BitVec 4) (vd va : VOp) (rm : RMode),
    let a := s.cur.arch
    let x (l : Nat) : Lane := (a.getRef (refOf s va) l).bits
    let on (l : Nat) : Bool := bit (liveBy s sk) l
    let keep (l : Nat) : Bool := bit (a.getP pm) l
    let sum (f : Nat → Lane) : Lane × Flags := treeOf (redStep .add .f32) (namedBy s sk) a.exitedMask f 0
    let lo (r : BitVec 6) : Lane := (a.valS r).extractLsb' 0 32
    let hi (r : BitVec 6) : Lane := (a.valS r).extractLsb' 32 32
    (CrossReady s h sk → s.execMask h ≠ 0 → Held s (refOf s va) → CleanIn s (liveBy s sk) (refOf s va) →
      (CleanLo s sd →
        let t := treeOf (redStep .max .f32) (namedBy s sk) a.exitedMask (fun l => if keep l then x l else 0xFF800000) 0xFF800000
        let v := redStep .max .f32 (lo sd) t.1
        WritesSF (.vsmax h sd va pm sk rm) s sd (v.1.setWidth 64) (t.2 ||| v.2)) ∧
      (CleanS s sd →
        let y (l : Nat) : Lane := if on l && keep l then x l else 0
        let sq (l : Nat) : FRes := if on l && keep l then mul32 (y l).toNat (y l).toNat else ⟨0, 0⟩
        let t1 := sum y
        let t2 := sum fun l => BitVec.ofNat 32 (sq l).bits
        let v1 := redStep .add .f32 (lo sd) t1.1
        let v2 := redStep .add .f32 (hi sd) t2.1
        WritesSF (.vmoms h sd va pm sk rm) s sd (v2.1 ++ v1.1)
          (orFlags ((lanes (s.execMask h)).map fun l => (sq l).flags) ||| t1.2 ||| t2.2 ||| v1.2 ||| v2.2)) ∧
      (Held s (refOf s vd) → CleanLo s ss → CleanLo s sm →
        let e (l : Nat) : FRes := if on l then softExp (!keep l) (x l).toNat (lo sm).toNat else ⟨0, 0⟩
        let t := sum fun l => BitVec.ofNat 32 (e l).bits
        let v := redStep .add .f32 (lo ss) t.1
        ∃ u, exec (.vsexp h vd va ss sm sk pm) s = .next u ∧ ArchOnly s u ∧ Advanced s u ∧
          u.cur.arch.getS ss = (if ss = 0 then {} else ⟨v.1.setWidth 64, false, false⟩) ∧
          (∀ r, r ≠ ss → u.cur.arch.getS r = a.getS r) ∧
          (∀ r l, l < 32 → u.cur.arch.getRef r l = if r = refOf s vd ∧ bit (s.execMask h) l = true
            then ⟨BitVec.ofNat 32 (e l).bits, false⟩ else a.getRef r l) ∧
          u.cur.arch.flags = a.flags ||| (orFlags ((lanes (s.execMask h)).map fun l => (e l).flags) ||| t.2 ||| v.2) ∧
          u.cur.arch = { a with vregs := u.cur.arch.vregs, temps := u.cur.arch.temps, sregs := u.cur.arch.sregs,
                                flags := u.cur.arch.flags, pend := u.cur.arch.pend, retired := u.cur.arch.retired,
                                cands := u.cur.arch.cands })) ∧
    (VecReady s h vd [va] → CleanLo s ss →
      let rcp := fRcp (lo ss).toNat
      let r (l : Nat) : FRes × Bool := softDiv (!keep l) (x l).toNat (lo ss).toNat rcp.bits
      WritesV (.vsdiv h vd va ss pm rm) s (refOf s vd) (s.execMask h) (fun l => BitVec.ofNat 32 (r l).1.bits)
        (orFlags ((lanes (s.execMask h)).map fun l => (r l).1.flags)
          ||| (if (lanes (s.execMask h)).any fun l => (r l).2 then rcp.flags else 0)
          ||| (if s.execMask h ≠ 0 ∧ (lo ss) &&& 0x7FFFFFFF = 0 then fEmptyrow else 0))) ∧
    (VecReady s h vd [] → CleanS s sc → ∀ w : BitVec 2,
      let u (l : Nat) : Lane := hashWord s.cur.seed (a.valS sc + BitVec.ofNat 64 l) w.toNat
      WritesV (.vrng h .b32 w vd sc rm) s (refOf s vd) (s.execMask h) u 0 ∧
      WritesV (.vrng h .f32 w vd sc rm) s (refOf s vd) (s.execMask h) (fun l => BitVec.ofNat 32 (unitFloat (u l))) 0)

/-- From R231, R232, R235, R414, R432, R433: VLUT reads the current bank of the core's lookup table: an entry by bits 7:0, or the
interpolation. TBLLD takes its place among the core's TBLLDs, by stroke and then by port, and a READ range of 1,024 bytes in the Valve
table, and its 256 entries enter the queue, in S with their data read. When no word in flight holds the other bank and the data of the
oldest TBLLD has been read, on a stroke after its issue the switch writes that bank, makes it current and lets ld fall past it. -/
def Obligations.TableWords : Prop :=
  (∀ (s : State) (h : Hdr) (vd va : VOp) (rm : RMode), VecReady s h vd [va] →
     let x (l : Nat) : Nat := (s.cur.arch.getRef (refOf s va) l).bits.toNat
     let lut := (s.core s.curCore).lut
     let entry (i : Nat) : Elt := Store.get lut.elts ((if lut.cur then 256 else 0) + i)
     (∀ i, i < 256 → (entry i).poison = false) →
     WritesV (.vlut h .z32 vd va rm) s (refOf s vd) (s.execMask h) (fun l => (entry (x l % 256)).bits) 0 ∧
     let r (l : Nat) : FRes := lutInterp (fun i => (entry i).bits.toNat) (x l)
     WritesV (.vlut h .f32 vd va rm) s (refOf s vd) (s.execMask h) (fun l => BitVec.ofNat 32 (r l).bits)
       (orFlags ((lanes (s.execMask h)).map fun l => (r l).flags))) ∧
  ((∀ (s : State) (h : Hdr) (sp : Space) (sb : BitVec 6) (off : BitVec 16), s.inStream = false → Executes s h → MemReady s sb →
      sp = .g ∨ sp = .c ∨ (sp = .s ∧ s.cur.aq = []) →
      let a := addressOf s sb off
      rangeChecks s sp .load (tablePieces a) (alignFault sp .load 0 a 128) = none → s.valveFits [(sp, a)] = true →
      ∃ t y, exec (.tblld h sp sb off) s = .next t ∧ SameBytes s t ∧ y ∈ t.cur.aq ∧ y.kind = .tblld ∧ y.space = sp ∧
        y.seq = s.cur.seq ∧ y.done = false ∧ y.resolved = decide (sp ≠ .g) ∧ (sp = .s → y.read = true) ∧
        y.pieces.map (·.addr) = (List.range 256).map (fun i => a + BitVec.ofNat 64 (4 * i)) ∧ (∀ p ∈ y.pieces, p.n = 4) ∧
        (∃ l r, let w := (s.core s.curCore).strokes
          (s.core s.curCore).lut.queue = l ++ r ∧
          (t.core s.curCore).lut = { (s.core s.curCore).lut with queue := l ++ (s.curSlot, s.cur.seq, w) :: r } ∧
          (∀ q ∈ l, q.2.2 ≠ w ∨ q.1 % 4 ≤ s.curSlot % 4) ∧ ∀ q ∈ r.head?, q.2.2 = w ∧ s.curSlot % 4 < q.1 % 4) ∧
        (∀ v, s.valveAt sp a = some v → ∃ e ∈ (t.core v.1).valve, e.tenant = (s.part s.curPart).tenant ∧ e.space = v.2.1 ∧
          e.lo = v.2.2 ∧ e.hi = v.2.2 + 1024 ∧ e.write = false ∧ e.owner = groupKey s.curCore s.curSlot ∧ e.seq = s.cur.seq) ∧
        t.cur.arch = { s.cur.arch with retired := t.cur.arch.retired, cands := t.cur.arch.cands } ∧
        (s.det = false ∨ s.atLastWord = true → Advanced s t) ∧
        (s.det = true → s.atLastWord = false → s.curCand.has s.curLow = true → t.curCand.hold = .suspended)) ∧
   (∀ (s : State) (n slot seq : Nat) (w : Word) (rest : List (Nat × Nat × Word)) (x : Access), n < 384 →
      (s.core n).lut.queue = (slot, seq, w) :: rest → w ≠ (s.core n).strokes →
      (s.group n slot).aq = [x] → x.seq = seq → x.kind = .tblld → x.resolved = true → x.read = true → x.pieces.length = 256 →
      let old := (s.core n).lut
      (∀ w ∈ (s.core n).windows, w.bank ≠ some (!old.cur)) →
      (s.launch (s.team (s.group n slot).team).launch).info.det = false →
      ∃ t, exec (.tblldSwitch n) s = .next t ∧ (t.core n).lut.queue = rest ∧
        ((s.at_ n slot x.cand).dropsData = true → (t.core n).lut = { old with queue := rest }) ∧
        ((s.at_ n slot x.cand).dropsData = false → (t.core n).lut.cur = !old.cur ∧
          (∀ i p, x.pieces[i]? = some p →
            Store.get (t.core n).lut.elts ((if old.cur then 0 else 256) + i) = ⟨p.val.setWidth 32, p.poison⟩) ∧
          (∀ i, i < 256 → Store.get (t.core n).lut.elts ((if old.cur then 256 else 0) + i) =
            Store.get old.elts ((if old.cur then 256 else 0) + i))) ∧
        (t.group n slot).aq = [] ∧ (t.group n slot).arch = (s.group n slot).arch ∧ SameBytes s t))

/-- From R222 to R226, R228, R230, R235, R450, R452: lane code that no lane faults commits every executing lane: its result into vD, its
stack, pointer and flags, LFS 0; lanes that do not execute keep theirs. Each lane opcode does on a lane's stack what the table of R224
gives it, and a lane word that R223 refuses leaves its cause. XLSP and XLFS read a lane's pointer and its LFS; XCLR clears what its mask
names. The model's part: 0 / 0 and ∞ / ∞ of DIV and flags in corners of POWN, POLY and LUTI, the NaN of CHKFIN and a poisoned entry that
goes to vD are the model's choices, logs 17, 32, 104 and 105. -/
def Obligations.LaneCode : Prop :=
  (∀ (s : State) (h : Hdr) (k : BitVec 4) (vd vw : VOp) (f : Feeds), Plain s h → vd.isTemp = false → vw.isTemp = false →
     ∀ steps : Bool,
     let i : Instr := if steps then .xvn h k vd vw f else .xv h vd vw f
     let n : Nat := if steps then k.toNat + 1 else 1
     let a := s.cur.arch
     let m := s.execMask h &&& s.curRun.resume.getD 0xFFFFFFFF
     let d := effReg a vd
     let r (l : Nat) : LaneRun := s.runLane f (effReg a vw) n l
     d < s.cur.allot → effReg a vw + n ≤ s.cur.allot → (∀ q ∈ feedRegs a f, q < s.cur.allot) →
     (∀ j, j < n → CleanIn s m (.reg (effReg a vw + j))) →
     (∀ l, l < 32 → bit m l = true → (r l).fault = none ∧ (r l).bad = none) →
     ∃ t, exec i s = .next t ∧ ArchOnly s t ∧ Advanced s t ∧
       (∀ l, l < 32 → bit m l = true → t.cur.arch.getV d l = (if (r l).sp = 0 then {} else (r l).entry 0) ∧
         t.cur.arch.getLfs l = 0 ∧ Store.get t.cur.arch.sps l = BitVec.ofNat 4 (r l).sp) ∧
       (∀ l, l < 32 → bit m l = false → t.cur.arch.getLfs l = a.getLfs l ∧ t.cur.arch.getSp l = a.getSp l ∧
         (∀ j, j < 8 → t.cur.arch.getStk l j = a.getStk l j)) ∧
       (∀ q l, l < 32 → (q ≠ .reg d ∨ bit m l = false) → t.cur.arch.getRef q l = a.getRef q l) ∧
       t.cur.arch.flags = a.flags ||| orFlags ((lanes m).map fun l => (r l).flags) ∧
       t.cur.arch = { a with vregs := t.cur.arch.vregs, stk := t.cur.arch.stk, sps := t.cur.arch.sps, lfs := t.cur.arch.lfs,
                             flags := t.cur.arch.flags, pend := t.cur.arch.pend, retired := t.cur.arch.retired,
                             cands := t.cur.arch.cands }) ∧
  (∀ (s : State) (h : Hdr), Plain s h →
     (∀ vd : VOp, vd.isTemp = false → Held s (refOf s vd) →
       WritesV (.xlsp h vd) s (refOf s vd) (s.execMask h) (fun l => BitVec.ofNat 32 (s.cur.arch.getSp l)) 0 ∧
       WritesV (.xlfs h vd) s (refOf s vd) (s.execMask h) (fun l => (s.cur.arch.getLfs l).setWidth 32) 0) ∧
     ∀ what : BitVec 2, what ≠ 0 → ∃ t, exec (.xclr h what) s = .next t ∧ ArchOnly s t ∧ Advanced s t ∧
       (∀ l, l < 32 → t.cur.arch.getLfs l = if bit (s.execMask h) l && bit what 0 then 0 else s.cur.arch.getLfs l) ∧
       (∀ l, l < 32 → t.cur.arch.getSp l = if bit (s.execMask h) l && bit what 1 then 0 else s.cur.arch.getSp l) ∧
       t.cur.arch = { s.cur.arch with sps := t.cur.arch.sps, lfs := t.cur.arch.lfs, retired := t.cur.arch.retired,
                                      cands := t.cur.arch.cands }) ∧
  ∀ (x : LaneIn) (r : LaneRun) (step : Nat) (w : Lane), r.fault = none → r.bad = none → r.slots.length = 8 → r.sp ≤ 8 →
    let op : Nat := (w.extractLsb' 24 8).toNat
    let selA : Nat := (w.extractLsb' 16 8).toNat
    let selB : Nat := (w.extractLsb' 8 8).toNat
    let pop : Nat := (w.extractLsb' 6 2).toNat
    let imm : Int := (w.extractLsb' 0 6).toInt
    let after : LaneRun := laneStep x r step w
    let fp (n : Int) : Lane := BitVec.ofNat 32 (fFromInt true .rne (BitVec.ofInt 32 n)).bits
    let entry (i : Nat) : Elt := r.slots.getD (r.sp - 1 - i) {}
    let clean (i : Nat) : Prop := i < r.sp ∧ (entry i).poison = false
    let legal (k : Nat) : Prop := k < 0x08 ∨ (0x10 ≤ k ∧ k < 0x14) ∨ (0x20 ≤ k ∧ k < 0x28) ∨ k = 0x30 ∨ k = 0x31
    let operand (k : Nat) (v : Lane) : Prop :=
      (k < 0x08 ∧ k < r.sp ∧ entry k = ⟨v, false⟩) ∨ (0x10 ≤ k ∧ k < 0x14 ∧ (x.feeds.getD (k - 0x10) (0, {})).2 = ⟨v, false⟩) ∨
      (0x20 ≤ k ∧ k < 0x28 ∧ x.consts.getD (k - 0x20) {} = ⟨v, false⟩) ∨ (k = 0x30 ∧ v = fp imm) ∨ (k = 0x31 ∧ v = fp x.lane)
    let pushes (code : Nat) (v : Lane) (fl : Flags) : Prop := op = code → pop ≤ r.sp → r.sp - pop < 8 →
      after = { r with slots := r.slots.set (r.sp - pop) ⟨v, false⟩, sp := r.sp - pop + 1, flags := r.flags ||| fl }
    let bits (code : Nat) (v : Lane) : Prop := pushes code v 0
    let gives (code : Nat) (f : FRes) : Prop := pushes code (BitVec.ofNat 32 f.bits) f.flags
    let moves (code : Nat) (sl : List Elt) (p : Nat) : Prop := op = code → pop ≤ r.sp → after = { r with slots := sl, sp := p }
    let stops (cause : Nat) : Prop := after = { r with fault := some (cause, step) }
    let T (i : Nat) : Elt := x.core.table false i
    let truth (c : Cond) (a b : Lane) : FRes := ⟨if fCompare fmtF32 c (f32 a) (f32 b) then 0x3F800000 else 0, compareFlags fmtF32 (f32 a) (f32 b)⟩
    moves 0x00 r.slots (r.sp - pop) ∧ (op = 0x07 → after = { r with sp := 0 }) ∧ bits 0x5F (fp r.sp) ∧
    (clean 0 → clean 1 → moves 0x02 ((r.slots.set (r.sp - 1) (entry 1)).set (r.sp - 2) (entry 0)) (r.sp - pop) ∧
      (clean 2 → moves 0x03 (((r.slots.set (r.sp - 1) (entry 2)).set (r.sp - 2) (entry 0)).set (r.sp - 3) (entry 1)) (r.sp - pop))) ∧
    (∀ a : Lane, operand selA a →
      (∀ k, k < 8 → clean k → moves (0x08 + k) (r.slots.set (r.sp - 1 - k) ⟨a, false⟩) (r.sp - pop)) ∧
      bits 0x01 a ∧ bits 0x04 (a ^^^ 0x80000000) ∧ bits 0x05 (a &&& 0x7FFFFFFF) ∧
      gives 0x18 (fRint .rne (f32 a)) ∧ gives 0x19 (fRint .rdn (f32 a)) ∧ gives 0x1A (fRint .rup (f32 a)) ∧ gives 0x1B (fRint .rz (f32 a)) ∧
      (let fl := fRint .rdn (f32 a)
       let d := fSub fmtF32 .rne (f32 a) fl.bits
       gives 0x1C ⟨d.bits, fl.flags ||| d.flags⟩) ∧
      gives 0x1D (fMul fmtF32 .rne (f32 a) (f32 a)) ∧ gives 0x1E (fMul fmtF32 .rne (f32 a) ((127 + imm).toNat * 2 ^ 23)) ∧
      gives 0x20 (fExp2 (f32 a)) ∧ gives 0x21 (fExp (f32 a)) ∧ gives 0x22 (fLog (f32 a)) ∧ gives 0x23 (fRcp (f32 a)) ∧
      gives 0x24 (fRsq (f32 a)) ∧ gives 0x25 (fSqrt (f32 a)) ∧ gives 0x26 (fAct .relu (f32 a)) ∧ gives 0x27 (fAct .sigm (f32 a)) ∧
      gives 0x28 (fAct .tanh (f32 a)) ∧ gives 0x29 (fAct .silu (f32 a)) ∧ gives 0x2A (fAct .gelu (f32 a)) ∧
      gives 0x2B (fAct .softplus (f32 a)) ∧
      ((a &&& 0x7FFFFFFF) = 0 → bits 0x36 a) ∧
      (0 < (a &&& 0x7FFFFFFF).toNat → (a &&& 0x7FFFFFFF).toNat ≤ 0x7F800000 → bits 0x36 (0x3F800000 ||| (a &&& 0x80000000))) ∧
      (∀ neg m e (n : Nat), unpack fmtF32 (f32 a) = .fin neg m e → 2 ^ n ≤ m → m < 2 ^ (n + 1) → bits 0x5B (fp ((n : Int) + e))) ∧
      ((a &&& 0x7FFFFFFF) = 0 → pushes 0x5B 0xFF800000 fDz) ∧
      (let i := lutIndex (f32 a)
       ((T i).poison = false → bits 0x38 (T i).bits) ∧
       (x.privd = true → (x.core.table true i).poison = false → bits 0xF0 (x.core.table true i).bits)) ∧
      ((∀ i, (T i).poison = false) → gives 0x39 (lutInterp (fun i => (T i).bits.toNat) (f32 a))) ∧
      gives 0x3E (fFromInt true .rne a) ∧ pushes 0x3F (fToInt true .rne (f32 a)).1 (fToInt true .rne (f32 a)).2 ∧
      (let sig := sigFlag [unpack fmtF32 (f32 a)]
       pushes 0x40 0x3F800000 sig ∧
       ∀ k, k < 8 → gives (0x40 + k) (fPown k (f32 a) 0x3F800000 sig) ∧
        ((∀ j, j ≤ k → (x.consts.getD j {}).poison = false) →
          gives (0x48 + k) (fPoly ((List.range k).reverse.map fun j => (x.consts.getD j {}).bits.toNat) (f32 a)
          (x.consts.getD k {}).bits.toNat sig))) ∧
      gives 0x59 (fRnd fmtB16 (f32 a)) ∧ gives 0x5A (fRnd fmtH16 (f32 a)) ∧ bits 0x5D (fp (fClass (f32 a))) ∧
      pushes 0x5E a (if a &&& 0x7F800000 = 0x7F800000 then fInv else 0)) ∧
    (∀ a b : Lane, operand selA a → operand selB b →
      bits 0x06 ((a &&& 0x7FFFFFFF) ||| (b &&& 0x80000000)) ∧ gives 0x10 (fAdd fmtF32 .rne (f32 a) (f32 b)) ∧
      gives 0x11 (fSub fmtF32 .rne (f32 a) (f32 b)) ∧ gives 0x12 (fMul fmtF32 .rne (f32 a) (f32 b)) ∧
      gives 0x14 (fMin fmtF32 (f32 a) (f32 b)) ∧ gives 0x15 (fMax fmtF32 (f32 a) (f32 b)) ∧ gives 0x16 (fDiv fmtF32 .rne (f32 a) (f32 b)) ∧
      gives 0x2C (fGate .sigm (f32 a) (f32 b)) ∧ gives 0x2D (fGate .tanh (f32 a) (f32 b)) ∧ gives 0x2E (fGate .silu (f32 a) (f32 b)) ∧
      gives 0x2F (fGate .gelu (f32 a) (f32 b)) ∧ gives 0x30 (truth .eq a b) ∧ gives 0x31 (truth .lt a b) ∧ gives 0x32 (truth .le a b) ∧
      gives 0x33 (truth .un a b) ∧ gives 0x37 (truth .ge a b) ∧
      bits 0x3A (a &&& b) ∧ bits 0x3B (a ||| b) ∧ bits 0x3C (a ^^^ b) ∧ bits 0x3D (a &&& ~~~b) ∧ bits 0x50 (a + b) ∧ bits 0x51 (a - b) ∧
      bits 0x52 (a * b) ∧ bits 0x53 (BitVec.ofInt 32 (min a.toInt b.toInt)) ∧ bits 0x54 (BitVec.ofInt 32 (max a.toInt b.toInt)) ∧
      bits 0x55 (if a.toInt < b.toInt then 1 else 0) ∧ bits 0x56 (a <<< (b.toNat % 32)) ∧ bits 0x57 (a >>> (b.toNat % 32)) ∧
      bits 0x58 (a.sshiftRight (b.toNat % 32)) ∧ bits 0x5C (BitVec.ofNat 32 (unitFloat (hashWord x.seed (b ++ a) 0))) ∧
      (clean 0 →
        let e := (entry 0).bits
        let neg : Nat := f32 (a ^^^ 0x80000000)
        let hi := fMax fmtF32 (f32 a) (f32 b)
        let lo := fMin fmtF32 hi.bits (f32 e)
        gives 0x13 (fFma fmtF32 .rne (f32 a) (f32 b) (f32 e)) ∧ gives 0x17 (fFma fmtF32 .rne neg (f32 b) (f32 e)) ∧
        gives 0x1F ⟨lo.bits, hi.flags ||| lo.flags⟩ ∧ bits 0x34 (if e &&& 0x7FFFFFFF = 0 then b else a) ∧
        bits 0x35 (if 0 < e.toNat ∧ e.toNat ≤ 0x7F800000 then a else b))) ∧
    (0xF0 ≤ op → x.privd = false → stops 2) ∧
    (0x60 ≤ op → op < 0xF0 → stops 1) ∧ (0xF1 ≤ op → x.privd = true → stops 1) ∧
    (op = 0x01 ∨ (0x08 ≤ op ∧ op < 0x18) → ¬ legal selA → stops 1) ∧ (0x10 ≤ op ∧ op < 0x18 → ¬ legal selB → stops 1) ∧
    (op = 0x01 → legal selA → (selA < 8 ∧ r.sp ≤ selA) ∨ r.sp < pop → stops 3) ∧ (op = 0x02 → r.sp < 2 → stops 3) ∧
    (op = 0x03 → r.sp < 3 → stops 3) ∧ (op = 0x01 → legal selA → r.sp = 8 → pop = 0 → stops 4)

/-! Traps. -/

/-- From R41, R241, R244, R247, R295, R313, R348, R417: TRAP, BRK and an encoding the map does not assign have no effect of their own: the
group enters its handler with the word's address in EPC and the layouts of R241 in ECAUSE and EINFO. A word with GUARD 0 and GNEG 1 raises
UNDEF with the instruction word, whatever else it is. -/
def Obligations.SoftwareTrapsEnterTheHandler : Prop :=
  (∀ (s : State), TakesTraps s → Resolved s →
     (∀ (h : Hdr) (imm : BitVec 20), badGuard h = false → s.execMask h ≠ 0 →
       ∃ u, exec (.trap h imm) s = .next u ∧ EntersHandler s { cause := .swtrap, einfo := imm.setWidth 64 } u) ∧
     (∀ h : Hdr, badGuard h = false → s.execMask h ≠ 0 →
       ∃ (u : State) (e : BitVec 8), exec (.brk h) s = .next u ∧ EntersHandler s { cause := .brkpt, einfo := e.setWidth 64 } u ∧
         ∀ sl, sl < 8 → bit e sl = decide (sliceBits (s.execMask h) sl ≠ 0)) ∧
     ∀ w : Word, ∃ u, exec (.unassignedEncoding w) s = .next u ∧
       EntersHandler s { cause := if (w.extractLsb' 58 6).toNat < 0x30 then .undef else .undefmaj, einfo := w } u) ∧
  (∀ (s : State) (i : Instr) (w : Word), encode i = some w → decode w = .ok i → (∀ c es, i ≠ .runend c es) →
     badGuard (hdrOf w) = true → Resolved s → s.inStream = false →
     Traps i s { cause := .undef, einfo := s.curWord })

/-- From R43, R242, R246, R254, R274: with TBASE 0 a cause of route H other than VALVE ends the team with TRAP; in a handler it ends it
with DOUBLE; in a command stream it stops the stream. MEMXLATE and MEMPERM that an engine command delivers are of route H; those of a word
are of route S with MEMH 0, and with MEMH 1 where TBASE is 0. A cause of route S outside a handler leaves its registers in EPC, ECAUSE and
EINFO, and every resident team of the cluster begins to be saved, unless decision 2 discards it. The model's part: VALVE without a handler
is read in log 69. -/
def Obligations.TrapsWithoutAHandler : Prop :=
  (∀ (s : State) (t : Trap), t.cause ≠ .fetch → (t.cause = .memxlate ∨ t.cause = .memperm → t.engine = true) →
     let u := takeTrap s t
     (s.inStream = false → s.curTeam.ending = none →
       let code := ecauseOf t s.privd
       (s.cur.handler = none → s.curLaunch.info.tbase = 0 → t.cause ≠ .valve →
         (u.team s.cur.team).ending = some (.trap, code, s.pc.setWidth 64, t.einfo) ∧ u.cur.handler = none) ∧
       (s.cur.handler = none → s.curLaunch.info.tbase = 0 → t.cause = .valve →
         u.cur = { s.cur with arch := s.cur.arch.setCand s.curLow (waitForEntry t) }) ∧
       (s.cur.handler ≠ none → (u.team s.cur.team).ending = some (.double, code, s.pc.setWidth 64, t.einfo))) ∧
     (∀ k, s.agent = .stream k → (s.stream k).state ≠ 0 →
       (u.stream k).state = 3 ∧ (u.stream k).cause = BitVec.ofNat 8 t.cause.code ∧ (u.stream k).grp.einfo = t.einfo ∧
       (u.stream k).grp.epc = s.pc.setWidth 64)) ∧
  (∀ (s : State) (t : Trap), s.inStream = false → s.curTeam.ending = none → s.cur.handler = none →
     (t.cause = .fetch ∨ ((t.cause = .memxlate ∨ t.cause = .memperm) ∧ t.engine = false ∧
       (bit s.cur.trapen 16 = false ∨ s.curLaunch.info.tbase = 0))) →
     (s.cluster s.curTeam.cluster).decision ≠ some 2 → s.cur.team ∈ (s.cluster s.curTeam.cluster).teams →
     s.curTeam.st = .resident →
     let u := takeTrap s t
     (u.team s.cur.team).st = .saving ∧ u.cur.handler = none ∧
     u.cur.epc = s.pc.setWidth 64 ∧ u.cur.ecause = ecauseOf t s.privd ∧ u.cur.einfo = t.einfo ∧
     ∀ k ∈ (s.cluster s.curTeam.cluster).teams, (s.team k).st = .resident → (u.team k).st = .saving)

/-- From R241, R245, R253, R265, R311, R416, R418: TRET with the depths of the handler's entry leaves handler mode, at the interrupted run
or at the new EPC, where what the run given up was to export stays pending, as does what the handler's own run was to export; a run that
PREEMPT was taken before starts anew. With other depths the team ends with TRETBAD; outside a handler TRET raises UNDEF. TFENCE issues
when no flag that TRAPEN enables is set, and else raises ARITH with those flags. The model's part: the ending of TRETBAD, with ECAUSE, EPC
and EINFO as they stand, is read in log 76. -/
def Obligations.TretAndTfence : Prop :=
  (∀ (s : State) (h : Hdr), s.inStream = false → plainGuard h = true → Resolved s →
     (s.cur.handler = none → Traps (.tret h) s { cause := .undef, einfo := s.curWord }) ∧
     (∀ v, s.cur.handler = some v → s.curCand.slices &&& v.slices ≠ 0 → sameDepths s.cur.arch v s.curCand.slices = false →
       s.curTeam.ending = none →
       ∃ t, exec (.tret h) s = .next t ∧
         (t.team s.cur.team).ending = some (.tretbad, s.cur.ecause, s.cur.epc, s.cur.einfo)) ∧
     ∀ v, s.cur.handler = some v → s.curCand.slices &&& v.slices ≠ 0 → sameDepths s.cur.arch v s.curCand.slices = true →
     ∃ t, exec (.tret h) s = .next t ∧ SameBytes s t ∧ t.cur.handler = none ∧ t.curCand.hold = .none ∧
       (∀ r, v.run = some r → v.started = true → s.cur.epc = v.epc →
         t.curCand.run = some { r with
           pos := if v.cause = .brkpt ∨ v.cause = .swtrap ∨ v.cause = .arith then r.pos + 1 else r.pos,
           resume := if v.cause = .brkpt ∨ v.cause = .swtrap ∨ v.cause = .arith then none
             else if v.cause = .lanefault then some (v.execs &&& s.cur.einfo.setWidth 32) else r.resume } ∧
         t.curCand.started = true ∧
         ∀ sl, sl < 8 → bit s.curCand.slices sl = true → (t.slice sl).pc = r.start ∧ (t.slice sl).active = (s.slice sl).active) ∧
       (s.cur.epc ≠ v.epc ∨ (v.started = false ∧ v.cause = .preempt) → t.curCand.run = none ∧ t.curCand.started = false ∧
         t.curCand.settled = false ∧ ∀ sl, sl < 8 → bit s.curCand.slices sl = true → (t.slice sl).pc = s.cur.epc.setWidth 57) ∧
       (∀ r, (v.run = some r ∧ s.cur.epc ≠ v.epc) ∨ r = s.curRun → ∀ e ∈ s.exportedBy r, e ∈ t.cur.arch.exports) ∧
       t.cur.arch.sregs = s.cur.arch.sregs ∧ t.cur.arch.vregs = s.cur.arch.vregs ∧ t.cur.arch.preds = s.cur.arch.preds ∧
       t.cur.arch.xregs = s.cur.arch.xregs ∧ t.cur.arch.flags = s.cur.arch.flags) ∧
  (∀ (s : State) (h : Hdr), s.inStream = false → Executes s h →
     let f := s.cur.arch.flags &&& s.cur.trapen.setWidth 10
     (f = 0 → Idle (.tfence h) s) ∧
     (f ≠ 0 → Resolved s → Traps (.tfence h) s { cause := .arith, einfo := f.setWidth 64 }))

/-! Control flow. -/

/-- From R53 to R56, R63, R74, R346 to R350: BRA and BRX send the executing lanes of each slice to the target, CALL with a return address;
a slice whose lanes part pushes one divergence entry. A target or join outside the code space raises PCWRAP with the address it would
have, and JOIN 0 where a slice would part raises UNDEF. The model's part: JOIN 0 where a slice would part and PCWRAP of a return address
are read in logs 33 and 96. -/
def Obligations.BranchesMoveSlices : Prop :=
  (∀ (s : State) (h : Hdr), badGuard h = false → Inside s →
     let at_ (v : Int) : Addr := BitVec.ofInt 57 v
     (∀ (off : BitVec 26) (join : BitVec 16), StackRoom s h false →
       InCode ((s.pc.toNat : Int) + 8 * off.toInt) → InCode ((s.pc.toNat : Int) + 8 * join.toInt) →
       (join ≠ 0 ∨ ∀ sl, sl < 8 → bit s.curCand.slices sl = true → takenBy s h sl = 0 ∨ takenBy s h sl = (s.slice sl).active) →
       Moves (.bra h off join) s fun sl => branched (takenBy s h sl) (at_ ((s.pc.toNat : Int) + 8 * off.toInt))
         (at_ ((s.pc.toNat : Int) + 8 * join.toInt)) none) ∧
     (∀ (sr : BitVec 6) (join : BitVec 16), StackRoom s h false → CleanS s sr → (s.cur.arch.valS sr).extractLsb' 0 3 = 0 →
       (s.cur.arch.valS sr).extractLsb' 57 7 = 0 → InCode ((s.pc.toNat : Int) + 8 * join.toInt) →
       (join ≠ 0 ∨ ∀ sl, sl < 8 → bit s.curCand.slices sl = true → takenBy s h sl = 0 ∨ takenBy s h sl = (s.slice sl).active) →
       Moves (.brx h sr join) s fun sl => branched (takenBy s h sl) ((s.cur.arch.valS sr).setWidth 57)
         (at_ ((s.pc.toNat : Int) + 8 * join.toInt)) none) ∧
     (∀ off : BitVec 26, StackRoom s h true → InCode ((s.pc.toNat : Int) + 8 * off.toInt) → InCode ((s.pc.toNat : Int) + 16) →
       Moves (.call h off) s fun sl => branched (takenBy s h sl) (at_ ((s.pc.toNat : Int) + 8 * off.toInt))
         (at_ ((s.pc.toNat : Int) + 16)) (some (at_ ((s.pc.toNat : Int) + 16))))) ∧
  (∀ (s : State) (h : Hdr) (off : BitVec 26) (join : BitVec 16) (sr : BitVec 6), badGuard h = false → s.execMask h ≠ 0 → Resolved s →
     let v := (s.pc.toNat : Int) + 8 * off.toInt
     let j := (s.pc.toNat : Int) + 8 * join.toInt
     let wraps (a : Int) : Trap := { cause := .pcwrap, einfo := (BitVec.ofInt 57 a : Addr).setWidth 64 }
     let r := s.cur.arch.valS sr
     (join ≠ 0 → ¬ InCode v → Traps (.bra h off join) s (wraps v)) ∧
     (InCode v → ¬ InCode j → Traps (.bra h off join) s (wraps j)) ∧
     (join ≠ 0 → CleanS s sr → r.extractLsb' 0 3 = 0 →
       (r.extractLsb' 57 7 ≠ 0 → Traps (.brx h sr join) s { cause := .pcwrap, einfo := (r.setWidth 57).setWidth 64 }) ∧
       (r.extractLsb' 57 7 = 0 → ¬ InCode j → Traps (.brx h sr join) s (wraps j))) ∧
     (¬ InCode v → Traps (.call h off) s (wraps v)) ∧
     (InCode v → ¬ InCode ((s.pc.toNat : Int) + 16) → Traps (.call h off) s (wraps ((s.pc.toNat : Int) + 16))) ∧
     (∀ sl, sl < 8 → bit s.curCand.slices sl = true → takenBy s h sl ≠ 0 → takenBy s h sl ≠ (s.slice sl).active →
       Traps (.bra h off 0) s { cause := .undef, einfo := s.curWord }))

/-- From R33, R57, R64, R65, R73, R274, R353, R390: RET sends the executing lanes of a slice to the return address on top of its stack;
one that empties the hardware stack reads the newest spilled entry back, and takes the fault of that read. A slice whose stack and spill
area are empty has its lanes exit at a RET, as at END; a RET that would divide a slice raises UNDEF. END exits them, and when no lane of
the group is left the group is DONE, or the stream is idle. The model's part: that a RET waits for the links of what it reads back is read
in log 98. -/
def Obligations.ReturnAndEnd : Prop :=
  (∀ (s : State) (h : Hdr), badGuard h = false → Inside s →
     (∀ sl, sl < 8 → bit s.curCand.slices sl = true → takenBy s h sl ≠ 0 →
       takenBy s h sl = (s.slice sl).active ∧ ∃ a r, (s.slice sl).ret = a :: r ∧ (r ≠ [] ∨ (s.slice sl).retSpill = 0)) →
     Moves (.ret h) s fun sl v => if takenBy s h sl = 0 then v
       else { v with pc := (v.ret.head?).getD 0, moved := true, ret := v.ret.tail }) ∧
  (∀ (s : State) (h : Hdr) (sl : Nat) (a : Addr), badGuard h = false → Inside s → Resolved s → s.curCand.slices = onehot 8 sl → sl < 8 →
     takenBy s h sl ≠ 0 → takenBy s h sl = (s.slice sl).active → (s.slice sl).ret = [a] → (s.slice sl).retSpill ≠ 0 →
     let place := s.retSpillAt sl ((s.slice sl).retSpill - 1)
     s.stackOpen .load place 8 = true →
     (∀ u bs, s.spillRead place 8 = .ok (u, bs) → ∃ t, exec (.ret h) s = .next t ∧ SameBytes s t ∧ Advanced s t ∧
       t.slice sl = { s.slice sl with pc := a, moved := true, ret := [], retIn := some ((ofBytes 64 bs : Word).setWidth 57) } ∧
       (∀ j, j ≠ sl → t.slice j = s.slice j) ∧ t.cur.arch.sregs = s.cur.arch.sregs ∧ t.cur.arch.vregs = s.cur.arch.vregs) ∧
     ∀ e, s.spillRead place 8 = .error e → Traps (.ret h) s e) ∧
  (∀ (s : State) (h : Hdr), badGuard h = false → Inside s → s.inStream = false → Resolved s →
     let f (sl : Nat) (v : Slice) : Slice :=
       { v with exited := v.exited ||| takenBy s h sl, active := v.active &&& ~~~(takenBy s h sl) }
     let g (sl : Nat) : Slice := if bit s.curCand.slices sl then f sl (s.slice sl) else s.slice sl
     ∃ t, exec (.end_ h) s = .next t ∧ (∀ sl, sl < 8 → t.slice sl = g sl) ∧
       t.cur.arch.sregs = s.cur.arch.sregs ∧ t.cur.arch.vregs = s.cur.arch.vregs ∧ t.cur.arch.preds = s.cur.arch.preds ∧
       t.cur.arch.flags = s.cur.arch.flags ∧
       ((∃ sl, sl < 8 ∧ (g sl).exited ≠ 0xF) → t.cur.st = s.cur.st ∧ SameBytes s t) ∧
       ((∀ sl, sl < 8 → (g sl).exited = 0xF) → t.cur.st = .done ∧ t.cur.handler = none)) ∧
  (∀ (s : State) (h : Hdr), badGuard h = false → Inside s → Resolved s →
     let empty (sl : Nat) : Prop := (s.slice sl).ret = [] ∧ (s.slice sl).retSpill = 0
     let g (sl : Nat) : Slice :=
       let v := s.slice sl
       if bit s.curCand.slices sl = false ∨ takenBy s h sl = 0 then v
       else if empty sl then { v with exited := v.exited ||| takenBy s h sl, active := 0 }
       else { v with pc := (v.ret.head?).getD 0, moved := true, ret := v.ret.tail }
     ((∃ sl, sl < 8 ∧ bit s.curCand.slices sl = true ∧ takenBy s h sl ≠ 0 ∧ takenBy s h sl ≠ (s.slice sl).active) →
       Traps (.ret h) s { cause := .undef, einfo := s.curWord }) ∧
     (s.inStream = false → (∃ sl, sl < 8 ∧ bit s.curCand.slices sl = true ∧ takenBy s h sl ≠ 0 ∧ empty sl) →
       (∀ sl, sl < 8 → bit s.curCand.slices sl = true → takenBy s h sl ≠ 0 → takenBy s h sl = (s.slice sl).active ∧
         (empty sl ∨ ∃ a r, (s.slice sl).ret = a :: r ∧ (r ≠ [] ∨ (s.slice sl).retSpill = 0))) →
       ∃ t, exec (.ret h) s = .next t ∧ (∀ sl, sl < 8 → t.slice sl = g sl) ∧
         t.cur.arch.sregs = s.cur.arch.sregs ∧ t.cur.arch.vregs = s.cur.arch.vregs ∧ t.cur.arch.preds = s.cur.arch.preds ∧
         t.cur.arch.flags = s.cur.arch.flags ∧
         ((∃ sl, sl < 8 ∧ (g sl).exited ≠ 0xF) → t.cur.st = s.cur.st ∧ SameBytes s t) ∧
         ((∀ sl, sl < 8 → (g sl).exited = 0xF) → t.cur.st = .done ∧ t.cur.handler = none)) ∧
     ∀ k, s.agent = .stream k → s.execMask h ≠ 0 → s.curCand.slices = 1 → takenBy s h 0 = (s.slice 0).active → takenBy s h 0 ≠ 0 →
       ∀ i, i = .end_ h ∨ (i = .ret h ∧ empty 0) →
       ∃ t, exec i s = .next t ∧ SameBytes s t ∧ (t.stream k).state = 0 ∧ (t.stream k).hold = .none ∧ t.groups = s.groups ∧
         t.cur.arch.sregs = s.cur.arch.sregs)

/-- From R13, R66, R67, R74, R363 to R365: LOOP opens one entry in every slice with an active lane, or skips a body of count 0; one that
would open a ninth, or whose count is above the maximum, raises LOOPMAX with its kind, its id and no trips; one whose body would start at
2^57, or whose end lies outside the code space, raises PCWRAP. LEXIT parks the executing lanes in the innermost loop, and raises UNDEF
where that is not the one it names. The model's part: LOOP opens entries in slices with an active lane, log 37, the test of an end address
is read in log 111, and which LOOPMAX comes first in log 138. -/
def Obligations.LoopWords : Prop :=
  ∀ (s : State) (h : Hdr), Inside s →
    let start : Addr := BitVec.ofInt 57 ((s.pc.toNat : Int) + 16)
    let opens (l : LoopEntry) (n : Nat) (v : Slice) : Slice :=
      if v.active = 0 then v
      else if n = 0 then { v with pc := l.stop, moved := true }
      else { v with pc := start, moved := true, loops := { l with depth := v.div.length + v.divSpill } :: v.loops }
    let body (n : Nat) : Prop := n = 0 ∨ InCode ((s.pc.toNat : Int) + 16)
    let room (n : Nat) : Prop := n = 0 ∨ ∀ sl, sl < 8 → bit s.curCand.slices sl = true → (s.slice sl).active ≠ 0 →
      (s.slice sl).loops.length < 8
    (plainGuard h = true → ∀ (id : BitVec 6) (max : BitVec 16) (stop : BitVec 15), InCode ((s.pc.toNat : Int) + 8 * stop.toInt) →
      let end_ : Addr := BitVec.ofInt 57 ((s.pc.toNat : Int) + 8 * stop.toInt)
      (∀ cnt, CleanS s cnt → max ≠ 0 → (s.cur.arch.valS cnt).toNat ≤ max.toNat → body (s.cur.arch.valS cnt).toNat → room (s.cur.arch.valS cnt).toNat →
        Moves (.loopC h id cnt max stop) s fun _ => opens
          { id := id, counted := true, pk := 0, start := start, stop := end_, limit := (s.cur.arch.valS cnt).toNat, trips := 0,
            dormant := 0, depth := 0 } (s.cur.arch.valS cnt).toNat) ∧
      (∀ pk, max ≠ 0 → body max.toNat → room max.toNat →
        Moves (.loopW h id pk max stop) s fun _ => opens
          { id := id, counted := false, pk := pk, start := start, stop := end_, limit := max.toNat, trips := 0, dormant := 0,
            depth := 0 } max.toNat)) ∧
    (plainGuard h = true → Resolved s → ∀ (id : BitVec 6) (max : BitVec 16) (stop : BitVec 15),
      let end_ : Int := (s.pc.toNat : Int) + 8 * stop.toInt
      let wraps (i : Instr) (n : Nat) : Prop := room n →
        (¬ body n → Traps i s { cause := .pcwrap, einfo := 0 }) ∧
        (body n → ¬ InCode end_ → Traps i s { cause := .pcwrap, einfo := (BitVec.ofInt 57 end_ : Addr).setWidth 64 })
      (∀ cnt, CleanS s cnt → max ≠ 0 → (s.cur.arch.valS cnt).toNat ≤ max.toNat → wraps (.loopC h id cnt max stop) (s.cur.arch.valS cnt).toNat) ∧
      ∀ pk, max ≠ 0 → wraps (.loopW h id pk max stop) max.toNat) ∧
    (plainGuard h = true → Resolved s → ∀ (id : BitVec 6) (max : BitVec 16) (stop : BitVec 15), max ≠ 0 →
      let tooMany (kind : Nat) : Trap := { cause := .loopmax, einfo := BitVec.ofNat 64 (64 * kind + id.toNat) }
      (∀ cnt, CleanS s cnt →
        let n := (s.cur.arch.valS cnt).toNat
        (¬ room n → Traps (.loopC h id cnt max stop) s (tooMany 2)) ∧
        (room n → max.toNat < n → Traps (.loopC h id cnt max stop) s (tooMany 1))) ∧
      ∀ pk, ¬ room max.toNat → Traps (.loopW h id pk max stop) s (tooMany 2)) ∧
    (badGuard h = false → ∀ id : BitVec 6,
      (∀ sl, sl < 8 → bit s.curCand.slices sl = true → takenBy s h sl ≠ 0 → ∃ l r, (s.slice sl).loops = l :: r ∧ l.id = id) →
      Moves (.lexit h id) s fun sl v => if takenBy s h sl = 0 then v
        else { v with active := v.active &&& ~~~(takenBy s h sl),
                      loops := modNth v.loops 0 fun l => { l with dormant := l.dormant ||| takenBy s h sl } }) ∧
    (badGuard h = false → Resolved s → ∀ id : BitVec 6,
      (∃ sl, sl < 8 ∧ bit s.curCand.slices sl = true ∧ takenBy s h sl ≠ 0 ∧ ∀ l r, (s.slice sl).loops = l :: r → l.id ≠ id) →
      Traps (.lexit h id) s { cause := .undef, einfo := s.curWord })

/-- From R83, R351: CALLX issues and counts, asks for its linkage entry and holds its candidate; when the entry returns, with nothing
older in its way and the slots of its links open, the executing lanes go to the address it holds with a return address. The model's part:
that the entry is read once its links are open, and its walk over dead links, are read in logs 98 and 113. -/
def Obligations.LinkageCalls : Prop :=
  ∀ (s : State),
    (∀ (h : Hdr) (sr : BitVec 6), Executes s h → CleanS s sr → (s.cur.arch.valS sr).extractLsb' 57 7 = 0 →
      (s.cur.arch.valS sr).extractLsb' 0 3 = 0 → InCode ((s.pc.toNat : Int) + 16) → s.curCand.has s.curLow = true →
      ∃ t, exec (.callx h sr) s = .next t ∧ SameBytes s t ∧
        t.curCand.hold = .linkage (s.execMask h) s.cur.seq (s.cur.arch.valS sr) ∧ (∀ sl, t.slice sl = s.slice sl) ∧
        t.cur.arch = { s.cur.arch with cands := t.cur.arch.cands,
                                       retired := if s.uncounted then s.cur.arch.retired else s.cur.arch.retired + 1 }) ∧
    ∀ (n k : Nat) (c : Cand) (m : Mask) (q : Nat) (a : Word),
      let g := (s.at_ n k 0).cur
      let s1 := s.at_ n k ((bitsOf c.slices).headD 0)
      let s2 := (s1.modCand fun d => { d with hold := .none }).uncountWord
      g.arch.cands.find? (fun d => match d.hold with | .linkage _ _ _ => true | _ => false) = some c →
      c.hold = .linkage m q a → g.unresolved = false → g.aq = [] → Inside s2 → s2.linkageOpen a = true →
      ∀ t, translate s2 s2.curCore s2.curPart s2.privd .load a.toNat = .ok t → valveFault s2 .g .load 0 a 8 = none →
      let r := ((s2.countWalk s2.curCore s2.curPart a.toNat).cacheXlate s2.curCore t.2.2).readAt .g t.2.1 .dev t.1 8
      let v : Word := ofBytes 64 r.2.1
      r.2.2 = false → v.extractLsb' 0 3 = 0 → v.extractLsb' 57 7 = 0 →
      (∀ sl, sl < 8 → bit s2.curCand.slices sl = true → sliceBits m sl &&& (s2.slice sl).active = 0 ∨
        (sliceBits m sl &&& (s2.slice sl).active = (s2.slice sl).active ∧ (s2.slice sl).ret.length < 8)) →
      ∃ u, exec (.linkageReturn n k) s = .next u ∧ u.cur.arch.retired = s1.cur.arch.retired ∧
        ∀ sl, sl < 8 → bit s2.curCand.slices sl = true → sliceBits m sl &&& (s2.slice sl).active ≠ 0 →
          (u.slice sl).pc = v.setWidth 57 ∧
          (u.slice sl).ret = BitVec.ofInt 57 ((s2.pc.toNat : Int) + 16) :: (s2.slice sl).ret

/-- From R74, R241, R305, R310, R311, R392: a trailer ends its run: every slice of the candidate whose counter no word has set goes to the
word after it, the temporaries of the candidate's lanes are gone, and the candidate has no run. Where such a slice with an active lane
would go to 2^57, PCWRAP is raised at the last word before the trailer. -/
def Obligations.TrailerEndsTheRun : Prop :=
  (∀ (s : State) (cls : BitVec 2) (es : List Export), TakesTraps s → Resolved s → s.curRun.trailerAddr + 8 = 0 → s.curRun.words ≠ [] →
    (∃ sl, sl < 8 ∧ bit s.curCand.slices sl = true ∧ (s.slice sl).active ≠ 0 ∧ (s.slice sl).moved = false) →
    ∃ u, exec (.runend cls es) s = .next u ∧ SameBytes s u ∧ u.cur.epc = (s.curRun.trailerAddr - 8).setWidth 64 ∧ u.cur.einfo = 0 ∧
      u.cur.ecause = BitVec.ofNat 64 Cause.pcwrap.code ∧ ∃ v, u.cur.handler = some v ∧ v.cause = .pcwrap) ∧
  ∀ (s : State) (cls : BitVec 2) (es : List Export), s.curCand.has s.curLow = true →
    (s.curRun.trailerAddr + 8 ≠ 0 ∨
      ∀ sl, sl < 8 → bit s.curCand.slices sl = true → (s.slice sl).active = 0 ∨ (s.slice sl).moved = true) →
    ∃ t, exec (.runend cls es) s = .next t ∧ SameBytes s t ∧ t.curCand.run = none ∧ t.curCand.started = false ∧
      (∀ sl, sl < 8 → t.slice sl = if bit s.curCand.slices sl then
          { s.slice sl with pc := if (s.slice sl).moved then (s.slice sl).pc else s.curRun.trailerAddr + 8, moved := false }
        else s.slice sl) ∧
      (∀ k l, l < 32 → t.cur.arch.getT k l = if bit s.curCand.slices (l / 4) then {} else s.cur.arch.getT k l) ∧
      t.cur.arch.sregs = s.cur.arch.sregs ∧ t.cur.arch.vregs = s.cur.arch.vregs ∧ t.cur.arch.preds = s.cur.arch.preds ∧
      t.cur.arch.xregs = s.cur.arch.xregs ∧ t.cur.arch.flags = s.cur.arch.flags ∧ t.cur.arch.retired = s.cur.arch.retired

/-- From R61, R62, R151, R153, R206, R263, R368, R380, R389, R447, R448, R455: NOP, MERGE and a REGANG whose slices are all there only
issue; one whose slices are not waits at its word; YIELD notes that its run's end is a switch point. A wait whose counters are within its
limits, with no report due, issues and changes no register; one whose counters are not waits on its port. The model's part: a REGANG whose
slices are all there does not take up those held at it, log 102. -/
def Obligations.SteeringAndWaitWords : Prop :=
  (∀ (s : State) (h : Hdr), Inside s →
     (badGuard h = false → Idle (.nop h) s) ∧
     (s.inStream = false → plainGuard h = true → ∀ mask : BitVec 8,
       Idle (.merge h mask) s ∧
       (mask &&& s.cur.arch.liveSlices &&& ~~~s.curCand.slices = 0 → Idle (.regang h mask) s) ∧
       (mask &&& s.cur.arch.liveSlices &&& ~~~s.curCand.slices ≠ 0 → s.curCand.has s.curLow = true →
         ∃ t, exec (.regang h mask) s = .next t ∧ SameBytes s t ∧ t.curCand.hold = .regang mask ∧
           t.cur.arch = { s.cur.arch with cands := t.cur.arch.cands }) ∧
       (s.curCand.has s.curLow = true → ∃ t, exec (.yield h) s = .next t ∧ ArchOnly s t ∧ t.curCand.yielding = true ∧
         t.cur.arch = { s.cur.arch with retired := t.cur.arch.retired, cands := t.cur.arch.cands }))) ∧
  (∀ (s : State) (h : Hdr), s.inStream = false → Inside s → (s.det = false ∨ s.curCand.switched = true) →
     let passes (i : Instr) : Prop := ∃ t, exec i s = .next t ∧ OthersKept s t ∧ SameBytes s t ∧ Advanced s t ∧
       t.cur = { s.cur with arch := t.cur.arch, ring := t.cur.ring } ∧
       t.cur.arch = { s.cur.arch with retired := t.cur.arch.retired, cands := t.cur.arch.cands }
     (plainGuard h = true → ∀ ld st cp sg mx : BitVec 8, s.cur.reports = [] →
       let under := s.count .ld ≤ ld.toNat ∧ s.count .st ≤ st.toNat ∧ s.count .cp ≤ cp.toNat ∧ s.count .sg ≤ sg.toNat ∧
         s.count .mx ≤ mx.toNat
       (under → passes (.wait h ld st cp sg mx)) ∧ (¬ under → exec (.wait h ld st cp sg mx) s = .next s.hold1)) ∧
     (plainGuard h = true → ∀ (path : Path) (sk : BitVec 6), s.cur.reports = [] → CleanS s sk →
       let under := s.count path ≤ min (s.cur.arch.valS sk).toNat 255
       (under → passes (.waitp h path sk)) ∧ (¬ under → exec (.waitp h path sk) s = .next s.hold1)) ∧
     (badGuard h = false → Whole s → s.execMask h ≠ 0 → ∀ (sk : BitVec 6) (x : Nat), s.leased = some x → CleanS s sk →
       s.cur.reports = [] →
       ((∀ b ∈ (s.ctx s.curCore x).batches, b.num ≠ (s.cur.arch.valS sk).setWidth 32) → passes (.mwait h sk)) ∧
       ((∃ b ∈ (s.ctx s.curCore x).batches, b.num = (s.cur.arch.valS sk).setWidth 32) →
         exec (.mwait h sk) s = .next s.hold1)))

/-! Special registers. -/

/-- From R19, R81, R82, R84, R87, R230, R247, R252, R261, R405, R406: SRD reads the register into sD; LANEID gives each executing lane its
number. The model's part: SRD of LANEID checks its destination, log 47, and PASSES reads as in effect on the port, log 107. -/
def Obligations.SpecialRegisterReads : Prop :=
  ∀ (s : State) (h : Hdr),
    (s.inStream = false → Executes s h → ∀ d : BitVec 6,
      let g := s.cur
      let r := s.curLaunch.info
      let reads (spr : Spr) (v : Word) : Prop := WritesS (.srd h (.scal d) spr) s d v
      let n (k : Nat) : Word := BitVec.ofNat 64 k
      reads .groupid (n (g.index + 32 * ((r.threads + 31) / 32))) ∧
      reads (.teamid 0) (n s.curTeam.x) ∧ reads (.teamid 1) (n s.curTeam.y) ∧ reads (.teamid 2) (n s.curTeam.z) ∧
      reads .clusterid (if r.cw = 0 then 0x11000 else n (s.curTeam.rank + 16 * (s.curTeam.rank % r.cw)
        + 256 * (s.curTeam.rank / r.cw) + 4096 * r.cw + 65536 * r.ch)) ∧
      reads .gridid (s.curLaunch.seq.setWidth 64) ∧
      reads .coreid (n (s.curCore % 12 + 16 * (s.curCore % 96 / 12) + 128 * (s.curCore / 96) + 512 * s.curSlot)) ∧
      reads .strokes (if s.det then g.arch.retired else (s.core s.curCore).strokes) ∧
      reads .elapsed (if s.det then g.arch.retired else (s.core s.curCore).elapsed) ∧
      reads .retired g.arch.retired ∧
      reads .walltime (if s.det then s.curLaunch.time else s.time.wall) ∧
      reads .flags (g.arch.flags.setWidth 64) ∧ reads .trapen (g.trapen.setWidth 64) ∧
      reads .passes (n ((s.core s.curCore).port (s.curSlot % 4)).passes) ∧
      reads .preq (match (s.cluster s.curTeam.cluster).decision with
        | some k => n (2 * k + 1)
        | none => 0) ∧
      reads .pdeadline ((s.cluster s.curTeam.cluster).pdeadline.setWidth 64) ∧
      (∃ m : Mask, reads .lfs (m.setWidth 64) ∧ ∀ l, l < 32 → bit m l = decide (g.arch.getLfs l ≠ 0)) ∧
      (∃ m : Mask, reads .lsp (m.setWidth 64) ∧ ∀ l, l < 32 → bit m l = decide (g.arch.getSp l ≠ 0)) ∧
      reads .epc g.epc ∧ reads .ecause g.ecause ∧ reads .einfo g.einfo ∧ reads .allot (n g.allot) ∧
      reads .spbase (n (4096 * s.curTeam.spGranule)) ∧ reads .spsize (n (4096 * r.spGranules)) ∧
      reads .detmode (if s.det then 1 else 0) ∧ reads .tenant ((s.part s.curPart).tenant.setWidth 64) ∧ reads .rngseed g.seed) ∧
    (s.inStream = true → Executes s h → ∀ d : BitVec 6, WritesS (.srd h (.scal d) .walltime) s d s.time.wall) ∧
    ∀ vd : VOp, VecReady s h vd [] →
      WritesV (.srd h (.vec vd) .laneid) s (refOf s vd) (s.execMask h) (fun l => BitVec.ofNat 32 l) 0

/-- From R112, R247, R261, R381, R411, R412: OVTLD in privileged mode replaces the overflow table; SWR writes FLAGS, TRAPEN and RNGSEED in
any mode, EPC, ECAUSE and EINFO in a handler, and lowers PDEADLINE in privileged mode; it writes nothing else. A write that its mode may
not make raises PRIV with the instruction word. -/
def Obligations.SpecialRegisterWrites : Prop :=
  (∀ (s : State) (h : Hdr) (sa : BitVec 6), s.inStream = false → Executes s h → CleanS s sa →
     let v := s.cur.arch.valS sa
     let sets (r : Spr) (g : Group) : Prop := ∃ t, exec (.swr h sa r) s = .next t ∧ OthersKept s t ∧ SameBytes s t ∧
       t.cur = { g with arch := { g.arch with retired := t.cur.arch.retired, cands := t.cur.arch.cands } }
     (v.extractLsb' 10 54 = 0 → sets .flags { s.cur with arch := { s.cur.arch with flags := v.setWidth 10 } }) ∧
     (Resolved s →
       (v &&& 0xFFFFFFFFFFFCFC00 = 0 → sets .trapen { s.cur with trapen := v.setWidth 18 }) ∧
       sets .rngseed { s.cur with seed := v } ∧
       (s.cur.handler ≠ none → (v &&& 0xFE00000000000007 = 0 → sets .epc { s.cur with epc := v }) ∧
         sets .ecause { s.cur with ecause := v } ∧ sets .einfo { s.cur with einfo := v }) ∧
       (s.privd = true → v.extractLsb' 32 32 = 0 → ∃ t, exec (.swr h sa .pdeadline) s = .next t ∧ SameBytes s t ∧
         (t.cluster s.curTeam.cluster).pdeadline.toNat =
           min (v.toNat) (s.cluster s.curTeam.cluster).pdeadline.toNat ∧ t.cur = s.retire.cur) ∧
       (s.privd = true → v.extractLsb' 6 58 = 0 → v.extractLsb' 0 2 ≠ 3 → v.extractLsb' 2 2 ≠ 3 → v.extractLsb' 4 2 = 0 →
         ∃ t, exec (.ovtld h sa) s = .next t ∧ OthersKept s t ∧ SameBytes s t ∧
           t.cur = { s.cur with ovt := v.setWidth 6, arch := { s.cur.arch with retired := t.cur.arch.retired,
                                                                               cands := t.cur.arch.cands } }))) ∧
  (∀ (s : State) (h : Hdr) (sa : BitVec 6), s.inStream = false → Executes s h → Resolved s →
     let t : Trap := { cause := .priv, einfo := s.curWord }
     (s.cur.handler = none → Traps (.swr h sa .ecause) s t ∧ Traps (.swr h sa .einfo) s t ∧
       (s.cur.arch.valS sa &&& 0xFE00000000000007 = 0 → Traps (.swr h sa .epc) s t)) ∧
     (s.privd = false → Traps (.ovtld h sa) s t ∧
       ((s.cur.arch.valS sa).extractLsb' 32 32 = 0 → Traps (.swr h sa .pdeadline) s t)))

/-! Memory words. -/

/-- From R127, R167, R170, R186, R306, R401, R408, R428, R429: outside S a load or store that passes its checks at issue enters the queue
with its locations: one for a scalar word, one for each executing lane of a vector word. It changes no register and no byte of memory. A
scalar store holds its port while a load has still to write the register that it stores. The model's part: that a word keeps no order
where its scope holds nothing to synchronise with is read in log 99, and which stores wait in log 128. -/
def Obligations.LoadsAndStoresQueue : Prop :=
  ∀ (s : State) (h : Hdr) (ty : Ty) (m : MemF), m.space ≠ .s → MemReady s m.sb →
    let n : Nat := match ty with
      | .pi8 => 1
      | .b16 | .h16 => 2
      | .s64 | .z64 => 8
      | _ => 4
    let acc (k : AccKind) (d : Dst) (ps : List Piece) : Access :=
      { kind := k, ty := ty, space := m.space, order := m.order, scope := m.scope, dst := d, pieces := ps }
    (Executes s h → ∀ (r : BitVec 6) (off : BitVec 16),
      let a := addressOf s m.sb off
      (issueChecks s m.space .load [{ addr := a, n := n }] (alignFault m.space .load 0 a n) = none →
        Enqueues (.sld h ty m r off) s (acc .load (.scal r.toNat) [{ addr := a, n := n }]) 0) ∧
      (issueChecks s m.space .store [{ addr := a, n := n, val := s.cur.arch.valS r }] (alignFault m.space .store 0 a n) = none →
        CleanS s r → s.cur.arch.awaits r = false →
        Enqueues (.sst h ty m r off) s (acc .store .none [{ addr := a, n := n, val := s.cur.arch.valS r }]) 0) ∧
      (∀ q, r ≠ 0 → (q, scalKey r.toNat) ∈ s.cur.arch.pend → exec (.sst h ty m r off) s = .next s.hold1)) ∧
    (Plain s h → ∀ (v vi : VOp) (rm : RMode) (off : BitVec 16) (offx : BitVec 8), Held s (refOf s v) →
      let ls := lanes (s.execMask h)
      let elt (l : Nat) : Elt := s.cur.arch.getRef (refOf s v) l
      let w : Nat := if ty = .b16 ∨ ty = .h16 then 2 else 4
      let dst : Dst := match refOf s v with
        | .reg k => .vec k
        | .temp k => .temp k
      let a (l : Nat) : Word := addressOf s m.sb off + BitVec.ofNat 64 (w * l)
      let ax (l : Nat) : Word := addressOf s m.sb offx + (s.cur.arch.getRef (refOf s vi) l).bits.setWidth 64
      let pl : List Piece := ls.map fun l => { lane := l, addr := a l, n := w }
      let ps : List Piece := ls.map fun l => { lane := l, addr := a l, n := w, val := (storeElt ty rm s.cur.ovt (elt l).bits).1 }
      let px : List Piece := ls.map fun l => { lane := l, addr := ax l, n := 4 }
      let pv : List Piece := ls.map fun l => { lane := l, addr := ax l, n := 4, val := (elt l).bits.setWidth 64 }
      (rangeChecks s m.space .load pl (alignBase m.space .load (addressOf s m.sb off) pl) = none →
        Enqueues (.vld h ty m v off) s (acc .load dst pl) 0) ∧
      (CleanIn s (s.execMask h) (refOf s v) →
        rangeChecks s m.space .store ps (alignBase m.space .store (addressOf s m.sb off) ps) = none →
        Enqueues (.vst h ty m v rm off) s (acc .store .none ps)
          (orFlags (ls.map fun l => (storeElt ty rm s.cur.ovt (elt l).bits).2))) ∧
      (Held s (refOf s vi) → CleanIn s (s.execMask h) (refOf s vi) → ty ≠ .b16 → ty ≠ .h16 →
        (rangeChecks s m.space .load px (piecesAlign m.space .load px 4) = none →
          Enqueues (.vgth h ty m v vi offx) s (acc .load dst px) 0) ∧
        (CleanIn s (s.execMask h) (refOf s v) → rangeChecks s m.space .store pv (piecesAlign m.space .store pv 4) = none →
          Enqueues (.vsct h ty m v vi offx) s (acc .store .none pv) 0)))

/-- From R129, R334 to R339: outside S an atomic enters the queue: one location for the scalar form, one for each executing lane of the
vector form, with its operands and the register that takes the old value; and the new value of each atomic, over integers of its width.
The model's part: that an atomic keeps no order where its scope holds nothing to synchronise with is read in log 99. -/
def Obligations.AtomicsQueue : Prop :=
  (∀ (s : State) (h : Hdr) (f : AtomF), f.space ≠ .s → MemReady s f.sb → (s.det = false ∨ f.scope = .group ∨ f.scope = .team) →
     let acc (k : AtomicOp) (d : Dst) (ps : List Piece) : Access :=
       { kind := .atomic k, ty := f.ty, space := f.space, order := f.order, scope := f.scope, dst := d, pieces := ps }
     let most (ok : Instr → AtomicOp → Prop) : Prop :=
       ok (.aadd h f) .add ∧ ok (.aand h f) .and ∧ ok (.aor h f) .or ∧ ok (.axor h f) .xor ∧ ok (.amax h f) .max ∧
       ok (.amin h f) .min ∧ ok (.axch h f) .xch
     (∀ sv sx, f.opnd = .scal sv sx → Executes s h → CleanS s sv →
       let n := memWidth f.ty
       let ps : List Piece := [{ addr := addressOf s f.sb f.off, n := n, val := s.cur.arch.valS sv, val2 := s.cur.arch.valS (sv + 1) }]
       let ok (i : Instr) (k : AtomicOp) : Prop := Enqueues i s (acc k (.scal sx.toNat) ps) 0
       issueChecks s f.space .atomic ps (piecesAlign f.space .atomic ps n) = none →
       most ok ∧ (CleanS s (sv + 1) → ok (.acas h f) .cas)) ∧
     (∀ vv vx, f.opnd = .vec vv vx → Plain s h → Held s (refOf s vx) → Held s (refOf s vv) →
       CleanIn s (s.execMask h) (refOf s vx) → CleanIn s (s.execMask h) (refOf s vv) →
       let next := nextRef (refOf s vv)
       let dst : Dst := match refOf s vx with
         | .reg k => .vec k
         | .temp k => .temp k
       let ps : List Piece := (lanes (s.execMask h)).map fun l =>
         { lane := l, addr := addressOf s f.sb f.off + (s.cur.arch.getRef (refOf s vx) l).bits.setWidth 64, n := 4,
           val := (s.cur.arch.getRef (refOf s vv) l).bits.setWidth 64, val2 := (s.cur.arch.getRef next l).bits.setWidth 64 }
       let ok (i : Instr) (k : AtomicOp) : Prop := Enqueues i s (acc k dst ps) 0
       issueChecks s f.space .atomic ps (piecesAlign f.space .atomic ps 4) = none →
       most ok ∧ (vv.isTemp = false → Held s next → CleanIn s (s.execMask h) next → ok (.acas h f) .cas))) ∧
  (∀ (ty : Ty) (w : Nat) (old v next : BitVec w), ty = .s32 ∨ ty = .z32 ∨ ty = .s64 ∨ ty = .z64 →
     let num (x : BitVec w) : Int := if ty = .s32 ∨ ty = .s64 then x.toInt else x.toNat
     let new (k : AtomicOp) : BitVec w := (atomicNew k ty old v next).1
     new .add = BitVec.ofNat w (old.toNat + v.toNat) ∧ new .and = old &&& v ∧ new .or = old ||| v ∧ new .xor = old ^^^ v ∧
     num (new .max) = max (num old) (num v) ∧ num (new .min) = min (num old) (num v) ∧ new .xch = v ∧
     new .cas = (if old = v then next else old) ∧ ∀ k, (atomicNew k ty old v next).2 = 0)

/-- From R133, R135 to R138, R170, R171, R250, R287, R334 to R339, R431: with nothing older in its queue a word of S is performed at
issue: a load fills its register, a store writes its bytes, an atomic returns the old value and stores the new one. Once the slots of the
links let the L1's dirty bytes pass, a release at CLUSTER scope or wider leaves none there, an acquire empties it; an sc word first asks
for its fence and holds its port. Each executing lane of VLDT loads, and of VSTT stores, the 4 bytes at its permuted tile offset, within
the run. The permutation keeps a byte in its row of 384, and mode 0 is the identity. The model's part: what holds a word of S is read in
log 30, and its wait for links in log 98. -/
def Obligations.ScratchpadWords : Prop :=
  (∀ (s : State) (h : Hdr) (ord : Order) (sc : Scope) (sb : BitVec 6), s.inStream = false → s.cur.aq = [] → CleanS s sb →
     (ord = .rlx ∨ s.scopeOpen sc = true) →
     let n0 := s.curCore
     let calm : Prop := ord = .rlx ∨ isWide sc = false ∨ (s.core n0).l1 = []
     let place (a : Word) : Nat := s.placeOf .s a
     let live (a : Word) : Prop := s.deadLink s.curPart (place a) = none
     let acts (i : Instr) (loads stores : Bool) (P : State → Prop) : Prop :=
       ((ord = .sc → s.curCand.fenced = true) → ∃ t, exec i s = .next t ∧ Advanced s t ∧ P t ∧
         (loads = true → isWide sc = true → ord = .acq ∨ ord = .ar ∨ ord = .sc → (t.core n0).l1 = []) ∧
         (stores = true → isWide sc = true → ord = .rel ∨ ord = .ar ∨ ord = .sc → ∀ e ∈ (t.core n0).l1, e.2.dirty = 0)) ∧
       (ord = .sc → s.curCand.fenced = false → ∃ t y, exec i s = .next t ∧ SameBytes s t ∧ t.cur.arch = s.cur.arch ∧ t.cur.aq = [y] ∧
         y.kind = .fence ∧ y.order = .sc ∧ y.scope = sc ∧ y.space = .s ∧ y.done = false)
     let sameRegs (t : State) : Prop := (∀ r l, t.cur.arch.getRef r l = s.cur.arch.getRef r l) ∧ t.cur.arch.sregs = s.cur.arch.sregs ∧
       t.cur.arch.preds = s.cur.arch.preds
     let m : MemF := { space := .s, order := ord, scope := sc, sb := sb }
     (Executes s h → ∀ (ty : Ty) (r : BitVec 6) (off : BitVec 16),
       let n := memWidth ty
       let a := addressOf s sb off
       live a →
       (issueChecks s .s .load [{ addr := a, n := n }] (alignFault .s .load 0 a n) = none →
         acts (.sld h ty m r off) true false fun t => (calm → SameBytes s t) ∧
           t.cur.arch.getS r = (if r = 0 then {} else
             let p := (s.homeRead (place a) n).2
             ⟨loadScalar ty ((List.range n).map fun i => s.byteAt (place a + i)), p, p⟩) ∧
           (∀ q, q ≠ r → t.cur.arch.getS q = s.cur.arch.getS q) ∧ t.cur.arch.vregs = s.cur.arch.vregs ∧
           t.cur.arch.preds = s.cur.arch.preds ∧ t.cur.arch.flags = s.cur.arch.flags) ∧
       (issueChecks s .s .store [{ addr := a, n := n, val := s.cur.arch.valS r }] (alignFault .s .store 0 a n) = none → CleanS s r → s.cur.arch.awaits r = false →
         acts (.sst h ty m r off) false true fun t => sameRegs t ∧ t.cur.arch.flags = s.cur.arch.flags ∧
           (∀ i, i < n → t.byteAt (place a + i) = (s.cur.arch.valS r).extractLsb' (8 * i) 8) ∧
           (calm → ∀ b, b < place a ∨ place a + n ≤ b → t.byteAt b = s.byteAt b))) ∧
     (Plain s h → ∀ (ty : Ty) (v vi : VOp) (rm : RMode) (off : BitVec 16) (offx : BitVec 8), Held s (refOf s v) →
       let k := s.execMask h
       let ls := lanes k
       let w : Nat := if ty = .b16 ∨ ty = .h16 then 2 else 4
       let elt (l : Nat) : Elt := s.cur.arch.getRef (refOf s v) l
       let at_ (l : Nat) : Word := addressOf s sb off + BitVec.ofNat 64 (w * l)
       let atx (l : Nat) : Word := addressOf s sb offx + (s.cur.arch.getRef (refOf s vi) l).bits.setWidth 64
       let ld (a : Nat → Word) (n : Nat) : List Piece := ls.map fun l => { lane := l, addr := a l, n := n }
       let st (a : Nat → Word) (n : Nat) (f : Nat → Word) : List Piece := ls.map fun l => { lane := l, addr := a l, n := n, val := f l }
       let loads (i : Instr) (n : Nat) (a : Nat → Word) : Prop := (∀ l ∈ ls, live (a l)) → acts i true false fun t =>
         let got (l : Nat) : Lane × Flags := loadLane ty (s.homeBytes (place (a l)) n)
         let bad (l : Nat) : Bool := (s.homeRead (place (a l)) n).2
         (calm → SameBytes s t) ∧
         (∀ r l, l < 32 → t.cur.arch.getRef r l = if r = refOf s v ∧ bit k l = true then ⟨(got l).1, bad l⟩
           else s.cur.arch.getRef r l) ∧
         t.cur.arch.flags = s.cur.arch.flags ||| orFlags (ls.map fun l => if bad l then 0 else (got l).2) ∧
         t.cur.arch.sregs = s.cur.arch.sregs ∧
         t.cur.arch.preds = s.cur.arch.preds
       let stores (i : Instr) (n : Nat) (a : Nat → Word) (f : Nat → Word × Flags) : Prop := CleanIn s k (refOf s v) →
         (∀ l ∈ ls, live (a l)) → disjoint (ld a n) = true → acts i false true fun t => sameRegs t ∧
           (∀ l ∈ ls, ∀ i, i < n → t.byteAt (place (a l) + i) = byteOf (f l).1 i) ∧
           (calm → ∀ b, (∀ l ∈ ls, b < place (a l) ∨ place (a l) + n ≤ b) → t.byteAt b = s.byteAt b) ∧
           t.cur.arch.flags = s.cur.arch.flags ||| orFlags (ls.map fun l => (f l).2)
       let half (l : Nat) : Word × Flags := storeElt ty rm s.cur.ovt (elt l).bits
       let word (l : Nat) : Word × Flags := ((elt l).bits.setWidth 64, 0)
       (rangeChecks s .s .load (ld at_ w) (alignBase .s .load (addressOf s sb off) (ld at_ w)) = none → loads (.vld h ty m v off) w at_) ∧
       (let ps := st at_ w fun l => (half l).1
        rangeChecks s .s .store ps (alignBase .s .store (addressOf s sb off) ps) = none → stores (.vst h ty m v rm off) w at_ half) ∧
       (Held s (refOf s vi) → CleanIn s k (refOf s vi) → ty ≠ .b16 → ty ≠ .h16 →
         (rangeChecks s .s .load (ld atx 4) (piecesAlign .s .load (ld atx 4) 4) = none → loads (.vgth h ty m v vi offx) 4 atx) ∧
         (let ps := st atx 4 fun l => (word l).1
          rangeChecks s .s .store ps (piecesAlign .s .store ps 4) = none → stores (.vsct h ty m v vi offx) 4 atx word))) ∧
     ∀ f : AtomF, f.space = .s → f.order = ord → f.scope = sc → f.sb = sb → (s.det = false ∨ sc = .group ∨ sc = .team) → calm →
       let ops : List (Instr × AtomicOp) := [(.aadd h f, .add), (.aand h f, .and), (.aor h f, .or), (.axor h f, .xor), (.amax h f, .max),
         (.amin h f, .min), (.axch h f, .xch), (.acas h f, .cas)]
       (∀ sv sx, f.opnd = .scal sv sx → Executes s h → CleanS s sv →
         let n := memWidth f.ty
         let a := addressOf s sb f.off
         let x := s.cur.arch.valS sv
         let y := s.cur.arch.valS (sv + 1)
         let ps : List Piece := [{ addr := a, n := n, val := x, val2 := y }]
         issueChecks s .s .atomic ps (piecesAlign .s .atomic ps n) = none → live a → n = 4 ∨ n = 8 →
         ∀ e ∈ ops, (e.2 = .cas → CleanS s (sv + 1)) → acts e.1 true true fun t =>
           let old := s.homeRead (place a) n
           let new := atomicStep e.2 f.ty n old.1 old.2 x y
           t.cur.arch.getS sx = (if sx = 0 then {} else ⟨loadScalar f.ty old.1, old.2, old.2⟩) ∧
           (∀ q, q ≠ sx → t.cur.arch.getS q = s.cur.arch.getS q) ∧ t.cur.arch.flags = s.cur.arch.flags ||| new.2.1 ∧
           (∀ i, i < n → t.byteAt (place a + i) = if new.2.2.1 then new.1.getD i 0 else s.byteAt (place a + i)) ∧
           ∀ b, b < place a ∨ place a + n ≤ b → t.byteAt b = s.byteAt b) ∧
       ∀ vv vx, f.opnd = .vec vv vx → Plain s h → Held s (refOf s vx) → Held s (refOf s vv) →
         CleanIn s (s.execMask h) (refOf s vx) → CleanIn s (s.execMask h) (refOf s vv) → f.ty ≠ .b16 → f.ty ≠ .h16 →
         let ls := lanes (s.execMask h)
         let next := nextRef (refOf s vv)
         let a (l : Nat) : Word := addressOf s sb f.off + (s.cur.arch.getRef (refOf s vx) l).bits.setWidth 64
         let x (l : Nat) : Word := (s.cur.arch.getRef (refOf s vv) l).bits.setWidth 64
         let y (l : Nat) : Word := (s.cur.arch.getRef next l).bits.setWidth 64
         let ps : List Piece := ls.map fun l => { lane := l, addr := a l, n := 4, val := x l, val2 := y l }
         issueChecks s .s .atomic ps (piecesAlign .s .atomic ps 4) = none → disjoint ps = true → (∀ l ∈ ls, live (a l)) →
         (ls.map fun l => poisonUnit (place (a l))).Nodup ∨ (∀ l ∈ ls, (s.homeRead (place (a l)) 4).2 = false) →
         ∀ e ∈ ops, (e.2 = .cas → vv.isTemp = false ∧ Held s next ∧ CleanIn s (s.execMask h) next) → acts e.1 true true fun t =>
           let old (l : Nat) := s.homeRead (place (a l)) 4
           let new (l : Nat) := atomicStep e.2 f.ty 4 (old l).1 (old l).2 (x l) (y l)
           (∀ r l, l < 32 → t.cur.arch.getRef r l = if r = refOf s vx ∧ bit (s.execMask h) l = true
             then ⟨ofBytes 32 (old l).1, (old l).2⟩ else s.cur.arch.getRef r l) ∧
           t.cur.arch.flags = s.cur.arch.flags ||| orFlags (ls.map fun l => (new l).2.1) ∧
           t.cur.arch.sregs = s.cur.arch.sregs ∧
           (∀ l ∈ ls, (new l).2.2.1 = true → ∀ i, i < 4 → t.byteAt (place (a l) + i) = (new l).1.getD i 0) ∧
           ∀ b, (∀ l ∈ ls, (new l).2.2.1 = true → b < place (a l) ∨ place (a l) + 4 ≤ b) → t.byteAt b = s.byteAt b) ∧
  (∀ (s : State) (h : Hdr) (ty : Ty) (v : VOp) (sk so : BitVec 6), Plain s h → Held s (refOf s v) → s.cur.aq = [] →
     ty ≠ .b16 → ty ≠ .h16 →
     let m := s.execMask h
     let t0 := layoutOf s.cur.arch sk
     let o := s.cur.arch.valS so
     let addr (l : Nat) : Word := BitVec.ofNat 64 (tileOffsets t0 o l).2
     let place (l : Nat) : Nat := s.placeOf .s (addr l)
     let ld : List Piece := (lanes m).map fun l => { lane := l, addr := addr l, n := 4 }
     let st : List Piece := (lanes m).map fun l =>
       { lane := l, addr := addr l, n := 4, val := (s.cur.arch.getRef (refOf s v) l).bits.setWidth 64 }
     (∀ l, bit m l = true → s.deadLink s.curPart (place l) = none) →
     (tileChecks s .load sk so m none none ld = none →
       ∃ t, exec (.vldt h ty v sk so) s = .next t ∧ SameBytes s t ∧ Advanced s t ∧
         (∀ r l, l < 32 → t.cur.arch.getRef r l = if r = refOf s v ∧ bit m l = true
           then ⟨ofBytes 32 (s.homeBytes (place l) 4), (s.homeRead (place l) 4).2⟩ else s.cur.arch.getRef r l) ∧
         t.cur.arch.sregs = s.cur.arch.sregs ∧ t.cur.arch.preds = s.cur.arch.preds ∧ t.cur.arch.flags = s.cur.arch.flags) ∧
     (CleanIn s m (refOf s v) → tileChecks s .store sk so m none none st = none →
       ∃ t, exec (.vstt h ty v sk so) s = .next t ∧ Advanced s t ∧
         (disjoint st = true → ∀ l i, bit m l = true → i < 4 →
           t.byteAt (place l + i) = byteOf (s.cur.arch.getRef (refOf s v) l).bits i) ∧
         (∀ b, (∀ l, bit m l = true → b < place l ∨ place l + 4 ≤ b) → t.byteAt b = s.byteAt b) ∧
         (∀ r l, t.cur.arch.getRef r l = s.cur.arch.getRef r l) ∧ t.cur.arch.sregs = s.cur.arch.sregs ∧
         t.cur.arch.preds = s.cur.arch.preds ∧ t.cur.arch.flags = s.cur.arch.flags) ∧
     ∀ l, (tileOffsets t0 o l).2 / 384 = (tileOffsets t0 o l).1 / 384 ∧
       (t0.mode = 0 → (tileOffsets t0 o l).2 = (tileOffsets t0 o l).1))

/-- From R170, R171, R287, R355, R360: a FENCE that older accesses hold, or for which the links of what it writes home are not open, and
every FENCE.sc, waits in the queue of its group or stream; a relaxed store beyond TEAM scope that the L1 can hold does not hold a narrower
one. A fence that nothing holds completes at once: a release beyond TEAM scope leaves no dirty byte in the L1, an acquire empties it.
ICINV is a release at DEVICE scope that then discards the text of its core. Behind a fence whose actions are still to complete no load, no
store and no atomic of the group is performed. The model's part: what a release writes home and that a fence settles at once are the
model's choices, logs 22 and 66, and so are its wait for links and the stores that a narrow fence lets rest, logs 98 and 99. -/
def Obligations.FenceWords : Prop :=
  ∀ (s : State) (h : Hdr) (ord : Order) (sc : Scope), Executes s h → QueueSettled s →
    (s.det = false ∨ sc = .group ∨ sc = .team) →
    let waits (i : Instr) (o : Order) (c : Scope) : Prop :=
      ∃ t y, exec i s = .next t ∧ OthersKept s t ∧ SameBytes s t ∧ Advanced s t ∧ y ∈ t.cur.aq ∧ y.kind = .fence ∧ y.order = o ∧
        y.scope = c ∧ y.done = false ∧ y.seq = s.cur.seq ∧ (∀ z ∈ s.cur.aq, z.done = false → z ∈ t.cur.aq) ∧
        t.cur = { s.cur with arch := t.cur.arch, aq := t.cur.aq, seq := s.cur.seq + 1 } ∧
        t.cur.arch = { s.cur.arch with retired := t.cur.arch.retired, cands := t.cur.arch.cands }
    let rests (x : Access) (c : Scope) : Prop := isWide c = false ∧ isWide x.scope = true ∧ x.space = .g ∧ x.releases = false ∧
      x.resolved = true ∧ ∀ p ∈ x.pieces, p.nc = false
    let held (o : Order) (c : Scope) : Prop := s.scopeOpen c = false ∨ ∃ x ∈ s.cur.aq, x.done = false ∧
      (x.kind = .fence ∨ x.isAtomic = true ∨ (o ≠ .acq ∧ x.kind = .store ∧ ¬ rests x c) ∨
        (o ≠ .rel ∧ x.kind = .load ∧ x.read = false))
    let clean (t : State) : Prop := ∀ e ∈ (t.core s.curCore).l1, e.2.dirty = 0
    (ord = .sc ∨ held ord sc → waits (.fence h ord sc) ord sc) ∧
    (ord ≠ .sc → s.cur.aq = [] → s.scopeOpen sc = true →
      ∃ t, exec (.fence h ord sc) s = .next t ∧ t.cur.aq = [] ∧
        t.cur.arch = { s.cur.arch with retired := t.cur.arch.retired, cands := t.cur.arch.cands } ∧
        (s.inStream = false → sc ≠ .group → sc ≠ .team → (ord ≠ .acq → clean t) ∧ (ord ≠ .rel → (t.core s.curCore).l1 = [])) ∧
        (s.inStream = true ∨ sc = .group ∨ sc = .team → SameBytes s t ∧ (t.core s.curCore).l1 = (s.core s.curCore).l1)) ∧
    (s.inStream = false →
      (held .rel .dev → waits (.icinv h) .rel .dev) ∧
      (s.cur.aq = [] → s.scopeOpen .dev = true → ∃ t, exec (.icinv h) s = .next t ∧ t.cur.aq = [] ∧ clean t ∧
        (∀ b ∈ (t.core s.curCore).text, b.keepers ≠ none) ∧
        ∀ k, k < 64 → ∀ c ∈ (t.group s.curCore k).arch.cands, c.started = false → c.run = none)) ∧
    (s.inStream = false → s.curCore < 384 → ∀ (i j : Nat) (f x : Access) (l : List Nat), s.cur.aq[i]? = some f → f.kind = .fence → f.done = false → i < j →
      s.cur.aq[j]? = some x → x.kind ≠ .fence → x.pieces.length ≠ 0 →
      exec (.loadReturn s.curCore s.curSlot j l) s = .next s ∧ ∀ p, exec (.storePerformed s.curCore s.curSlot j p) s = .next s)

/-- From R151, R155, R182, R250, R251, R287, R403, R429: the oldest access of a queue that has not passed its checks, once its walks may
be made, takes its places when it passes them; when it fails one, of translation, permission or the Valve, its word and everything younger
is undone and the trap is taken at that word. The data of a load whose turn it is arrives, once the slots of its links let it pass, in the
registers that still wait for it, and raises nothing when it is poisoned; for a team that is ended or discarded it is dropped. The model's
part: a checkpoint in place of the journal's entries that an access waits for its link and that a load's value is fixed as it arrives are
the model's choices, logs 27, 98 and 99. -/
def Obligations.AccessesResolveAndReturn : Prop :=
  (∀ (s : State) (n k idx : Nat) (x : Access),
     let s1 := s.at_ n k x.cand
     let g := s1.cur
     g.aq[idx]? = some x → x.resolved = false → x.done = false → (∀ y ∈ g.aq.take idx, y.resolved = true) →
     s1.piecesWalk x.pieces = true →
     (∀ s2 ps, resolvePieces s1 x x.acc x.pieces = .ok (s2, ps) → piecesValveAt s2 x.word x.space x.acc ps = none →
       readyFence (modNth g.aq idx fun y => { y with pieces := ps, resolved := true, ckpt := {} }) (fun y => s1.scopeOpen y.scope) = none →
       ∃ t, exec (.accessResolve n k idx) s = .next t ∧ SameBytes s t ∧ t.cur.arch = g.arch ∧
         { x with pieces := ps, resolved := true, ckpt := {} } ∈ t.cur.aq) ∧
     (∀ e, (resolvePieces s1 x x.acc x.pieces = .error e ∨ ∃ s2 ps, resolvePieces s1 x x.acc x.pieces = .ok (s2, ps) ∧
         piecesValveAt s2 x.word x.space x.acc ps = some e) → n < 384 → g.handler = none → (s.team g.team).ending = none →
       s1.curLaunch.info.tbase ≠ 0 →
       ∃ u, exec (.accessResolve n k idx) s = .next u ∧ SameBytes s u ∧ u.cur.epc = x.epc.setWidth 64 ∧ u.cur.einfo = e.einfo ∧
         u.cur.arch = { x.ckpt with temps := u.cur.arch.temps, slices := u.cur.arch.slices, cands := u.cur.arch.cands } ∧
         (∀ y ∈ u.cur.aq, y ∈ g.aq ∧ y.seq < x.word) ∧ ∀ c ∈ u.cur.cmds, c ∈ g.cmds ∧ c.seq < x.word)) ∧
  (∀ (s : State) (n k idx : Nat) (x : Access),
     let s1 := s.at_ n k x.cand
     let g := s1.cur
     g.aq[idx]? = some x → x.kind = .load → x.done = false → mayLoad g.aq idx x x.pieces = true →
     (∀ p ∈ x.pieces, p.done = false ∧ s1.deadLink s1.curPart p.place = none) → s1.entryTravels x x.pieces = true →
     (s1.dropsData = true → (∀ y ∈ g.aq, y.kind ≠ .fence) →
       ∃ t, exec (.loadReturn n k idx []) s = .next t ∧ t.cur.arch = g.arch ∧
         ((s.core n).l1 = [] ∨ (x.space ≠ .g ∧ x.acquires = false) → SameBytes s t)) ∧
     (∀ r p, s1.dropsData = false → x.dst = .scal r → 0 < r → r < 64 → x.pieces = [p] → (x.seq, scalKey r) ∈ g.arch.pend →
       let d := (s1.readAt x.space p.nc x.scope p.place p.n).2
       ∃ t, exec (.loadReturn n k idx []) s = .next t ∧
         t.cur.arch.getS (BitVec.ofNat 6 r) = ⟨loadScalar x.ty d.1, d.2, d.2⟩ ∧ (x.seq, scalKey r) ∉ t.cur.arch.pend ∧
         (∀ q, q ≠ BitVec.ofNat 6 r → t.cur.arch.getS q = g.arch.getS q) ∧ t.cur.arch.vregs = g.arch.vregs ∧
         t.cur.arch.temps = g.arch.temps ∧ t.cur.arch.preds = g.arch.preds ∧ t.cur.arch.flags = g.arch.flags) ∧
     (∀ r, s1.dropsData = false → x.dst = .vec r → x.space ≠ .g → x.space ≠ .w → x.pieces ≠ [] → (x.pieces.map (·.lane)).Nodup →
       (∀ p ∈ x.pieces, p.lane < 32 ∧ (x.seq, vecKey r p.lane) ∈ g.arch.pend) →
       let got (p : Piece) : Lane × Flags := loadLane x.ty (s.homeBytes p.place p.n)
       ∃ t, exec (.loadReturn n k idx []) s = .next t ∧
         (∀ p ∈ x.pieces, t.cur.arch.getV r p.lane = ⟨(got p).1, (s.homeRead p.place p.n).2⟩) ∧
         (∀ q l, l < 32 → (q ≠ r ∨ l ∉ x.pieces.map (·.lane)) → t.cur.arch.getV q l = g.arch.getV q l) ∧
         t.cur.arch.flags = g.arch.flags ||| orFlags (x.pieces.map fun p => if (s.homeRead p.place p.n).2 then 0 else (got p).2) ∧
         t.cur.arch.sregs = g.arch.sregs ∧ t.cur.arch.preds = g.arch.preds))

/-- From R139, R166, R169 to R171, R173, R287, R334: a store or an atomic whose turn it is is performed, as the slots of its links stand,
at its point of coherence: home beyond TEAM scope and outside G, the L1 within it, where a full L1 writes back a line that it drops; bytes
that a wider store has left in the L1 go home. An atomic returns the old value. The oldest FENCE.sc is granted once its halves can
complete, and then it completes. The model's part: free orders are those of log 7, that a granted fence leaves the queue at once is read
in log 66, that an access waits for its link and which stores a narrow fence lets rest are the model's choices, logs 98 and 99, and which
line a full L1 drops is free, log 129. -/
def Obligations.StoresArePerformed : Prop :=
  ∀ (s : State) (n k idx j : Nat) (x : Access) (p : Piece),
    let s1 := s.at_ n k x.cand
    let g := s1.cur
    g.aq[idx]? = some x →
    (x.pieces[j]? = some p → p.done = false → x.space ≠ .w → s1.deadLink s1.curPart p.place = none → s1.entryTravels x [p] = true →
      (∀ q ∈ x.pieces.take j, q.done = true) → mayStore g.aq idx x [p] = true → (∀ y ∈ g.aq, y.kind ≠ .fence) →
      (x.kind = .store → p.inL1 = true → x.releases = false → n < 384 → ((s.core n).l1.map (·.1)).Nodup →
        let mine (a : Nat) : Prop := p.place ≤ a ∧ a < p.place + p.n
        ∃ t, exec (.storePerformed n k idx j) s = .next t ∧ t.cur.arch = g.arch ∧
          (∀ e ∈ (s.core n).l1, mine e.1 → e.2.dirty ≠ 0 → s.deadFrom (n / 96) (s.partOfCore n) e.1 = none →
            t.byteAt e.1 = e.2.val) ∧ ∀ b, ¬ mine b → t.byteAt b = s.byteAt b) ∧
      (p.inL1 = false → (x.releases = true → ∀ y ∈ g.aq.take idx, y.done = true ∨ y.stores = false) →
      let home : Prop := s1.usesL1 x.space p.nc = false ∨ (isWide x.scope = true ∧ (s1.core n).l1 = [])
      (x.kind = .store →
        (home → (x.releases = true → (s1.core s1.curCore).l1 = []) →
          ∃ t, exec (.storePerformed n k idx j) s = .next t ∧ t.cur.arch = g.arch ∧
            (∀ i, i < p.n → t.byteAt (p.place + i) = byteOf p.val i) ∧
            ∀ b, b < p.place ∨ p.place + p.n ≤ b → t.byteAt b = s.byteAt b) ∧
        (s1.usesL1 x.space p.nc = true → isWide x.scope = false →
          ∃ t, exec (.storePerformed n k idx j) s = .next t ∧ t.cur.arch = g.arch ∧
            ((s.core n).l1Lines.length < 1024 ∨ lineOf p.place ∈ (s.core n).l1Lines → SameBytes s t) ∧
            (∀ b, t.byteAt b ≠ s.byteAt b → ∃ e ∈ (s.core n).l1, e.1 = b ∧ e.2.dirty ≠ 0 ∧ lineOf b ≠ lineOf p.place ∧ t.byteAt b = e.2.val) ∧
            ∀ i, i < p.n → ∃ d, assoc (t.core n).l1 (p.place + i) = some ⟨byteOf p.val i, d⟩ ∧ (k < 64 → bit d k = true))) ∧
      (∀ op r, x.kind = .atomic op → home → (s1.core s1.curCore).l1 = [] → p.n = 4 ∨ p.n = 8 → x.dst = .scal r → 0 < r → r < 64 →
        (x.seq, scalKey r) ∈ g.arch.pend → x.pieces = [p] →
        let old := s.homeRead p.place p.n
        let new := atomicStep op x.ty p.n old.1 old.2 p.val p.val2
        ∃ t, exec (.storePerformed n k idx j) s = .next t ∧
          t.cur.arch.getS (BitVec.ofNat 6 r) = ⟨loadScalar x.ty old.1, old.2, old.2⟩ ∧
          (∀ q, q ≠ BitVec.ofNat 6 r → t.cur.arch.getS q = g.arch.getS q) ∧
          t.cur.arch.flags = g.arch.flags ||| new.2.1 ∧
          (∀ i, i < p.n → t.byteAt (p.place + i) = if new.2.2.1 then new.1.getD i 0 else s.byteAt (p.place + i)) ∧
          ∀ b, b < p.place ∨ p.place + p.n ≤ b → t.byteAt b = s.byteAt b))) ∧
    (x.kind = .fence → x.order = .sc → x.done = false → x.granted = false →
      (∀ y ∈ g.aq.take idx, y.kind = .fence → y.order = .sc → y.done = true ∨ y.granted = true) →
      (fenceRel g.aq idx x.scope = false ∨ fenceAcq g.aq idx = false → exec (.scFenceGrant n k) s = .next s) ∧
      (fenceRel g.aq idx x.scope = true → fenceAcq g.aq idx = true → (s.at_ n k 0).scopeOpen x.scope = true → (g.aq.map (·.seq)).Nodup →
        ∃ t, exec (.scFenceGrant n k) s = .next t ∧ ∀ y ∈ t.cur.aq, y.seq = x.seq → y.done = true) ∧
      (idx = 0 → (s.at_ n k 0).scopeOpen x.scope = true → (∀ y ∈ g.aq.drop 1, y.seq ≠ x.seq) →
        ∃ t, exec (.scFenceGrant n k) s = .next t ∧ (∀ y ∈ t.cur.aq, y.seq ≠ x.seq) ∧
          (x.space = .s → (g.arch.cand x.cand).has x.cand = true → (t.cur.arch.cand x.cand).fenced = true) ∧
          (isWide x.scope = true → n < 384 → (t.core n).l1 = [])))

/-- From R139, R166, R169, R287: what a core writes at a point of coherence is what it then reads there, and the write-back of dirty
bytes, once their links let them pass, puts them home and changes nothing that its core reads. The model's part: the mark of a unit of
which a part is written is read in log 20, and that a write-back waits for its links in log 98. -/
def Obligations.CoherentReads : Prop :=
  ∀ (s : State) (sp : Space) (nc : Bool) (sc : Scope) (place : Nat) (bs : List Byte) (poison : Bool),
    sp ≠ .w → s.deadLink s.curPart place = none → ((s.core s.curCore).l1.map (·.1)).Pairwise (· < ·) →
    (let t := s.writeAt sp nc sc place bs poison
     (t.readAt sp nc sc place bs.length).2.1 = bs ∧
     (bs ≠ [] → (t.readAt sp nc sc place bs.length).2.2 = poison)) ∧
    (∀ (n line : Nat) (evict : Bool) (a : Nat) (b : L1Byte),
      (s.core n).l1.find? (fun e => e.1 == a) = some (a, b) → ((s.core n).l1.map (·.1)).Nodup → b.dirty ≠ 0 → lineOf a = line →
      s.deadFrom (n / 96) (s.partOfCore n) a = none → s.flushOpen n (fun c _ => lineOf c == line) = true →
      (∀ k, k < 64 → ∀ x ∈ (s.group n k).aq, x.isFence = false) →
      ∃ t, exec (.l1DirtyWriteback n line evict) s = .next t ∧ t.byteAt a = b.val ∧
        (evict = true → ∀ e ∈ (t.core n).l1, lineOf e.1 ≠ line) ∧
        (evict = false → assoc (t.core n).l1 a = some { b with dirty := 0 }) ∧
        (∀ c, lineOf c ≠ line → t.byteAt c = s.byteAt c ∧ assoc (t.core n).l1 c = assoc (s.core n).l1 c) ∧
        t.groups = s.groups)

/-! Barriers. -/

/-- From R174, R342 to R345, R352: an arrival is entered in the barrier, with its release half where the scope asks for one; BAR and CBAR
then hold their candidate, BARW while its own arrival stands. A second arrival raises UNDEF, a word whose guard is false does nothing, and
a candidate that lacks a slice waits at the word. The model's part: a barrier word with a false guard is read in log 39, and the wait of
an acquire for links in log 98. -/
def Obligations.BarrierWords : Prop :=
  ∀ (s : State) (h : Hdr) (sc : Scope) (b : BitVec 4) (cb : BitVec 2), s.inStream = false → badGuard h = false → Inside s →
    (s.det = false ∨ sc = .group ∨ sc = .team) → s.curCand.has s.curLow = true →
    let j := s.cur.index
    let tm := s.cur.team
    let bar (t : State) (i : Nat) : Barrier := Store.get (t.team tm).barriers i
    let cbr (t : State) (i : Nat) : Barrier := Store.get (t.cluster s.curTeam.cluster).barriers i
    let same (t : State) : Prop := t.cur.arch = { s.cur.arch with retired := t.cur.arch.retired, cands := t.cur.arch.cands }
    let arrived (t : State) (c : Scope) : Prop := same t ∧ (∀ i, i ≠ b.toNat → bar t i = bar s i) ∧
      bar t b.toNat = { bar s b.toNat with arrived := (bar s b.toNat).arrived ||| onehot 32 j, pending :=
        if c = .group then (bar s b.toNat).pending else (bar s b.toNat).pending ++ [(j, s.cur.seq)] }
    (s.execMask h ≠ 0 → Whole s → Resolved s →
      (bit (bar s b.toNat).arrived j = false → QueueSettled s →
        (∃ t, exec (.bar h b) s = .next t ∧ arrived t .team ∧ SameBytes s t ∧ t.curCand.hold = .barrier b.toNat (some .team)) ∧
        (∃ t, exec (.bara h sc b) s = .next t ∧ arrived t sc ∧ (s.det = false → Advanced s t))) ∧
      (bit (bar s b.toNat).arrived j = true →
        Traps (.bar h b) s { cause := .undef, einfo := s.curWord } ∧ Traps (.bara h sc b) s { cause := .undef, einfo := s.curWord }) ∧
      (bit s.cur.cbars cb.toNat = false → ∃ t, exec (.cbar h cb) s = .next t ∧ same t ∧
        t.cur.cbars = s.cur.cbars ||| onehot 4 cb.toNat ∧ t.curCand.hold = .cbar cb.toNat ∧
        (cbr t cb.toNat).pending = (cbr s cb.toNat).pending ++ [(32 * s.curTeam.rank + j, s.cur.seq)]) ∧
      (bit s.cur.cbars cb.toNat = true → Traps (.cbar h cb) s { cause := .undef, einfo := s.curWord })) ∧
    (s.execMask h ≠ 0 → Whole s →
      (bit (bar s b.toNat).arrived j = true → ∃ t, exec (.barw h sc b) s = .next t ∧ same t ∧ SameBytes s t ∧ t.teams = s.teams ∧
        t.cur.aq = s.cur.aq ∧ t.curCand.hold = .barrier b.toNat (some sc)) ∧
      (bit (bar s b.toNat).arrived j = false → s.cur.aq = [] → s.scopeOpen sc = true → s.det = false →
        ∃ t, exec (.barw h sc b) s = .next t ∧ same t ∧
        Advanced s t ∧ t.teams = s.teams ∧ t.cur.aq = [] ∧
        (sc ≠ .group → sc ≠ .team → (t.core s.curCore).l1 = []))) ∧
    (s.execMask h = 0 → Whole s → s.det = false →
      Idle (.bar h b) s ∧ Idle (.bara h sc b) s ∧ Idle (.barw h sc b) s ∧ Idle (.cbar h cb) s) ∧
    (¬ Whole s → ∀ i, i = .bar h b ∨ i = .bara h sc b ∨ i = .barw h sc b ∨ i = .cbar h cb →
      ∃ t, exec i s = .next t ∧ SameBytes s t ∧ t.teams = s.teams ∧ t.curCand.hold = .convergent 0xFFFFFFFF ∧
        t.cur.arch = { s.cur.arch with cands := t.cur.arch.cands })

/-- From R342, R352: a barrier whose members have all arrived, with their release halves complete, completes: its arrivals are gone, and
no candidate of a member is held at it any more. -/
def Obligations.BarriersComplete : Prop :=
  ∀ (s : State) (tm b : Nat),
    let held (t : State) (n k : Nat) (f : Hold → Bool) : Prop := ∃ c ∈ (t.group n k).arch.cands, f c.hold = true
    let bar (h : Hold) : Bool := match h with
      | .barrier i _ => i == b
      | _ => false
    let whole (g : Nat × Nat × Group) : Prop := ∀ c ∈ (s.group g.1 g.2.1).arch.cands, c.slices ≠ 0
    let r := Store.get (s.team tm).barriers b
    let gs := s.groupsOf tm
    (r.arrived ≠ 0 → (∀ j, j < gs.length → bit r.left j = false → bit r.arrived j = true) →
      (∀ p ∈ r.pending, ∀ g, gs[p.1]? = some g → g.2.2.released p.2 = true) → (s.team tm).core < 384 →
      (∀ g ∈ s.heldGroups tm, whole g) →
      ∃ t, exec (.barrierComplete tm b false) s = .next t ∧
        Store.get (t.team tm).barriers b = { r with arrived := 0, pending := [] } ∧
        (∀ i, i ≠ b → Store.get (t.team tm).barriers i = Store.get (s.team tm).barriers i) ∧
        ∀ g ∈ s.heldGroups tm, ¬ held t g.1 g.2.1 bar) ∧
    let cl := s.cluster (s.team tm).cluster
    let q := Store.get cl.barriers b
    let live := cl.teams.filter fun x => (s.team x).inCluster
    let all := (live.flatMap s.groupsOf).filter fun g => g.2.2.st != .free
    (b < 4 → (∃ g ∈ live.flatMap s.groupsOf, bit g.2.2.cbars b = true) →
      (∀ x ∈ live, (s.team x).slots ≠ [] ∧ (s.team x).core < 384 ∧
        ∀ g ∈ s.groupsOf x, g.2.2.counts = true → bit g.2.2.cbars b = true) →
      (∀ p ∈ q.pending, ∀ g, (s.groupsOf (cl.teams.getD (p.1 / 32) 0))[p.1 % 32]? = some g → g.2.2.released p.2 = true) →
      (∀ g ∈ all, whole g) →
      ∃ t, exec (.barrierComplete tm b true) s = .next t ∧
        Store.get (t.cluster (s.team tm).cluster).barriers b = { q with pending := [] } ∧
        ∀ g ∈ all, bit (t.group g.1 g.2.1).cbars b = false ∧ ¬ held t g.1 g.2.1 fun h => h == .cbar b)

/-! State in memory and tiles. -/

/-- From R329 to R333, R391, R410: SVST stores the selected sections of the image, outside S as one access of its queue, in S at issue.
RSST restores from the bytes it reads the sections that its mask names, and raises UNDEF for content beyond the limits; the image of a
group restores its predicates, lane stacks, pointers, LFS and return stacks as they are. The model's part: the image of deep loops and
that RSST waits for its links are the model's choices, logs 57 and 98. -/
def Obligations.StateImages : Prop :=
  ∀ (s : State) (h : Hdr) (sp : Space) (sc : Scope) (sb : BitVec 6) (what : BitVec 7) (off : BitVec 16),
    s.inStream = false → Executes s h → Whole s → MemReady s sb →
    let a := addressOf s sb off
    let sel := sectionsOf what
    let ps := imagePieces a sel s.imageWord
    let at_ (k o : Nat) : Word := a + BitVec.ofNat 64 ((sectionAt k).1 + o)
    (rangeChecks s sp .store ps (alignFault sp .store 0 a 128) = none →
      (sp ≠ .s → Enqueues (.svst h sp sc sb what off) s { kind := .store, ty := .s64, space := sp, scope := sc, pieces := ps } 0) ∧
      (sp = .s → s.cur.aq = [] → (∀ p ∈ ps, s.deadLink s.curPart (s.placeOf .s p.addr) = none) →
        ∃ t, exec (.svst h sp sc sb what off) s = .next t ∧
          (∀ k o i, k ∈ sel → o % 8 = 0 → o < (sectionAt k).2 → i < 8 →
            t.byteAt (s.placeOf .s (at_ k o) + i) = byteOf (s.imageWord k o).1 i) ∧
          (∀ b, (∀ k o, k ∈ sel → o % 8 = 0 → o < (sectionAt k).2 →
            b < s.placeOf .s (at_ k o) ∨ s.placeOf .s (at_ k o) + 8 ≤ b) → t.byteAt b = s.byteAt b) ∧
          Advanced s t)) ∧
    (∀ ps' : List Piece, s.cur.aq = [] →
      let qs := imagePieces a sel fun _ _ => (0, false)
      let x : Access := { s.newAccess with kind := .load, space := sp, scope := sc, pieces := qs }
      rangeChecks s sp .load qs (alignFault sp .load 0 a 128) = none →
      (if sp = .g then s.piecesWalk qs = true ∧ (∃ s2, resolvePieces s x .load qs = .ok (s2, ps')) ∧ piecesValve s .g .load qs = none
       else ps' = qs.map fun p => { p with place := s.placeOf sp p.addr }) → s.entryTravels x ps' = true →
      let f := imageOf a (readImage s sp sc (ps'.filter fun p => decide (p.addr - a < 0x1C00))).2
      let ks := sel.filter (· ≠ 6)
      ((∃ k ∈ ks, sectionOk f k = false) → Traps (.rsst h sp sc sb what off) s { cause := .undef, einfo := s.curWord }) ∧
      ((∀ k ∈ ks, sectionOk f k = true ∧ sectionLost f k = false) →
        let r := ks.foldl (fun b k => b.restoreSection f k) s.cur.arch
        ∃ t, exec (.rsst h sp sc sb what off) s = .next t ∧ t.cur.arch.preds = r.preds ∧ t.cur.arch.slices = r.slices ∧
          t.cur.arch.stk = r.stk ∧ t.cur.arch.sps = r.sps ∧ t.cur.arch.lfs = r.lfs ∧ t.cur.arch.sregs = s.cur.arch.sregs ∧
          t.cur.arch.vregs = s.cur.arch.vregs ∧ t.cur.arch.flags = s.cur.arch.flags ∧
          (bit what 4 = false → t.teams = s.teams ∧ Advanced s t))) ∧
    ∀ b : Arch,
      (∀ k, (b.restoreSection s.imageWord 0).getP k = s.cur.arch.getP k) ∧
      ((∀ sl, sl < 8 → (s.slice sl).ret.length ≤ 8 ∧ (s.slice sl).retSpill < 512) →
        ∀ sl, sl < 8 → ((b.restoreSection s.imageWord 2).slice sl).ret = (s.slice sl).ret ∧
          ((b.restoreSection s.imageWord 2).slice sl).retSpill = (s.slice sl).retSpill) ∧
      ∀ l, l < 32 → (b.restoreSection s.imageWord 5).getSp l = s.cur.arch.getSp l ∧
        (b.restoreSection s.imageWord 5).getLfs l = s.cur.arch.getLfs l ∧
        ∀ i, i < 8 → ((b.restoreSection s.imageWord 5).getStk l i).bits = (s.cur.arch.getStk l i).bits

/-! The matrix engine. -/

/-- From R195, R196, R204, R369, R370, R373: MLEASE takes a free context with its count and zeroed tiles, MFENCE closes the open
operations as the next batch, MFREE gives the context up, at once where nothing is left of it. Without a lease, or with one already held,
they raise UNDEF. -/
def Obligations.LeaseWords : Prop :=
  ∀ (s : State) (h : Hdr) (sd : BitVec 6) (cnt : BitVec 8) (tiles : BitVec 3), s.inStream = false → Inside s → Resolved s →
    let n := s.curCore
    let undef : Trap := { cause := .undef, einfo := s.curWord }
    let others (t : State) : Prop := SameBytes s t ∧ Advanced s t ∧ (∀ r, r ≠ sd → t.cur.arch.getS r = s.cur.arch.getS r) ∧
      t.cur.arch.vregs = s.cur.arch.vregs ∧ t.cur.arch.preds = s.cur.arch.preds ∧ t.cur.arch.flags = s.cur.arch.flags
    let next (v : BitVec 32) : BitVec 32 := if v = 0xFFFFFFFF then 1 else v + 1
    (plainGuard h = true → cnt ≠ 0 → s.cur.lease = none →
      (s.det = false ∨ (s.curCand.switched = true ∧ (s.core n).ctxPending = false)) →
      (∀ x, s.leaseChoice = some x → ∃ t, exec (.mlease h sd cnt tiles) s = .next t ∧ others t ∧ t.cur.lease = some x ∧
        t.cur.arch.getS sd = (if sd = 0 then {} else ⟨BitVec.ofNat 64 x, false, false⟩) ∧
        t.ctx n x = { holder := some s.curSlot, count := cnt.toNat, ntiles := tiles.toNat + 1 } ∧
        ∀ y, y ≠ x → t.ctx n y = s.ctx n y) ∧
      (s.leaseChoice = none → s.det = false → exec (.mlease h sd cnt tiles) s = .next s.hold1)) ∧
    (plainGuard h = true → (cnt = 0 ∨ s.cur.lease.isSome = true) →
      (s.det = false ∨ (s.curCand.switched = true ∧ (s.core n).ctxPending = false)) → Traps (.mlease h sd cnt tiles) s undef) ∧
    (badGuard h = false → s.execMask h ≠ 0 → Whole s →
      (s.leased = none → Traps (.mfree h) s undef ∧ Traps (.mfence h sd) s undef) ∧
      ∀ x, s.leased = some x →
        let c := s.ctx n x
        let closed : Ctx := { c with last := next c.last, batches := c.batches ++ [{ num := next c.last, close := s.cur.seq }],
                                     ops := c.ops.map fun o => if o.batch = none then { o with batch := some s.cur.seq } else o }
        (∃ t, exec (.mfence h sd) s = .next t ∧ others t ∧ t.ctx n x = closed ∧
          t.cur.arch.getS sd = (if sd = 0 then {} else ⟨(next c.last).setWidth 64, false, false⟩)) ∧
        (c.holder = some s.curSlot → c.ops = [] → c.batches = [] → c.part.count = 0 →
          ∃ t, exec (.mfree h) s = .next t ∧ SameBytes s t ∧ t.cur.lease = none ∧ (t.ctx n x).holder = none) ∧
        ((∃ o ∈ c.ops, o.batch = none) ∨ (c.batches = [] ∧ c.part.count ≠ 0) →
          ∃ t, exec (.mfree h) s = .next t ∧ SameBytes s t ∧ t.cur.lease = s.cur.lease ∧ t.ctx n x = { closed with freed := true }) ∧
        (c.batches ≠ [] → (∀ o ∈ c.ops, o.batch ≠ none) →
          ∃ t, exec (.mfree h) s = .next t ∧ SameBytes s t ∧ t.cur.lease = s.cur.lease ∧ t.ctx n x = { c with freed := true }))

/-- From R194, R197, R200, R203, R208, R214, R357 to R359, R371 to R376: a matrix or factor word whose checks pass queues one operation in
the context of its lease, with its operands as they stand, and a move enters its range in the Valve table. It writes no register; those
that the operation will write become pending. It waits for a whole candidate, and does nothing where no lane executes. The model's part:
the Valve check at issue and the order of the scale reads are read in logs 43 and 49, a full Valve table in log 108, and that a word waits
for the links of its walks in log 98. -/
def Obligations.MatrixWordsQueue : Prop :=
  (∀ (s : State) (h : Hdr) (acc : BitVec 3) (va vb vm : VOp) (ty : Ty) (sp : Space) (sb fb sd : BitVec 6) (dim : BitVec 5) (q : BitVec 2)
     (o31 : BitVec 31) (o26 : BitVec 26) (b : BitVec 1), s.inStream = false → badGuard h = false → Inside s →
     Gangs (.mzero h acc) s h ∧ Gangs (.ftinit h acc dim sb) s h ∧ Gangs (.ftupd h acc va) s h ∧ Gangs (.ftdnd h acc va) s h ∧
     Gangs (.ftsolv h acc va b) s h ∧ Gangs (.ftldet h acc va) s h ∧ Gangs (.mmova h acc va q b) s h ∧
     Gangs (.mlda h acc sp sb o31) s h ∧ Gangs (.msta h acc sp sb o31) s h ∧ Gangs (.ftld h acc sp sb dim o26) s h ∧
     Gangs (.ftst h acc sp sb o26) s h ∧ Gangs (.mma h ty acc va vb fb) s h ∧ Gangs (.mmas h ty acc va vm vb fb) s h ∧
     Gangs (.mcomp h ty va vm vb) s h ∧ Gangs (.mfence h sd) s h ∧ Gangs (.mfree h) s h) ∧
  ∀ (s : State) (h : Hdr) (acc : BitVec 3) (va vb vm : VOp) (sb fb : BitVec 6) (x : Nat), s.inStream = false → Executes s h → Whole s →
    s.leased = some x → (s.ctx s.curCore x).full = false → acc.toNat < (s.ctx s.curCore x).ntiles →
    let a := s.cur.arch
    let n := s.curCore
    let ra := effReg a va
    let rb := effReg a vb
    let queuesTo (i : Instr) (seq : Nat) (o : MOp) (keys : List Nat) (more : State → Prop) : Prop :=
      ∃ t, exec i s = .next t ∧ SameBytes s t ∧ AdvancedBy (!keys.isEmpty) seq s t ∧ more t ∧
        t.ctx n x = { s.ctx n x with ops := (s.ctx n x).ops ++ [{ o with acc := acc.toNat, seq := seq }] } ∧
        t.cur.arch = { a with pend := a.pend ++ keys.map fun k => (seq, k), retired := t.cur.arch.retired, cands := t.cur.arch.cands }
    let queuesAt (i : Instr) (seq : Nat) (o : MOp) : Prop := queuesTo i seq o [] fun _ => True
    let queues (i : Instr) (k : MOpKind) : Prop := queuesAt i s.cur.seq { kind := k }
    let writer (i : Instr) (k : MOpKind) (keys : List Nat) : Prop := queuesTo i s.cur.seq { kind := k } keys fun _ => True
    let clean (r k : Nat) : Prop := r + k ≤ s.cur.allot ∧ ∀ j, j < k → CleanIn s 0xFFFFFFFF (.reg (r + j))
    let lanes32 (r : Nat) : List Lane := (List.range 32).map fun l => (a.getV r l).bits
    queues (.mzero h acc) .mzero ∧
    (∀ dim : BitVec 5, CleanLo s sb → posNormal ((a.valS sb).toNat % 2 ^ 32) = true →
      queues (.ftinit h acc dim sb) (.ftinit (dim.toNat + 1) ((a.valS sb).setWidth 32))) ∧
    (clean ra 1 → queues (.ftupd h acc va) (.ftupd false (lanes32 ra)) ∧ queues (.ftdnd h acc va) (.ftupd true (lanes32 ra)) ∧
      ∀ bwd, writer (.ftsolv h acc va bwd) (.ftsolv ra (bwd = 1) (lanes32 ra)) ((List.range 32).map (vecKey ra))) ∧
    (ra + 1 ≤ s.cur.allot → writer (.ftldet h acc va) (.ftldet ra) [vecKey ra 0, vecKey ra 1]) ∧
    (∀ q : BitVec 2, (ra + 8 ≤ s.cur.allot → writer (.mmova h acc va q 0) (.toVec ra q.toNat)
        ((List.range 256).map fun i => vecKey (ra + i / 32) (i % 32))) ∧
      (clean ra 8 → queues (.mmova h acc va q 1) (.fromVec q.toNat ((List.range 8).flatMap fun j => lanes32 (ra + j))))) ∧
    (∀ (sp : Space) (ad : Word) (ps : List Nat), CleanS s sb →
      let covered (t : State) (wr : Bool) : Prop := ∀ v, s.valveAt sp ad = some v → ∃ e ∈ (t.core v.1).valve,
        e = { tenant := (s.part s.curPart).tenant, space := v.2.1, lo := v.2.2, hi := v.2.2 + 4096, write := wr,
              owner := groupKey n s.curSlot, seq := s.cur.seq }
      let moves (i : Instr) (k : MOpKind) (wr : Bool) : Prop :=
        queuesTo i s.cur.seq { kind := k, places := ps } [] fun t => covered t wr
      let ok (d : Acc) : Prop := tileSpace s sp d ad = none ∧ ad.toNat % 128 = 0 ∧ s.rangeWalk sp ad 0 4096 = true ∧
        s.valveFits [(sp, ad)] = true ∧
        tilePlaces s sp d ad = (none, ps) ∧
        engineValve s sp d ad 4096 = none
      (∀ off : BitVec 31, ad = addressOf s sb off →
        (ok .load → moves (.mlda h acc sp sb off) (.mlda sp ad) false) ∧
        (ok .store → moves (.msta h acc sp sb off) (.msta sp ad) true)) ∧
      ∀ off : BitVec 26, ad = addressOf s sb off →
        (ok .load → ∀ dim : BitVec 5, moves (.ftld h acc sp sb dim off) (.ftld (dim.toNat + 1) sp ad) false) ∧
        (ok .store → moves (.ftst h acc sp sb off) (.ftst sp ad) true)) ∧
    ∀ (ty : Ty) (oa ob : Fmt × Option ScaleAt), formatBlock a (tyFmt ty) fb = some (oa, ob) → poisonBlock a fb = none →
      let mul (i : Instr) (sparse : Bool) (fa fb' : Frag) : Prop :=
        let rd := s.scaleAccess [fa, fb']
        let o : MOp := { kind := .mma fa.fmt.extent fa fb' ty sparse }
        scaleAligned [fa, fb'] = none → firstTrap (scaleSpace s [fa, fb'] rd ++ scaleChecks s rd) = none →
        s.scalesOpen [fa, fb'] = true →
        if rd.pieces = [] then queuesAt i s.cur.seq o
        else queuesAt i (s.cur.seq + 1) { o with scaleSeq := s.cur.seq, scaleWait := true } ∧
          ∀ t, exec i s = .next t → ∃ y ∈ t.cur.aq, y.seq = s.cur.seq ∧ y.dst = .scale ∧ y.resolved = true ∧
            y.pieces.map (·.addr) = rd.pieces.map (·.addr)
      let fbD := denseFrag a ob.1 rb ob.2
      (clean ra oa.1.denseRegs → clean rb ob.1.denseRegs → mul (.mma h ty acc va vb fb) false (denseFrag a oa.1 ra oa.2) fbD) ∧
      (let rm := effReg a vm
       clean ra oa.1.sparseRegs → clean rm (metaRegs ty) → clean rb ob.1.denseRegs → metaOk a rm (shapeK ty) = true →
        mul (.mmas h ty acc va vm vb fb) true (sparseFrag a oa.1 ra rm oa.2) fbD)

/-- From R107, R108, R113, R114, R200 to R203, R205, R207, R208, R212, R214 to R219, R366, R367: MCOMP writes the compressed values and
the metadata into its registers. The engine runs the operation that its choice names on the tile as the batch has left it, and holds the
result for the commit; what the operation reads from memory, and its scales, return first. A multiply adds its exact products to the
element and rounds once; the factor operations follow their recurrences, each step rounded once, and lose a tile as the rules say. The
model's part: which of MCOMP's overlapping writes comes last, the flags of an unselected element, the blocks that share a scale and the
sign of a zero sum are the model's choices, logs 42, 48, 91 and 92, and so are FTST on a lost tile and what runOp makes of poisoned
elements and of infinities beside a NaN, logs 110, 116 and 120. -/
def Obligations.CompressAndEngine : Prop :=
  (∀ (s : State) (h : Hdr) (ty : Ty) (vd vm vs : VOp), s.inStream = false → Executes s h → Whole s →
     (ty = .b16 ∨ ty = .h16 ∨ ty.pik ≠ 0) →
     let a := s.cur.arch
     let d := effReg a vd
     let m := effReg a vm
     let r := effReg a vs
     let nm := metaRegs ty
     let w := mcompWrites a (tyFmt ty) r d m
     (d + 4 ≤ r ∨ r + 8 ≤ d) → (m + nm ≤ r ∨ r + 8 ≤ m) → d + 4 ≤ s.cur.allot → m + nm ≤ s.cur.allot →
     r + denseRegs ty ≤ s.cur.allot → (∀ j, j < denseRegs ty → CleanIn s 0xFFFFFFFF (.reg (r + j))) →
     ∃ t, exec (.mcomp h ty vd vm vs) s = .next t ∧ SameBytes s t ∧ Advanced s t ∧
       (∀ e ∈ w.1 ++ w.2, ∃ e' ∈ w.1 ++ w.2, e'.1 = e.1 ∧ Store.get t.cur.arch.vregs e.1 = e'.2) ∧
       (d + 4 ≤ m ∨ m + nm ≤ d → ∀ e ∈ w.1 ++ w.2, Store.get t.cur.arch.vregs e.1 = e.2) ∧
       (∀ k, (∀ e ∈ w.1 ++ w.2, e.1 ≠ k) → Store.get t.cur.arch.vregs k = Store.get a.vregs k) ∧
       t.cur.arch = { a with vregs := t.cur.arch.vregs, pend := t.cur.arch.pend, retired := t.cur.arch.retired,
                             cands := t.cur.arch.cands }) ∧
  (∀ (s : State) (n x : Nat), n < 384 →
     let c := s.ctx n x
     (∀ o, (s.core n).engBusy = 0 → (∀ y, y < 4 → (s.ctx n y).checkFail = false) → s.engineChoice n = some x → s.nextOp n x = .op o →
       let r := runOp (c.workTile o.acc) o
       ∃ t, exec (.engineOpRun n) s = .next t ∧ SameBytes s t ∧ t.groups = s.groups ∧
         (t.ctx n x).workTile o.acc = r.tile.getD (c.workTile o.acc) ∧ (t.ctx n x).tiles = c.tiles ∧
         (t.ctx n x).work.flags = c.work.flags ||| r.flags.setWidth 5 ∧
         (t.ctx n x).work.regs = c.work.regs ++ r.regs.map (fun e => (o.seq, e.1, e.2.1, e.2.2)) ∧
         (t.ctx n x).work.mem = c.work.mem ++ r.mem ∧
         (t.ctx n x).ops = c.ops.map (fun p => if p.seq = o.seq then { p with ran := true } else p) ∧
         (t.core n).engCur = x) ∧
     ((s.core n).engBusy = 0 → c.checkFail = true → (∀ y, y < x → (s.ctx n y).checkFail = false) → x < 4 →
       ∃ t, exec (.engineOpRun n) s = .next t ∧ SameBytes s t ∧ t.groups = s.groups ∧ (t.ctx n x).tiles = c.tiles ∧
         (t.ctx n x).checkFail = false ∧
         (t.ctx n x).work.attempt = (if c.work.attempt < 3 then c.work.attempt + 1 else 4)) ∧
     (∀ o, c.doomed = false → c.headOps.find? (fun o => !o.ran) = some o → o.loads = true → o.loaded = none →
       s.olderOpen n x o = false → c.work.mem = [] → (s.core n).l1 = [] → o.places.length = 1024 →
       let u := s.at_ n (s.holderOf n x) 0
       (∀ p ∈ o.places, ∀ i, i < 4 → u.deadLink u.curPart (p + i) = none) →
       u.travels .g (o.places.flatMap fun p => [p, p + 1, p + 2, p + 3]) = true →
       ∃ t, exec (.engineMemoryReturn n x) s = .next t ∧ SameBytes s t ∧ t.groups = s.groups ∧
         (t.ctx n x).ops = c.ops.map fun p => if p.seq = o.seq then
           { p with loaded := some (o.places.map fun q => ⟨ofBytes 32 (s.homeBytes q 4),
             s.poisoned q || s.poisoned (q + 1) || s.poisoned (q + 2) || s.poisoned (q + 3)⟩) } else p) ∧
     (∀ (i j : Nat) (o : MOp) (y : Access) (r : List Access) (p : Piece), i < 32 → c.ops[i]? = some o → o.scaleWait = true →
       (s.group n (s.holderOf n x)).aq = y :: r → y.seq = o.scaleSeq → y.resolved = true → y.pieces[j]? = some p → p.done = false →
       (s.at_ n (s.holderOf n x) 0).entryTravels y [p] = true →
       ∃ t, exec (.scaleReadReturn n x (32 * j + i)) s = .next t ∧ ∃ v : BitVec 16 × Bool,
         (t.ctx n x).ops = c.ops.map (fun q => if q.seq = o.seq then
           { q with scales := q.scales ++ [(p.addr.toNat, v)],
                    scaleWait := !((modNth y.pieces j fun q => { q with done := true }).all (·.done)) } else q) ∧
         (p.nc = true → (s.at_ n (s.holderOf n x) 0).deadLink (s.at_ n (s.holderOf n x) 0).curPart p.place = none →
           v = (ofBytes 16 (s.homeBytes p.place 2), (s.homeRead p.place 2).2))) ∧
     (∀ (tl : Tile) (o : MOp),
       (o.kind = .mzero → runOp tl o = { tile := some {} }) ∧
       (∀ base q, o.kind = .toVec base q → (runOp tl o).tile = none ∧ ∀ j l, j < 8 → l < 32 →
         (base + j, l, tl.elt (8 * q + j) l) ∈ (runOp tl o).regs) ∧
       (∀ dim d, o.kind = .ftinit dim d → ∀ i j, i < 32 → j < 32 → ((runOp tl o).tile.map fun v => (v.mode, v.elt i j)) =
         some (.factor dim, if i ≠ j then {} else ⟨if i < dim then d else 0x3F800000, false⟩)) ∧
       (∀ sp ad, o.kind = .msta sp ad → o.places.length = 1024 → ∀ i b, i < 1024 → b < 4 →
         (o.places.getD i 0 + b, ⟨(byteOf (Store.get tl.elts i).bits b).setWidth 32, (Store.get tl.elts i).poison⟩) ∈ (runOp tl o).mem))) ∧
  (∀ (tl : Tile) (o : MOp) (k' : Nat) (fa fb : Frag) (ty : Ty) (sparse : Bool) (m n : Nat), o.kind = .mma k' fa fb ty sparse →
     m < 32 → n < 32 → (tl.elt m n).poison = false →
     let k := fa.fmt.extent
     let acc := val32 (tl.elt m n).bits.toNat
     let a (i : Nat) : Lane := fa.elts.getD (m * k + i) 0
     let b (i : Nat) : Lane := fb.elts.getD (n * k + i) 0
     let gives (l : List FVal) : Prop := ∃ v : Tile, (runOp tl o).tile = some v ∧ v.mode = .matrix ∧
       (v.elt m n).poison = false ∧ SumsTo (acc :: l) (v.elt m n).bits.toNat
     (fa.fmt.isPi = false → gives ((List.range k).map fun i => (fmtVal fa.fmt (a i)).times (fmtVal fb.fmt (b i)))) ∧
     (∀ sc : Nat → BitVec 16, fa.fmt.isPi = true →
       let at_ (f : Frag) (r i : Nat) : Option Nat :=
         f.scale.map fun z => (z.base.toNat + 2 * ((z.org + r * 2 ^ z.pitch + i) / 2 ^ z.shift)) % 2 ^ 64
       let pair (i : Nat) : Option Nat × Option Nat := (at_ fa m i, at_ fb n i)
       let scale (v : Option Nat) : FVal := match v with
         | none => .fin false 1 0
         | some z => unpack fmtB16 (sc z).toNat
       let q (w : Lane) : Int := (w.setWidth 8 : BitVec 8).toInt
       (∀ i, i < k → ∀ z, at_ fa m i = some z ∨ at_ fb n i = some z →
         o.scales.find? (fun p => p.1 = z) = some (z, sc z, false)) →
       gives (((List.range k).map pair).eraseDups.map fun c =>
         let d : Int := ((List.range k).map fun i => if pair i = c ∧ fa.has (m * k + i) = true then q (a i) * q (b i) else 0).sum
         ((FVal.fin (decide (d < 0)) d.natAbs (-14)).times (scale c.1)).times (scale c.2)))) ∧
  (∀ (tl : Tile) (o : MOp) (n : Nat), tl.mode = .factor n → 1 ≤ n → n ≤ 32 →
     (∀ i j, j ≤ i → i < n → (tl.elt i j).poison = false) →
     let l (i j : Nat) : Nat := (tl.elt i j).bits.toNat
     let mul (x y : Nat) : Nat := (fMul fmtF32 .rne x y).bits
     (∀ neg w, o.kind = .ftupd neg w → w.length = 32 →
       let w0 (i : Nat) : Nat := (w.getD i 0).toNat
       ((runOp tl o).loss = none → ∃ (v : Tile) (u : Nat → Nat → Nat), (runOp tl o).tile = some v ∧ v.mode = .factor n ∧
         (∀ i j, i < 32 → j < 32 → (i < j ∨ n ≤ i) → v.elt i j = tl.elt i j) ∧ (∀ i, i < n → u 0 i = w0 i) ∧
         ∀ k, k < n → Positive32 (l k k) ∧ (neg = true → Definite (l k k) (u k k)) ∧ ∃ hh : Nat,
           SumsTo [(val32 (l k k)).times (val32 (l k k)), ((val32 (u k k)).times (val32 (u k k))).signed neg] hh ∧
           let r := (fSqrt hh).bits
           let rho := (fRcp (l k k)).bits
           let c := mul r rho
           let sg := mul (u k k) rho
           Finite32 r ∧ v.elt k k = ⟨BitVec.ofNat 32 r, false⟩ ∧
           ∀ i, k < i → i < n → ∃ x y : Nat,
             SumsTo [val32 (l i k), ((val32 sg).times (val32 (u k i))).signed neg] x ∧
             v.elt i k = ⟨BitVec.ofNat 32 (mul x (fRcp c).bits), false⟩ ∧
             SumsTo [(val32 c).times (val32 (u k i)), ((val32 sg).times (val32 (v.elt i k).bits.toNat)).signed true] y ∧
             u (k + 1) i = y) ∧
       (∀ k kd, (runOp tl o).loss = some (k, kd) → kd ≤ 1 ∧ k < n ∧
         (runOp tl o).tile = some { tl with mode := .lost n k kd } ∧ (runOp tl o).flags = 0) ∧
       (¬ Positive32 (l 0 0) → (runOp tl o).loss = some (0, 1)) ∧
       (Positive32 (l 0 0) → neg = true → ¬ Definite (l 0 0) (w0 0) → (runOp tl o).loss = some (0, 0))) ∧
     (∀ base bwd b, o.kind = .ftsolv base bwd b → ∃ y : Nat → Nat,
       (runOp tl o).regs.map (fun e => (e.1, e.2.2)) = ((runOp tl o).regs.map fun e => (base, ⟨BitVec.ofNat 32 (y e.2.1), false⟩)) ∧
       (∀ i, (∃ e ∈ (runOp tl o).regs, e.2.1 = i) ↔ i < n) ∧ (runOp tl o).tile = none ∧ (runOp tl o).loss = none ∧
       ∀ i, i < n → ∃ x : Nat, y i = (fDiv fmtF32 .rne x (l i i)).bits ∧
         SumsTo (val32 (b.getD i 0).toNat :: (if bwd then (List.range n).filter (i < ·) else List.range i).map fun k =>
           ((val32 (if bwd then l k i else l i k)).times (val32 (y k))).signed true) x) ∧
     (∀ base, o.kind = .ftldet base → ∃ t : Nat → Nat → Option Nat,
       (∀ j, j < 32 → t 0 j = if j < n then some (fLog (l j j)).bits else none) ∧
       (∀ d j, d < 5 → j < 2 ^ (4 - d) → t (d + 1) j = match t d (2 * j), t d (2 * j + 1) with
         | some x, some y => some (fAdd fmtF32 .rne x y).bits
         | some x, none => some x
         | none, y => y) ∧
       ∃ z, t 5 0 = some z ∧ (runOp tl o).regs = [(base, 0, ⟨BitVec.ofNat 32 (mul 0x40000000 z), false⟩),
         (base, 1, ⟨BitVec.ofNat 32 (2 ^ 31 + (n - 1)), false⟩)] ∧ (runOp tl o).tile = none)) ∧
  ∀ (tl : Tile) (o : MOp),
    (tl.mode = .matrix ∨ (∃ n c kd, tl.mode = .lost n c kd) →
      (∀ neg w, o.kind = .ftupd neg w ∨ (∃ base bwd, o.kind = .ftsolv base bwd w) ∨ (∃ sp ad, o.kind = .ftst sp ad) →
        (runOp tl o).tile = none ∧ (runOp tl o).regs = [] ∧ (runOp tl o).mem = [] ∧ (runOp tl o).flags = 0 ∧
        (tl.mode = .matrix → (runOp tl o).loss = some (0, 2)) ∧
        ∀ n c kd, tl.mode = .lost n c kd → (runOp tl o).loss = some (c, 3)) ∧
      ∀ base, o.kind = .ftldet base → (runOp tl o).loss = none ∧ ∃ w : Lane,
        (runOp tl o).regs = [(base, 0, ⟨0x7FC00000, false⟩), (base, 1, ⟨w, false⟩)] ∧ (tl.mode = .matrix → w = 0) ∧
        ∀ n c kd, tl.mode = .lost n c kd → w = BitVec.ofNat 32 (2 ^ 31 + 2 ^ 30 + c * 2 ^ 8 + kd * 2 ^ 6 + (n - 1)))

/-- From R203 to R206, R220, R243, R266, R271: a closed batch whose operations have all run commits: its tiles, its registers that still
wait for it, its stores and its flags take effect together, and it leaves the context. A loss sets DEFLOST and leaves its report. A batch
that has failed leaves tiles and registers as they are, raises BATCHERR and leaves a report. What the batches of a team that is ended or
discarded produce is dropped. The model's part: which batches fail after a failed one, what their reports hold and that a store waits for
its link are the model's choices, logs 44, 88 and 98. -/
def Obligations.BatchesCommit : Prop :=
  ∀ (s : State) (n x k : Nat) (b : Batch) (r : List Batch), n < 384 → k < 64 →
    let c := s.ctx n x
    let g := s.group n k
    let u := s.at_ n k 0
    let info (z : Word) : Word := z ||| BitVec.ofNat 64 (x * 2 ^ 40) ||| b.num.setWidth 64
    let loss : Option Word := match c.part.loss with
      | some l => some l
      | none => c.work.loss
    c.batches = b :: r → c.holder = some k → s.commitReady n x = true → s.workTravels n x = true → g.st = .resident →
    ((s.team g.team).dropsWork = true → ∃ t, exec (.batchCommit n x) s = .next t ∧ SameBytes s t ∧ (t.group n k).reports = g.reports ∧
      (t.group n k).arch.vregs = g.arch.vregs ∧ (t.group n k).arch.flags = g.arch.flags ∧
      (r ≠ [] → (t.ctx n x).batches = r ∧ (t.ctx n x).tiles = c.tiles)) ∧
    (c.doomed = false → (∀ p ∈ c.work.mem, u.deadLink u.curPart p.1 = none) → (s.team g.team).dropsWork = false →
     ∃ t, exec (.batchCommit n x) s = .next t ∧
      (∀ a, t.byteAt a = match c.work.mem.reverse.find? (fun p => p.1 = a) with
        | some p => p.2.bits.setWidth 8
        | none => s.byteAt a) ∧
      (∀ p ∈ c.work.mem, t.poisoned p.1 = c.work.mem.any fun q => q.2.poison && poisonUnit q.1 == poisonUnit p.1) ∧
      (loss = none → (t.group n k).reports = g.reports) ∧
      (∀ l, loss = some l → ∃ rep, (t.group n k).reports = g.reports ++ [rep] ∧ rep.cause = .deflost ∧ rep.path = .mx ∧
        rep.seq = b.close ∧ rep.einfo = info l) ∧
      (t.group n k).arch.flags = g.arch.flags ||| (c.work.flags ||| c.part.flags).setWidth 10 |||
        (if loss.isSome then fDeflost else 0) ∧ (t.group n k).arch.sregs = g.arch.sregs ∧
      (r ≠ [] → (t.ctx n x).batches = r ∧ (t.ctx n x).tiles = Store.putAll c.tiles c.work.tiles ∧ (t.ctx n x).work = {} ∧
        ∀ o ∈ (t.ctx n x).ops, o.batch ≠ some b.close) ∧
      ∀ e ∈ c.work.regs, (e.1, vecKey e.2.1 e.2.2.1) ∈ g.arch.pend →
        (c.work.regs.map fun w => vecKey w.2.1 w.2.2.1).Nodup → e.2.2.1 < 32 → (t.group n k).arch.getV e.2.1 e.2.2.1 = e.2.2.2) ∧
    (c.doomed = true → (s.team g.team).dropsWork = false → ∃ t, exec (.batchCommit n x) s = .next t ∧ SameBytes s t ∧
      (∃ rep, (t.group n k).reports = g.reports ++ [rep] ∧ rep.cause = .batcherr ∧ rep.path = .mx ∧ rep.seq = b.close ∧
        (c.part.failed = true → rep.einfo = info (BitVec.ofNat 64 (c.part.opidx * 2 ^ 32))) ∧
        (c.part.failed = false → rep.einfo = info (BitVec.ofNat 64
          ((if c.work.attempt = 4 then c.part.count + c.work.count - 1 else 0) * 2 ^ 32)))) ∧
      (t.group n k).arch.vregs = g.arch.vregs ∧ (t.group n k).arch.sregs = g.arch.sregs ∧
      (t.group n k).arch.flags = g.arch.flags ||| fBatcherr ∧
      (r ≠ [] → (t.ctx n x).batches = r ∧ (t.ctx n x).tiles = c.tiles))

/-! Engine commands. -/

/-- From R154, R156 to R162, R382 to R388, R399, R400: PCPY and PFILL put their command into the command buffer and the ticket ring and
return its ticket, SIPH puts its gather there; their ranges enter the Valve tables, which have room. PSTAT reads the ring, PCANC asks the
command that the ring still names to stop, which does nothing under DETMODE 1. The model's part: what PSTAT shows under DETMODE 1 is read
in log 72, and a word that finds another core's table full in log 108. -/
def Obligations.CommandWords : Prop :=
  ∀ (s : State) (h : Hdr) (st sd sa sl sp : BitVec 6) (dsp ssp : Space) (sc : Scope), s.inStream = false → Executes s h →
    let a := s.cur.arch
    let n := s.curCore
    let key := groupKey n s.curSlot
    let len := ((a.valS sl).extractLsb' 0 40).toNat
    let covered (t : State) (d : Space) (at_ : Word) (size : Nat) (wr : Bool) : Prop := ∀ v, s.valveAt d at_ = some v →
      ∃ e ∈ (t.core v.1).valve, e.tenant = (s.part s.curPart).tenant ∧ e.space = v.2.1 ∧ e.lo = v.2.2 ∧ e.hi = v.2.2 + size ∧
        e.write = wr ∧ e.owner = key ∧ e.seq = s.cur.seq
    let issues (i : Instr) (c : Cmd) : Prop := cmdRanges s c = none → (len ≠ 0 → s.valveFits c.ranges = true) →
      ∃ t, exec i s = .next t ∧ SameBytes s t ∧ Advanced s t ∧ t.cur.seq = s.cur.seq + 1 ∧
        t.cur.arch.getS st = (if st = 0 then {} else ⟨BitVec.ofNat 64 a.ticket, false, false⟩) ∧
        (∀ r, r ≠ st → t.cur.arch.getS r = a.getS r) ∧ t.cur.arch.ticket = (if a.ticket = 65535 then 1 else a.ticket + 1) ∧
        t.cur.arch.ringIdx = (a.ringIdx + 1) % 64 ∧
        Store.get t.cur.ring a.ringIdx = { state := if len = 0 then .done else .queued, ticket := a.ticket, seq := s.cur.seq } ∧
        (len ≠ 0 →
          t.cur.cmds = s.cur.cmds ++ [{ c with seq := s.cur.seq, ticket := a.ticket, privd := s.privd, ringAt := a.ringIdx,
                                               before := Store.get s.cur.ring a.ringIdx, state := .queued,
                                               cancel := s.curTeam.dropsWork, left := List.range c.pieces }] ∧
          covered t c.dsp c.dst len true ∧ (c.kind = .pcpy → covered t c.ssp c.src len false))
    ((a.valS sl).extractLsb' 40 24 = 0 → (dsp = .w → s.privd = true) → CleanS s sd → CleanS s sl → (len = 0 → Resolved s) →
      (ssp ≠ .w → CleanS s sa → issues (.pcpy h st sd sa sl dsp ssp sc)
        { kind := .pcpy, dsp := dsp, ssp := ssp, scope := sc, dst := a.valS sd, src := a.valS sa, len := len }) ∧
      (CleanLo s sp → issues (.pfill h st sd sl sp dsp sc)
        { kind := .pfill, dsp := dsp, scope := sc, dst := a.valS sd, pat := (a.valS sp).setWidth 32, len := len })) ∧
    (CleanS s st →
      let v := a.valS st
      let reads (w : Word) : Prop := WritesS (.pstat h sd st) s sd w
      ((v = 0 ∨ ∀ e ∈ s.cur.ring, e.2.ticket ≠ v.toNat) → reads 0xF000000000000000) ∧
      (∀ q k e r, v ≠ 0 → s.cur.ring = q ++ (k, e) :: r → (∀ p ∈ q, p.2.ticket ≠ v.toNat) → e.ticket = v.toNat →
        (s.det = false ∨ e.seen = true) →
        let code : Nat := match e.state with
          | .queued => 0
          | .running => 1
          | .done => 2
          | .cancelled => 3
          | .faulted => 4
        reads (BitVec.ofNat 64 (code * 2 ^ 60 + e.done))) ∧
      (∀ k e, (k, e) ∈ s.cur.ring → e.ticket = v.toNat → v ≠ 0 → s.det = true → (∀ p ∈ s.cur.ring, p.2.seen = false) →
        reads 0x1000000000000000) ∧
      (s.det = true → Idle (.pcanc h st) s) ∧
      (s.det = false → Resolved s → ∃ t, exec (.pcanc h st) s = .next t ∧ OthersKept s t ∧ SameBytes s t ∧ Advanced s t ∧
        t.cur = { s.cur with cmds := t.cur.cmds, arch := t.cur.arch } ∧
        t.cur.cmds.length = s.cur.cmds.length ∧ ∀ (i : Nat) (c : Cmd), s.cur.cmds[i]? = some c →
          let named : Prop := c.kind ≠ .siph ∧ c.ended = false ∧ v ≠ 0 ∧
            ∃ p, s.cur.ring.find? (fun p => p.2.ticket = v.toNat) = some p ∧ p.2.seq = c.seq
          (named → t.cur.cmds[i]? = some { c with cancel := true }) ∧ (¬ named → t.cur.cmds[i]? = some c))) ∧
    (∀ (vi : VOp), Held s (refOf s vi) → CleanIn s (s.execMask h) (refOf s vi) → CleanS s st → CleanS s sd → CleanS s sp →
      let c := siphCmd s (s.execMask h) st vi sd sp dsp ssp
      goodSiph (a.valS sp) = true → siphRows s c = none → (a.valS st).toNat % 4 = 0 →
      s.valveFits [(dsp, c.gatherTo.1), (ssp, c.gatherFrom.1)] = true →
      ∃ t, exec (.siph h st vi sd sp dsp ssp) s = .next t ∧ SameBytes s t ∧ Advanced s t ∧
        t.cur.cmds = s.cur.cmds ++ [{ c with seq := s.cur.seq, privd := s.privd }] ∧ t.cur.seq = s.cur.seq + 1 ∧
        t.cur.arch = { a with retired := t.cur.arch.retired, cands := t.cur.arch.cands } ∧
        c.rows.map (·.1) = lanes (s.execMask h) ∧ c.len = (a.valS sp).toNat % 2 ^ 16 ∧
        (∀ lo hi, lo ∈ lanes (s.execMask h) → hi ∈ lanes (s.execMask h) → (∀ l ∈ lanes (s.execMask h), lo ≤ l ∧ l ≤ hi) →
          covered t c.dsp (c.dst + BitVec.ofNat 64 (lo * c.len)) ((hi - lo + 1) * c.len) true) ∧
        ∀ lo hi, lo ∈ c.rows → hi ∈ c.rows → (∀ r ∈ c.rows, lo.2.toNat ≤ r.2.toNat ∧ r.2.toNat ≤ hi.2.toNat) →
          covered t c.ssp lo.2 (hi.2.toNat - lo.2.toNat + c.len) false)

/-- From R154, R156 to R162, R243, R266, R287, R385: a piece of a command whose ranges pass their checks writes its bytes, the pattern of
a fill or the bytes of the source, and with the last piece the command is DONE and its entries have left the Valve tables. A piece that
fails leaves its report. A gather copies its rows, but for a team that is ended or discarded. The model's part: which bytes a failing
piece leaves is free, when a cancel takes hold and that a piece waits for its link are the model's choices, logs 46, 93 and 98, and so are
the count of its walks over dead links, what a dead link loses of it and the Pump that moves it, logs 113, 125 and 127; what its own group
meets until cp falls past it is read in log 106. -/
def Obligations.CommandsRun : Prop :=
  ∀ (s : State) (n k idx : Nat) (c : Cmd), n < 384 →
    let s0 := s.at_ n k 0
    let g := s.group n k
    g.cmds[idx]? = some c → s0.mayRunCmd c = true → c.ended = false → c.fail = none → g.st = .resident → (s.core n).l1 = [] →
    (∀ d ∈ g.cmds, d.seq = c.seq → d = c) →
    let gone (t : State) : Prop := (∀ d ∈ t.cur.cmds, d.seq = c.seq → d.ended = true) ∧
      ∀ m, ∀ e ∈ (t.core m).valve, ¬ (e.owner = groupKey n k ∧ e.seq = c.seq)
    (∀ (piece : Nat) (data : List Elt) (ps : List Nat), c.kind ≠ .siph → c.cancel = false → piece ∈ c.left → c.dsp ≠ .w →
      s0.pieceTravels c piece = true →
      let quad := s0.pumpQuad piece
      let off := (c.span piece).1
      let stop := (c.span piece).2
      let w := ((if c.kind = .pcpy then s0.rangeCount c.ssp c.src off else s0).rangeCount c.dsp c.dst off).withSource quad c
      w.1.pieceData quad w.2 off stop = .ok (w.1, data) →
      (w.1.rangeBytes c.privd .store c.dsp c.dst off stop (data.map fun e => e.bits.setWidth 8) = .ok ps → ps.Nodup →
        data.length = ps.length → (∀ p ∈ ps, s0.deadFrom quad s0.curPart p = none) →
        ∃ t, exec (.pumpPieceDone n k idx piece) s = .next t ∧ t.cur.arch = g.arch ∧ t.cur.reports = g.reports ∧
          (∀ i, i < ps.length → t.byteAt (ps.getD i 0) = (data.getD i {}).bits.setWidth 8) ∧
          (∀ b, b ∉ ps → t.byteAt b = s.byteAt b) ∧
          (c.left.filter (· ≠ piece) = [] → gone t ∧ ((Store.get g.ring c.ringAt).seq = c.seq →
            Store.get t.cur.ring c.ringAt = { Store.get g.ring c.ringAt with state := .done, done := c.written + (stop - off) })) ∧
          (c.left.filter (· ≠ piece) ≠ [] →
            { w.2 with left := c.left.filter (· ≠ piece), written := c.written + (stop - off),
                       state := .running } ∈ t.cur.cmds)) ∧
      (∀ e, w.1.rangeBytes c.privd .store c.dsp c.dst off stop (data.map fun e => e.bits.setWidth 8) = .error e →
        c.left.filter (· ≠ piece) = [] → g.reports.length < 16 → (s.team g.team).dropsWork = false →
        ∃ t rep, exec (.pumpPieceDone n k idx piece) s = .next t ∧ t.cur.arch = g.arch ∧ t.cur.reports = g.reports ++ [rep] ∧
          rep.path = .cp ∧ rep.cause = e.2 ∧ rep.ticket = c.ticket ∧ rep.space = c.dsp ∧ gone t)) ∧
    (c.kind = .pfill → ∀ i off stop quad, off + i < stop → ∃ data, s0.pieceData quad c off stop = .ok (s0, data) ∧
      data.length = stop - off ∧ (data.getD i {}).bits = (byteOf c.pat ((off + i) % 4)).setWidth 32) ∧
    (c.kind = .siph → c.ssp ≠ .w → c.ssp ≠ .g ∨ c.rows.length = 1 → ∀ src : Nat → List Nat,
      let dest (l i : Nat) : Nat := s0.placeOf c.dsp (c.dst + BitVec.ofNat 64 (l * c.len) + BitVec.ofNat 64 i)
      let all := c.rows.flatMap fun r => (List.range c.len).map (dest r.1)
      (∀ r ∈ c.rows, s0.rangeBytes c.privd .load c.ssp r.2 0 c.len [] = .ok (src r.1) ∧ (src r.1).length = c.len ∧
        ∀ p ∈ src r.1, p ∉ all ∧ s0.deadLink s0.curPart p = none) →
      s0.travels c.ssp (c.rows.flatMap fun r => src r.1) = true → (∀ r ∈ c.rows, s0.rangeWalk c.ssp r.2 0 c.len = true) →
      all.Nodup → (∀ p ∈ all, s0.deadLink s0.curPart p = none) → (s.team g.team).dropsWork = false →
      ∃ t, exec (.siphonGatherDone n k idx) s = .next t ∧ t.cur.arch = g.arch ∧ t.cur.reports = g.reports ∧ gone t ∧
        (∀ r ∈ c.rows, ∀ i, i < c.len → t.byteAt (dest r.1 i) = s.byteAt ((src r.1).getD i 0)) ∧
        ∀ b, b ∉ all → t.byteAt b = s.byteAt b) ∧
    (c.kind = .siph → (s.team g.team).dropsWork = true →
      ∃ t, exec (.siphonGatherDone n k idx) s = .next t ∧ SameBytes s t ∧ t.cur.arch = g.arch ∧ t.cur.reports = g.reports ∧ gone t)

/-! Command streams. -/

/-- From R273, R278, R281: a write to START of an idle or faulted slot of a partition starts the stream at that address with s1 holding
it, or stops it with PCWRAP or ALIGN. A held SEMWAIT that is read again goes on when its comparison holds; a timed launch is released when
WALLTIME has reached its time. The model's part: that a semaphore is read once its links are open is read in log 98, one that is poisoned
or lost in log 136, and a launch that waited for a place in log 133. -/
def Obligations.StreamsStartAndGoOn : Prop :=
  (∀ (s : State) (k p : Nat) (v : Word), k < 128 →
     ((s.stream k).state = 1 ∨ (s.stream k).state = 2 ∨ (s.stream k).part = none → exec (.streamStart k v) s = .next s) ∧
     ((s.stream k).part = some p → (s.stream k).state = 0 ∨ (s.stream k).state = 3 → (s.part p).resetting = false →
       ∃ t, exec (.streamStart k v) s = .next t ∧ t = { s with streams := t.streams } ∧
         (∀ j, j ≠ k → t.stream j = s.stream j) ∧ (t.stream k).start = (v.extractLsb' 0 57).setWidth 64 ∧
         (t.stream k).part = some p ∧
         (v.extractLsb' 57 7 = 0 → v.extractLsb' 0 3 = 0 →
           let g := (t.stream k).grp
           (t.stream k).state = 1 ∧ (t.stream k).hold = .none ∧ (t.stream k).cause = 0 ∧ g.epc = 0 ∧ g.ecause = 0 ∧ g.einfo = 0 ∧
           (∀ r, g.arch.getS r = if r = 1 then ⟨v, false, false⟩ else {}) ∧ (g.arch.slice 0).pc = v.setWidth 57 ∧
           (g.arch.slice 0).active = 1 ∧ g.arch.liveSlices = 1) ∧
         (v.extractLsb' 57 7 ≠ 0 ∨ v.extractLsb' 0 3 ≠ 0 →
           (t.stream k).state = 3 ∧ (t.stream k).grp.epc = v ∧ (t.stream k).grp.einfo = v ∧
           (t.stream k).cause = if v.extractLsb' 57 7 ≠ 0 then 0x07 else 0x14))) ∧
  ((∀ (s : State) (k : Nat) (op : SemCmp) (a v : Word) (p : Piece), (s.stream k).hold = .sem op a v → (s.stream k).grp.aq = [] →
     let s1 := (s.modStream k fun w => { w with state := 1, hold := .none }).at_ 384 k 0
     resolvePieces s1 (s1.semAccess .load .acq a 0) .load [{ addr := a, n := 8, val := 0 }] = .ok (s1, [p]) →
     s1.piecesWalk [{ addr := a, n := 8 }] = true → s1.travels .g [p.place] = true →
     s1.deadLink s1.curPart p.place = none → Inside s1 →
     let w : Word := ofBytes 64 (s.homeBytes p.place 8)
     (semHolds op w v = true → ∃ t, exec (.semwaitRecheck k) s = .next t ∧ SameBytes s t ∧ (t.stream k).state = 1 ∧
       (t.stream k).hold = .none ∧ (t.stream k).grp.arch.retired =
         (if s1.uncounted then s1.cur.arch.retired else s1.cur.arch.retired + 1)) ∧
     (semHolds op w v = false → ∃ t, exec (.semwaitRecheck k) s = .next t ∧ SameBytes s t ∧ (t.stream k).state = 2 ∧
       (t.stream k).hold = .sem op a v ∧ (t.stream k).grp = (s.stream k).grp)) ∧
   ∀ (s : State) (id : Nat), (∀ k r at_ sd, (s.stream k).hold ≠ .launch r at_ sd) → (s.launch id).held = true →
     (s.launch id).time.toNat ≤ s.time.wall.toNat →
     ∃ t, exec (.timedLaunchRelease id) s = .next t ∧ t = { s with launches := t.launches } ∧
       t.launch id = { s.launch id with held := false } ∧ ∀ j, j ≠ id → t.launch j = s.launch j)

/-- From R274, R276, R278, R281 to R283, R362, R398: in a group the stream words raise UNDEF. In a stream SEMSIG enters the queue as an
atomic with ar at SYSTEM scope, SEMWAIT goes on or holds the stream as its comparison says, and a launch writes the status of the first
check that applies, or 0 or 5 with its sequence number, or holds the stream for want of an entry. The model's part: the state of a held
stream, a time that has passed and the corners of a launch record are read in logs 50, 67 and 68, that a semaphore or a record waits for
its links in log 98, and poison on them and the upper half of the field at 0x48 in logs 134 to 136. -/
def Obligations.StreamWords : Prop :=
  ∀ (s : State) (h : Hdr) (sd sa sv : BitVec 6) (op : SemCmp) (so : SemOp),
    (s.inStream = false → Resolved s →
      let t : Trap := { cause := .undef, einfo := s.curWord }
      Traps (.launch h sd sa) s t ∧ Traps (.launchat h sd sa sv) s t ∧ Traps (.semwait h op sa sv) s t ∧
        Traps (.semsig h so sa sv) s t) ∧
    ∀ k, s.agent = .stream k → Executes s h → CleanS s sa → CleanS s sv →
      let a := s.cur.arch.valS sa
      let v := s.cur.arch.valS sv
      let holds (w : Word) : Prop := match op with
        | .eq => w = v
        | .ne => w ≠ v
        | .ge => v.toNat ≤ w.toNat
        | .gt => v.toNat < w.toNat
        | .le => w.toNat ≤ v.toNat
        | .lt => w.toNat < v.toNat
        | .any => w &&& v ≠ 0
      (QueueSettled s → issueChecks s .g .atomic [{ addr := a, n := 8, val := v }] (alignFault .g .atomic 0 a 8) = none →
        let kind : AtomicOp := match so with
          | .set => .xch
          | .add => .add
          | .or => .or
        Enqueues (.semsig h so sa sv) s { kind := .atomic kind, ty := .z64, space := .g, order := .ar, scope := .sys,
                                          pieces := [{ addr := a, n := 8, val := v }] } 0) ∧
      (s.cur.aq = [] → issueChecks s .g .load [{ addr := a, n := 8 }] (alignFault .g .load 0 a 8) = none →
        ∀ p, resolvePieces s (s.semAccess .load .acq a 0) .load [{ addr := a, n := 8, val := 0 }] = .ok (s, [p]) →
        s.piecesWalk [{ addr := a, n := 8 }] = true → s.travels .g [p.place] = true → s.deadLink s.curPart p.place = none →
        let w : Word := ofBytes 64 (s.homeBytes p.place 8)
        (holds w → Idle (.semwait h op sa sv) s) ∧
        (¬ holds w → ∃ t, exec (.semwait h op sa sv) s = .next t ∧
          t = s.modStream k fun x => { x with state := 2, hold := .sem op a v })) ∧
      (s.cur.aq = [] → a.toNat < 2 ^ 57 → a.toNat % 128 = 0 → s.gOpen s.curPart a.toNat 128 = true → ∀ bs, readRecord s a = .ok (s, bs) →
        let p := s.curPart
        let r := recordOf bs
        let st : Nat := if (s.part p).resetting then 6 else if recordOk s p bs = false then 4 else if shapeOk s p r = false then 1
          else if r.groups * r.allot > 4096 then 2 else if drawOverlaps s p r then 3 else 0
        let writes (t : State) (x : Word) : Prop := Advanced s t ∧ SameBytes s t ∧
          t.cur.arch.getS sd = (if sd = 0 then {} else ⟨x, false, false⟩) ∧ ∀ q, q ≠ sd → t.cur.arch.getS q = s.cur.arch.getS q
        let id := s.names.launch + 1
        let seq : BitVec 48 := (s.part p).nextLaunch + 1
        let late (time : Option Word) : Word := match time with
          | some x => if x.toNat < s.time.wall.toNat then 5 else 0
          | none => 0
        let full (time : Option Word) : Prop := 16 ≤ (s.part p).draws.length ∨
          (time ≠ none ∧ 16 ≤ (s.launches.filter fun l => l.2.part = p ∧ l.2.held).length)
        let launches (i : Instr) (time : Option Word) : Prop :=
          (st ≠ 0 → ∃ t, exec i s = .next t ∧ writes t (BitVec.ofNat 64 st) ∧ t.launches = s.launches ∧ t.parts = s.parts) ∧
          (st = 0 → ¬ full time → ∃ t, exec i s = .next t ∧
            writes t (seq.setWidth 64 <<< 16 ||| late time) ∧
            (t.launch id).info = r ∧ (t.launch id).seq = seq ∧ (t.launch id).part = p ∧
            (t.launch id).live = r.gx * r.gy * r.gz ∧ (t.launch id).time = time.getD s.time.wall ∧
            ((t.launch id).held = true ↔ ∃ x, time = some x ∧ s.time.wall.toNat < x.toNat) ∧
            (t.part p).nextLaunch = seq ∧
            (t.part p).draws = (s.part p).draws ++ (if r.drawLen = 0 then [] else [(id, r.drawBase, r.drawLen, r.shareDraw)])) ∧
          (st = 0 → full time → ∃ t, exec i s = .next t ∧
            t = s.modStream k fun x => { x with state := 2, hold := .launch r time sd })
        launches (.launch h sd sa) none ∧ launches (.launchat h sd sa sv) (some v))

/-! Runs. -/

/-- From R8 to R10, R55, R57, R65, R74, R287, R290, R308: a fetch reads words from the candidate's counter up to the first trailer, from
the core's held text, or from memory once the slots of its links let it; a word that cannot be fetched raises FETCH at its address. Text
that a core drops is gone. An entry that a stack waits for returns from the spill area, read as R55 lays it out. The model's part: a fetch
past 2^57 is read in log 34, that a fetch or a fill waits for its links in log 98, and text over dead links in log 113. -/
def Obligations.RunsAreFetched : Prop :=
  (∀ (s : State) (n k cd : Nat),
     let c := (s.at_ n k cd).curCand
     let s1 := s.at_ n k ((bitsOf c.slices).headD cd)
     let pc := s1.candPc
     let held := (s1.core n).textAt s1.curPart k c.slices pc
     (c.has cd = true → c.settled = true → c.run = none → c.hold = .none → s1.mayRun = true →
       let gets (ws : List Word) : Prop := ∃ t, exec (.runFetch n k cd) s = .next t ∧ SameBytes s t ∧
         t.curCand.run = some { start := pc, words := ws.dropLast, trailer := (ws.getLast?).getD 0 } ∧
         t.cur.arch = { s1.cur.arch with cands := t.cur.arch.cands }
       let may (m : Nat) : Prop := s1.textOpen pc.toNat m = true
       (∀ ws, s1.inStream = false → held = some ws → fetchCheck pc ws = none → gets ws) ∧
       (∀ ws, s1.inStream = true ∨ held = none → readText s1 25 pc.toNat = .ok ws → may ws.length → fetchCheck pc ws = none →
         gets ws ∧ ∀ i w, ws[i]? = some w → (i + 1 < ws.length → majorOf w ≠ 0x2F) ∧ pc.toNat + 8 * i < 2 ^ 57 ∧ ∃ r,
           translate s s1.curCore s1.curPart s1.privd .fetch (pc.toNat + 8 * i) = .ok r ∧
             (s1.deadLink s1.curPart r.1 = none → w = ofBytes 64 (s.homeBytes r.1 8))) ∧
       (∀ a, s1.inStream = true ∨ held = none → readText s1 25 pc.toNat = .error a →
         (∃ i, i < 25 ∧ a = pc.toNat + 8 * i) ∧
         (2 ^ 57 ≤ a ∨ ∃ e, translate s s1.curCore s1.curPart s1.privd .fetch a = .error e) ∧
         let m := (a - pc.toNat) / 8 + 1
         (may m → s1.inTurn = true → exec (.runFetch n k cd) s = .next (takeTrapAt (s1.countText pc.toNat m) (BitVec.ofNat 57 a)
           { cause := .fetch, einfo := BitVec.ofNat 64 (a % 2 ^ 57) } 0))) ∧
       (∀ ws, s1.inStream = true ∨ held = none → readText s1 25 pc.toNat = .ok ws → ¬ may ws.length →
         exec (.runFetch n k cd) s = .next s) ∧
       ∀ ws e, (if s1.inStream = false ∧ held ≠ none then held = some ws else readText s1 25 pc.toNat = .ok ws ∧ may ws.length) →
         let m := if s1.inStream = false ∧ held ≠ none then 0 else ws.length
         fetchCheck pc ws = some e → s1.inTurn = true →
           exec (.runFetch n k cd) s = .next (takeTrapAt (s1.countText pc.toNat m) e.2 e.1 0)) ∧
     ∀ start : Addr, (∃ b ∈ (s.core n).text, b.start = start) →
       ∃ t, exec (.runBufferEviction n start) s = .next t ∧ SameBytes s t ∧ t.groups = s.groups ∧
         (t.core n).text = (s.core n).text.filter fun b => b.start ≠ start) ∧
  ((∀ e : DivEntry, divOfImage e.image = e) ∧
   ∀ (s : State) (n k sl : Nat), n < 384 →
     let c := (s.at_ n k sl).curCand
     let s1 := s.at_ n k c.low
     let v := s1.slice sl
     c.has sl = true → c.hold = .fill → s1.curCand = c →
     let frees (t : State) : Prop := (∀ j, j < 8 → bit c.slices j = true → (t.slice j).needsFill = false) → t.curCand.hold = .none
     (v.div = [] → v.divSpill ≠ 0 → s1.stackOpen .load (s1.divSpillAt sl (v.divSpill - 1)) 16 = true →
       ∀ u bs, s1.spillRead (s1.divSpillAt sl (v.divSpill - 1)) 16 = .ok (u, bs) →
       ∃ t, exec (.spillFillReturn n k sl) s = .next t ∧ frees t ∧
         t.slice sl = { v with div := [divOfImage (ofBytes 128 bs)], divSpill := v.divSpill - 1 } ∧
         (∀ j, j ≠ sl → t.slice j = s1.slice j) ∧ t.cur.arch.sregs = s1.cur.arch.sregs ∧ t.cur.arch.vregs = s1.cur.arch.vregs) ∧
     (v.div ≠ [] ∨ v.divSpill = 0 → v.ret = [] → v.retSpill ≠ 0 → ∀ a, v.retIn = some a →
       ∃ t, exec (.spillFillReturn n k sl) s = .next t ∧ frees t ∧ SameBytes s t ∧
         t.slice sl = { v with ret := [a], retSpill := v.retSpill - 1, retIn := none } ∧
         (∀ j, j ≠ sl → t.slice j = s1.slice j) ∧ t.cur.arch.sregs = s1.cur.arch.sregs ∧ t.cur.arch.vregs = s1.cur.arch.vregs) ∧
     (v.div ≠ [] ∨ v.divSpill = 0 → v.ret = [] → v.retSpill ≠ 0 → v.retIn = none → s1.stackOpen .load (s1.retSpillAt sl (v.retSpill - 1)) 8 = true →
       ∀ u bs, s1.spillRead (s1.retSpillAt sl (v.retSpill - 1)) 8 = .ok (u, bs) →
       ∃ t, exec (.spillFillReturn n k sl) s = .next t ∧ frees t ∧
         t.slice sl = { v with ret := [(ofBytes 64 bs : Word).setWidth 57], retSpill := v.retSpill - 1 } ∧
         (∀ j, j ≠ sl → t.slice j = s1.slice j) ∧ t.cur.arch.sregs = s1.cur.arch.sregs ∧ t.cur.arch.vregs = s1.cur.arch.vregs))

/-- From R37 to R39, R47, R56, R59, R62, R66, R67, R195, R265: a port whose candidates have made their run-start tests starts the one it
chooses, or that one takes PREEMPT; a candidate whose tests change nothing has then made them. Of the ready candidates the port chooses
one that no test of R37 puts behind another, and an MLEASE finds its context. A stream starts its own. Tests that change slices leave each
where its last one does: past its joins (R56) and loop ends (R66), or at a loop end that raises LOOPMAX with kind 0. The model's part: the
order of these tests is read in logs 24 and 94, and which parted set of a deterministic group goes on in log 36. -/
def Obligations.RunsStart : Prop :=
  (∀ (s : State) (n p k : Nat) (c : Cand), n < 384 → p < 4 →
    let s1 := s.at_ n k c.low
    s1.curCand = c →
    (s.unsettled n p = none → ((s.core n).port p).cur = none →
      (if s.detCore n then s.chooseDet n p else s.choose n p) = some (k, c) →
      (s1.preemptDue = false → c.hold = .none ∨ c.hold = .suspended →
        ∃ t, exec (.runStart n p) s = .next t ∧ SameBytes s t ∧ ((t.core n).port p).cur = some (k, c.low) ∧
          t.curCand.started = true ∧ t.curCand.hold = .none ∧ t.curCand.readyAt = none ∧ t.curCand.slices = c.slices ∧
          (∀ r, c.run = some r →
            let r' : Run := if c.started then r else { r with passes := s.passesOf n }
            t.curCand.run = some r' ∧ ((t.core n).port p).passes = r'.passes) ∧
          (s1.needsCtx = true → ∃ x, x < 4 ∧ (s.ctx n x).holder = none ∧ (s.ctx n x).reserved = none ∧
            (t.ctx n x).reserved = some k) ∧
          t.cur.arch = { s1.cur.arch with cands := t.cur.arch.cands }) ∧
      (s1.preemptDue = true → (s.team s1.cur.team).ending = none → s1.curLaunch.info.tbase ≠ 0 →
        ∃ t, exec (.runStart n p) s = .next t ∧ SameBytes s t ∧ (t.cur.handler.map fun v => (v.cause, v.started)) = some (.preempt, false) ∧
          t.cur.epc = s1.candPc.setWidth 64 ∧ t.cur.ecause.toNat % 256 = 0x30)) ∧
    (s.unsettled n p = some (k, c) → s1.settlesPlainly = true → s1.cur.arch.cands = [c] → c.slices ≠ 0 →
      (∀ sl, sl < 8 → bit c.slices sl = true → (s1.slice sl).pc = s1.candPc ∧ (s1.slice sl).exited ≠ 0xF) →
      ∃ t, exec (.runStart n p) s = .next t ∧ SameBytes s t ∧ t.cur.arch.cands = [{ slices := c.slices, settled := true, readyAt := c.readyAt }] ∧
        (∀ sl, sl < 8 → t.slice sl = s1.slice sl) ∧ t.cur.arch.sregs = s1.cur.arch.sregs)) ∧
  (∀ (s : State) (n p : Nat), n < 384 → p < 4 →
    let at_ (x : Nat × Cand) : State := s.at_ n x.1 x.2.low
    let taken : Nat := ((List.range p).filter fun q => ((s.core n).port q).cur.isNone && (match s.choose n q with
      | some y => (at_ y).needsCtx
      | none => false)).length
    let ready := (s.candsOf n p).filter fun x => (at_ x).ready && (!(at_ x).needsCtx || decide (taken < (s.core n).freeCtxs))
    let free (x : Nat × Cand) : Prop := x ∈ ready ∧ s.mergeWaits n x.1 ready x.2 = false
    let now := (s.core n).strokes.toNat
    let since (x : Nat × Cand) : Nat := x.2.readyAt.getD now
    let inHandler (x : Nat × Cand) : Prop := (s.group n x.1).handler.isSome = true
    let old (x : Nat × Cand) : Prop := 256 ≤ now - since x
    let prio (x : Nat × Cand) : Nat := (at_ x).curLaunch.info.prio
    let sameClass (x : Nat × Cand) : Prop := x.2.runClass = ((s.core n).port p).cls.toNat
    let before (x y : Nat × Cand) : Prop := (inHandler x ∧ ¬ inHandler y) ∨ ((inHandler x ↔ inHandler y) ∧
      ((old x ∧ (old y → since x < since y)) ∨ ((old x ↔ old y) ∧ (old x → since x = since y) ∧
        (prio x < prio y ∨ (prio x = prio y ∧
          ((sameClass x ∧ ¬ sameClass y) ∨ ((sameClass x ↔ sameClass y) ∧
            (since x < since y ∨ (since x = since y ∧ (x.1 < y.1 ∨ (x.1 = y.1 ∧ x.2.low ≤ y.2.low)))))))))))
    (∀ x, s.choose n p = some x → free x ∧ ∀ y, free y → before x y) ∧ (s.choose n p = none → ∀ y, ¬ free y) ∧
    ∀ x, s.chooseDet n p = some x → (at_ x).ready = true ∧ ∀ y ∈ s.candsOf n p, s.turn n y.1 = true →
      y.2.hold = .none ∨ y.2.hold = .suspended → (s.group n y.1).handlerHolds (s.core n).stopAll y.2 = false → x.2.low ≤ y.2.low) ∧
  (∀ (s : State) (n p k : Nat) (c : Cand) (w : Nat → Slice),
    let s1 := s.at_ n k c.low
    let pred (sl : Nat) (q : BitVec 4) : BitVec 4 := sliceBits (s1.cur.arch.getP q) sl
    let last (sl : Nat) : StartTest := startTest (pred sl) (w sl)
    let mine (sl : Nat) : Prop := sl < 8 ∧ bit c.slices sl = true
    s1.curCand = c →
    (n < 384 ∧ p < 4 ∧ s.unsettled n p = some (k, c)) ∨
      (n = 384 ∧ k = p ∧ s1.mayRun = true ∧ c.slices ≠ 0 ∧ c.started = false ∧ c.settled = false) →
    (∀ sl, mine sl → ∃ m, m < settleFuel ∧ startTests (pred sl) m (s1.slice sl) = some (w sl)) →
    ((∀ sl, mine sl → last sl = .rests ∧ (w sl).needsFill = false) → (∀ d ∈ s1.cur.arch.cands, d.hold ≠ .fill) →
      ∃ t, exec (.runStart n p) s = .next t ∧ SameBytes s t ∧
        (∀ sl, sl < 8 → t.slice sl = if bit c.slices sl then w sl else s1.slice sl) ∧
        t.cur.arch.sregs = s1.cur.arch.sregs ∧ t.cur.arch.vregs = s1.cur.arch.vregs ∧ t.cur.arch.preds = s1.cur.arch.preds) ∧
    ∀ sl l, mine sl → last sl = .maximum l → (w sl).exited ≠ 0xF → TakesTraps s1 →
      (∀ j, mine j → j ≠ sl → last j = .rests ∨ (sl < j ∧ ∃ l', last j = .maximum l')) →
      ∃ t, exec (.runStart n p) s = .next t ∧ SameBytes s t ∧ t.cur.epc = (w sl).pc.setWidth 64 ∧
        t.cur.einfo = BitVec.ofNat 64 (256 * (l.trips + 1) + l.id.toNat) ∧ t.cur.ecause.toNat % 256 = 0x08 ∧
        (∃ h, t.cur.handler = some h ∧ h.cause = .loopmax) ∧ (t.slice sl).active = (w sl).active ∧ (t.slice sl).loops = (w sl).loops ∧
        (t.slice sl).div = (w sl).div ∧ t.cur.arch.sregs = s1.cur.arch.sregs ∧ t.cur.arch.vregs = s1.cur.arch.vregs) ∧
  ∀ (s : State) (k : Nat),
    let s1 := s.at_ 384 k 0
    s1.mayRun = true → s1.curCand.slices ≠ 0 → s1.curCand.started = false → s1.curCand.settled = true → s1.ready = true →
    s1.curCand.hold = .none →
    ∃ t, exec (.runStart 384 k) s = .next t ∧ SameBytes s t ∧ t.curCand.started = true ∧
      t.cur.arch = { s1.cur.arch with cands := t.cur.arch.cands }


/-! Launches and teams. -/

/-- From R24 to R27, R29 to R32, R93, R143, R278: a batch enters the queue of the next quadrant of the rotation, its teams numbered on
from the launch's last; a team that heads a queue is placed on the core chosen for it, with its slots LOADING, its registers as R32 says
and its scratchpad zero; the teams of a cluster are placed together, each on its core. The model's part: the blocks and the private index
are free, and the quadrant without room and the count of resident teams are the model's choices, logs 5, 29, 59 and 60. -/
def Obligations.TeamsArePlaced : Prop :=
  (∀ (s : State) (lid q : Nat),
    let l := s.launch lid
    let r := l.info
    let n := s.batchUnits lid q
    l.held = false → l.next < r.total → l.live ≠ 0 →
    (s.rotationOrder.find? fun q => (s.coresOf l.part).any (fun n => quadOf n == q) && s.batchUnits lid q != 0) = some q →
    ∃ t, exec (.dispatchBatch lid) s = .next t ∧ SameBytes s t ∧ t.groups = s.groups ∧
      t.launch lid = { l with next := l.next + n * r.clusterSize } ∧ t.names.rotate = (q + 1) % 4 ∧
      (t.queue q).length = (s.queue q).length + n * r.clusterSize ∧ (∀ p, p ≠ q → t.queue p = s.queue p) ∧
      ∀ i, i < n * r.clusterSize →
        let x := s.names.team + 1 + i
        (∃ e ∈ t.queue q, e.team = x ∧ e.prio = r.prio) ∧ (t.team x).st = .queued ∧ (t.team x).launch = lid ∧
        (t.team x).cluster = s.names.cluster + 1 + i / r.clusterSize ∧ (t.team x).x = (l.next + i) % r.gx ∧
        (t.team x).y = (l.next + i) / r.gx % r.gy ∧ (t.team x).z = (l.next + i) / r.gx / r.gy) ∧
  (∀ (s : State) (q n g0 : Nat) (e : QEntry) (rest : List QEntry) (slots : List Nat), s.queue q = e :: rest →
    let v := s.team e.team
    let l := s.launch v.launch
    let r := l.info
    r.cw = 0 → s.privRoom v.launch [e.team] = true → (s.coreSets l).findSome? (s.coreFor q e.team) = some n →
    v.record = none → v.saved = [] → s.pickSlots n r.groups = some slots → s.firstGranule n r.spGranules = some g0 →
    let base := scratchPlace n (4096 * g0)
    ∃ t, exec (.teamPlace q) s = .next t ∧ t.queue q = (s.queue q).filter (fun x => x.team ≠ e.team) ∧
      (t.team e.team).st = .placing ∧ (t.team e.team).core = n ∧ (t.team e.team).slots = slots ∧
      (t.team e.team).spGranule = g0 ∧ (t.team e.team).priv.isSome = true ∧
      (v.seq = none → (t.team e.team).seq = some (s.part l.part).nextSeq ∧
        (t.part l.part).nextSeq = (s.part l.part).nextSeq + 1) ∧
      (∀ j k : Nat, slots[j]? = some k →
        let u := t.group n k
        u.st = .loading ∧ u.team = e.team ∧ u.index = j ∧ u.allot = r.allot ∧ u.trapen = r.trapen ∧ u.ovt = r.ovt ∧
        u.seed = r.seed ∧ u.arch.flags = 0 ∧ (∀ q, u.arch.getS q = if q = 1 then ⟨r.args, false, false⟩ else {}) ∧
        (∀ sl, sl < 8 → (u.arch.slice sl).pc = r.entry) ∧
        ∀ i, i < 32 → bit u.arch.exitedMask i = decide (r.threads ≤ 32 * j + i)) ∧
      (∀ b, base ≤ b → b < base + 4096 * r.spGranules → t.byteAt b = 0) ∧
      ∀ b, b < base ∨ base + 4096 * r.spGranules ≤ b → t.byteAt b = s.byteAt b) ∧
  ∀ (s : State) (q : Nat) (e : QEntry) (rest : List QEntry) (cores : List Nat), s.queue q = e :: rest →
    let l := s.launch (s.team e.team).launch
    let ts := (s.cluster (s.team e.team).cluster).teams
    l.info.cw ≠ 0 → s.privRoom (s.team e.team).launch (ts.filter fun x => (s.team x).st != .ended) = true → ts.Nodup →
    (∀ x ∈ ts, s.recordOpen x = true) →
    (s.coreSets l).findSome? (s.rectFor q ts l.info) = some cores →
    ∃ t, exec (.clusterPlace q) s = .next t ∧ t.queue q = (s.queue q).filter (fun x => decide (x.team ∉ ts)) ∧
      (∀ p ∈ ts.zip cores, (s.team p.1).st = .queued →
        (t.team p.1).st = .placing ∧ (t.team p.1).core = p.2 ∧ (t.team p.1).priv.isSome = true) ∧
      ∀ x, x ∉ ts → t.team x = s.team x

/-- From R33, R35, R42, R243, R280, R287: once the slots of the links let the writes that each needs pass, a LOADING group whose team
waits for nothing becomes resident, and its team with the last of them; a DONE group leaves its slot, and its team retires with the last;
a team that is to end does so once its work is done; a launch whose teams have all ended writes its completion record and then adds 1 to
its semaphore. The model's part: the record of a group that has left, what CTLERR and TRETBAD carry, and how a placed team joins a save
are read in logs 65, 76 and 85, and the waits for links in log 98. -/
def Obligations.TeamsEnd : Prop :=
  (∀ (s : State) (n k : Nat),
    let g := s.group n k
    let v := s.team g.team
    (g.st = .loading → v.wakeUntil = none → v.ending = none → v.record = none → v.replay = false →
      (∀ x ∈ s.alive v.cluster, (s.team x).replay = false) → s.loadOpen g.team = true →
      ∃ t, exec (.groupLoadDone n k) s = .next t ∧
        ((s.core n).l1 = [] → SameBytes s t) ∧ (t.core n).l1 = [] ∧
        (t.group n k).st = (if g.arch.liveSlices = 0 then .done else .resident) ∧
        (t.group n k).arch.sregs = g.arch.sregs ∧ (t.group n k).arch.slices = g.arch.slices ∧
        ((∀ h ∈ s.heldGroups g.team, groupKey h.1 h.2.1 ≠ groupKey n k → h.2.2.st ≠ .loading) →
          let others := (s.cluster v.cluster).teams.filter (· ≠ g.team)
          let saves (y : Nat) : Prop := (s.team y).st = .saving ∨ (s.team y).st = .saved
          let drops (y : Nat) : Prop := (s.team y).st = .discarding ∨ (s.team y).st = .discarded
          (∀ y ∈ others, ¬ drops y) →
          ((∀ y ∈ others, ¬ saves y) → (t.team g.team).st = .resident) ∧
          ((∃ y ∈ others, saves y) → (t.team g.team).st = .saving))) ∧
    (g.st = .done → g.lease = none → s.drained n g = true → v.st = .resident → v.ending = none → s.ownOpen n k = true →
      ∃ t, exec (.groupFree n k) s = .next t ∧ t.group n k = {} ∧
        ((∃ h ∈ s.heldGroups g.team, groupKey h.1 h.2.1 ≠ groupKey n k) → t.launches = s.launches ∧
          (∀ x, x ≠ g.team → t.team x = s.team x) ∧
          t.team g.team = { v with gone := (g.index, { g with st := .free }) :: v.gone.filter fun x => x.1 != g.index }) ∧
        ((∀ h ∈ s.heldGroups g.team, groupKey h.1 h.2.1 = groupKey n k) →
          (t.team g.team).st = .ended ∧ (t.team g.team).status = .retired ∧ (t.team g.team).slots = [] ∧
          (t.launch v.launch).live = (s.launch v.launch).live - 1 ∧ (t.launch v.launch).first = (s.launch v.launch).first))) ∧
  (∀ (s : State) (x : Nat) (st : EndStatus) (ec pc info : Word),
    let v := s.team x
    v.ending = some (st, ec, pc, info) → (∀ h ∈ s.heldGroups x, s.drained h.1 h.2.2 = true ∧ s.ownOpen h.1 h.2.1 = true) →
    ∃ t, exec (.teamEnd x) s = .next t ∧ (t.team x).st = .ended ∧ (t.team x).status = st ∧ (t.team x).slots = [] ∧
      (∀ h ∈ s.heldGroups x, (t.group h.1 h.2.1).st = .free) ∧
      (t.launch v.launch).live = (s.launch v.launch).live - 1 ∧
      (st ≠ .retired → (t.launch v.launch).first = some ((s.launch v.launch).first.getD (st, ec, pc, info)))) ∧
  ∀ (s : State) (lid : Nat),
    let l := s.launch lid
    l.complete = false → l.live = 0 → l.info.total ≤ l.next → (∀ k r tm sd, (s.stream k).hold ≠ .launch r tm sd) →
    s.completionOpen l = true →
    ∃ t, exec (.launchComplete lid) s = .next t ∧ t.launch lid = { l with complete := true } ∧
      (t.part l.part).draws = (s.part l.part).draws.filter (fun d => d.1 ≠ lid) ∧
      (l.info.record = 0 → l.info.sema = 0 → SameBytes s t) ∧
      (l.info.record ≠ 0 → l.info.sema = 0 → ∀ ps, s.gPlaces 384 l.part true .store l.info.record.toNat 32 = .ok ps → ps.Nodup →
        (∀ p ∈ ps, s.deadFrom 0 l.part p = none) →
        let word (i : Nat) : Word := match l.first, i with
          | some (st, _, _, _), 0 => BitVec.ofNat 64 st.code
          | some (_, ec, _, _), 1 => ec
          | some (_, _, pc, _), 2 => pc
          | some (_, _, _, info), 3 => info
          | _, _ => 0
        (∀ i, i < 32 → t.byteAt (ps.getD i 0) = byteOf (word (i / 8)) (i % 8)) ∧ ∀ b, b ∉ ps → t.byteAt b = s.byteAt b) ∧
      (l.info.record = 0 → l.info.sema ≠ 0 → ∀ ps, s.gPlaces 384 l.part true .atomic l.info.sema.toNat 8 = .ok ps → ps.Nodup →
        (∀ p ∈ ps, s.deadFrom 0 l.part p = none) →
        (∀ i, i < 8 → t.byteAt (ps.getD i 0) = byteOf ((ofBytes 64 (ps.map s.byteAt) : Word) + 1) i) ∧
          ∀ b, b ∉ ps → t.byteAt b = s.byteAt b) ∧
      (l.info.record ≠ 0 → l.info.sema ≠ 0 →
        ∀ u ps, exec (.launchComplete lid) (s.setLaunch lid { l with info := { l.info with sema := 0 } }) = .next u →
        u.gPlaces 384 l.part true .atomic l.info.sema.toNat 8 = .ok ps → ps.Nodup → (∀ p ∈ ps, s.deadFrom 0 l.part p = none) →
        (∀ i, i < 8 → t.byteAt (ps.getD i 0) = byteOf ((ofBytes 64 (ps.map u.byteAt) : Word) + 1) i) ∧
          ∀ b, b ∉ ps → t.byteAt b = u.byteAt b)

/-! Pre-emption and the Sump. -/

/-- From R257, R259 to R263, R266, R285: a request over cores that hold one cluster without a decision makes the decision of R259; the
teams of a cluster begin to be saved when a drain misses its deadline, a window expires or every group is parked; a withdrawal takes an
unserved decision back. The model's part: which groups count as parked and what a withdrawal takes back are read in logs 73 and 75. -/
def Obligations.PreemptionRequests : Prop :=
  (∀ (s : State) (p d c : Nat),
    let cores := (bitsOf (s.part p).prqCores).filter (s.part p).cores.contains
    let info (x : Nat) : LaunchRec := (s.launch (s.team x).launch).info
    let ts := (s.cluster c).teams
    let fits : Prop := ∀ x ∈ ts, (info x).budget ≠ 0 ∧ (info x).budget.toNat - (s.team x).used ≤ d
    let cost := s.clusterCost c
    d ≠ 0 → s.clustersOn p cores = [c] → (s.cluster c).decision = none →
    let decides (t : State) (k : Nat) : Prop := (t.cluster c).decision = some k ∧ (t.cluster c).deadline = d ∧
      (t.cluster c).pdeadline = if k = 1 then BitVec.ofNat 32 (d - cost) else 0
    ∃ t, exec (.preemptRequest p d) s = .next t ∧ SameBytes s t ∧
      (t.part p).requests = (s.part p).requests ++ [(s.names.request + 1, cores)] ∧
      (fits → decides t 0 ∧ t.teams = s.teams) ∧
      (¬ fits → cost ≤ d → decides t 1 ∧ t.teams = s.teams) ∧
      (¬ fits → d < cost → (s.launch (s.cluster c).launch).info.restart = true →
        decides t 2 ∧ ∀ x ∈ ts, (s.team x).st = .resident → (t.team x).st = .discarding) ∧
      (¬ fits → d < cost → (s.launch (s.cluster c).launch).info.restart = false →
        decides t 3 ∧ ∀ x ∈ ts, (s.team x).st = .resident → (t.team x).st = .saving ∧ (t.team x).kind = 4)) ∧
  (∀ (s : State) (p : Nat), (s.part p).requests ≠ [] →
    ∃ t, exec (.preemptWithdraw p) s = .next t ∧ (t.part p).requests = [] ∧
      ∀ c ∈ s.clusters.map (·.1), (s.cluster c).request ≠ 0 → (∃ r ∈ (s.part p).requests, r.1 = (s.cluster c).request) →
        (∀ x ∈ (s.cluster c).teams, (s.team x).st = .resident ∨ (s.team x).st = .placing ∨ (s.team x).st = .ended) →
        (t.cluster c).decision = none ∧ (t.cluster c).request = 0 ∧ (t.cluster c).pdeadline = 0 ∧
        ∀ x ∈ (s.cluster c).teams, ∀ h ∈ s.heldGroups x, ∀ d ∈ (t.group h.1 h.2.1).arch.cands, d.hold ≠ .parked) ∧
  ∀ (s : State) (cl : Nat),
    let c := s.cluster cl
    (∃ x ∈ c.teams, (s.team x).st = .resident) →
    let saves (i : Instr) (kd : Nat) (d : Option Nat) : Prop := ∃ t, exec i s = .next t ∧ SameBytes s t ∧ t.groups = s.groups ∧
      (t.cluster cl).decision = d ∧
      ∀ x, t.team x = if x ∈ c.teams ∧ (s.team x).st = .resident then { s.team x with st := .saving, kind := kd } else s.team x
    (c.decision = some 0 → c.deadline = 0 → saves (.drainDeadline cl) 4 (some 3)) ∧
    (c.decision = some 1 → c.pdeadline = 0 → saves (.windowExpiry cl) 3 (some 1)) ∧
    (c.decision = some 1 → c.yielded = true → (∀ x ∈ c.teams, s.teamParked x = true) → saves (.clusterParked cl) 2 (some 1))

/-- From R42 to R44, R254 to R258, R266, R287: once the slots of the links let its traffic pass, a team whose groups have stopped and
whose work is done is written to the Sump and gives up its core; with no room it ends with SUMPFULL, and when a sector cannot be written
with SUMPFAULT. A discarded team gives up its core. RESUME and KILL in a record bring its team back with its cluster, or end it. The
model's part: the gaps of a record, a save that fails and a record that cannot be read are the model's choices, logs 52 to 55, and so are
that its traffic waits for its links at once and what becomes of the tiles of a lease, logs 98 and 119; ALLOT of 256 is read in log 132.
-/
def Obligations.TeamsAreSaved : Prop :=
  ∀ (s : State) (x : Nat),
    let v := s.team x
    let l := s.launch v.launch
    let p := s.part l.part
    let c := s.core v.core
    let ended (i : Instr) (st : EndStatus) : Prop := ∃ t, exec i s = .next t ∧ (t.team x).st = .ended ∧ (t.team x).status = st ∧
      (t.team x).record = none ∧ (t.launch v.launch).live = l.live - 1
    let ready (y : Nat) : Prop := (s.team y).st = .discarded ∨ ((s.team y).st = .saved ∧ (s.team y).requeued = true)
    let back (t : State) (q : Nat) : Prop := (t.team x).st = .queued ∧ ∃ e ∈ t.queue q, e.team = x
    (v.st = .saving → v.ending = none → s.quiet x true = true → s.saveOpen x = true →
      let s0 := s.setTeam x { v with current := if l.info.det then c.current else none, idle := c.idle, spPoison := s.scratchPoison x }
      let gs := s0.savedGroups x
      let size := recordSize l.info gs
      let control := if preemptKind v.kind && (s.cluster v.cluster).request = 0 then 1 else 0
      let u := (s0.heldGroups x).foldl (fun (w : State) h => (w.at_ h.1 h.2.1 0).flushOwn) s0
      let img := u.recordImage x control gs
      (p.firstFit (ceilDiv size 4096) = none →
        ∃ t, exec (.teamSave x) s = .next t ∧ SameBytes s t ∧ ((t.team x).ending.map (·.1)) = some .sumpfull) ∧
      ∀ g, p.firstFit (ceilDiv size 4096) = some g →
        let base : Word := p.sumpBase + BitVec.ofNat 64 (4096 * g)
        let body := u.writeSectors l.part base img (size / 32 - 1) 32
        let all := body.2 && (body.1.writeSectors l.part base img 1 0).2
        (all = true → ∃ t, exec (.teamSave x) s = .next t ∧ (t.team x).st = .saved ∧ (t.team x).record = some base ∧
          (t.team x).slots = [] ∧ (t.team x).saved = gs ∧ (∀ h ∈ s.heldGroups x, (t.group h.1 h.2.1).st = .free) ∧
          (t.part l.part).sumpHead = p.sumpHead + 1 ∧
          (t.part l.part).sumpUsed = p.sumpUsed ++ [(g, ceilDiv size 4096)]) ∧
        (all = false → ∃ t, exec (.teamSave x) s = .next t ∧ ((t.team x).ending.map (·.1)) = some .sumpfault) ∧
        (∀ (ps : Nat → Nat) (ls : List Nat),
          let same (w : State) : Prop := w = { u with mem := w.mem, poison := w.poison } ∧
            ∀ a, (∀ o, o < size → ps o ≠ a) → w.byteAt a = u.byteAt a
          (∀ w, same w → (∀ o, o < size → w.gPlace 384 l.part true .store (base.toNat + o) = .ok (ps o)) ∧
            w.gPlaces 384 l.part true .store (p.sumpLog.toNat + 8 * p.sumpHead.toNat) 8 = .ok ls) →
          (∀ o o', o < size → o' < size → ps o = ps o' → o = o') → ls.Nodup →
          (∀ o, o < size → ps o ∉ ls ∧ s.deadFrom 0 l.part (ps o) = none) → (∀ a ∈ ls, s.deadFrom 0 l.part a = none) →
          ∃ t, exec (.teamSave x) s = .next t ∧ (∀ o, o < size → t.byteAt (ps o) = byteOf (img (o / 8 * 8)).1 (o % 8)) ∧
            (∀ i, i < 8 → t.byteAt (ls.getD i 0) =
              byteOf (BitVec.ofNat 64 (v.kind * 2 ^ 57) ||| (base.extractLsb' 0 57).setWidth 64) i) ∧
            ∀ a, a ∉ ls → (∀ o, o < size → ps o ≠ a) → t.byteAt a = u.byteAt a) ∧
        let word (o : Nat) : Word := (img o).1
        word 0 = BitVec.ofNat 64 (0x5D51 * 2 ^ 48 + 0x01 * 2 ^ 40 + v.kind * 2 + 1) ∧ word 8 = BitVec.ofNat 64 control ∧
        word 0x10 = v.seq.getD 0 ∧ word 0x18 = l.seq.setWidth 64 ∧ word 0x20 = BitVec.ofNat 64 v.x ∧
        word 0x28 = BitVec.ofNat 64 v.y ∧ word 0x30 = BitVec.ofNat 64 v.z ∧ word 0x50 = BitVec.ofNat 64 v.used ∧
        (∀ i, i < 512 * l.info.spGranules →
          word (0x1000 + 8 * i) = ofBytes 64 (u.homeBytes (scratchPlace v.core (v.spBase + 8 * i)) 8)) ∧
        ∀ j gc, gs[j]? = some gc →
          let bytes (e : Group × Option Ctx) : Nat :=
            (0x4000 + 128 * l.info.allot + 0x1000 * ((e.2.map (·.ntiles)).getD 0) + 4095) / 4096 * 4096
          let at_ (o : Nat) : Word := word (0x1000 + 4096 * l.info.spGranules + ((gs.take j).map bytes).sum + o)
          at_ 0 = gc.1.epc ∧ at_ 8 = gc.1.ecause ∧ at_ 0x10 = gc.1.einfo ∧ at_ 0x18 = gc.1.arch.flags.setWidth 64 ∧
          at_ 0x20 = gc.1.trapen.setWidth 64 ∧ at_ 0x28 = gc.1.arch.retired ∧ at_ 0x30 = gc.1.seed ∧
          (∀ r, r < 64 → at_ (0x100 + 8 * r) = (Store.get gc.1.arch.sregs r).bits) ∧
          (∀ sl, sl < 8 → at_ (0x400 + 0x400 * sl) = (gc.1.arch.slice sl).pc.setWidth 64) ∧
          ∀ r i, r < l.info.allot → i < 16 →
            at_ (0x4000 + 128 * r + 8 * i) = (gc.1.arch.getV r (2 * i + 1)).bits ++ (gc.1.arch.getV r (2 * i)).bits) ∧
    (v.st = .discarding → v.ending = none → s.quiet x false = true → x ∈ (s.cluster v.cluster).teams →
      (∀ h ∈ s.heldGroups x, s.ownOpen h.1 h.2.1 = true) →
      ((∃ y ∈ s.alive v.cluster, y ≠ x ∧ ¬ ready y) →
        ∃ t, exec (.teamDiscard x) s = .next t ∧ (t.team x).st = .discarded ∧ (t.team x).slots = [] ∧ (t.team x).priv = none) ∧
      ((∀ y ∈ s.alive v.cluster, (y ≠ x → ready y) ∧ (s.leaveCore x (discardedTeam v)).recordOpen y = true) →
        ∀ q, s.returnQuad v.cluster = some q →
        ∃ t, exec (.teamDiscard x) s = .next t ∧ back t q ∧ (t.team x).slots = [])) ∧
    (s.recordOpen x = false → exec (.sumpResume x) s = .next s ∧ exec (.sumpKill x) s = .next s) ∧
    (v.resumeDue = true → s.recordOpen x = true → (v.record.all fun b => s.gOpen l.part (b.toNat + 8) 8) = true → v.record ≠ none →
      ∃ t, exec (.sumpResume x) s = .next t ∧ (t.team x).resumeDue = false) ∧
    (s.recordOpen x = true → v.resumeDue = false → s.controlOf x = 1 → v.requeued = false → s.recordGood x = false →
      ended (.sumpResume x) .sumpbad) ∧
    (s.recordOpen x = true → v.resumeDue = false → s.controlOf x = 1 → v.requeued = false → s.recordGood x = true →
      x ∈ (s.cluster v.cluster).teams →
      ((∃ y ∈ s.alive v.cluster, y ≠ x ∧ ¬ ready y) →
        ∃ t, exec (.sumpResume x) s = .next t ∧ SameBytes s t ∧ t.team x = { v with requeued := true }) ∧
      ((∀ y ∈ s.alive v.cluster, (y ≠ x → ready y) ∧ s.recordOpen y = true) → ∀ q, s.returnQuad v.cluster = some q →
        ∃ t, exec (.sumpResume x) s = .next t ∧ back t q)) ∧
    (s.recordOpen x = true → s.controlOf x = 2 → ended (.sumpKill x) .killed)

/-! Power, time and links. -/

/-- From R75, R76, R91 to R94: a stroke of a core whose clock runs has the length of the slowest class in execution and counts the issue
of its ports, with the lane steps, special-function results and table reads of a word at its last pass, its engine's operation and its
clock tree; the 128th closes the counts, of which the activity estimate takes Σ w_i × c_i into the charge of the power cluster, with the
weights of before a write since the last boundary, before the core's next stroke. When the 2 µs of a domain's interval are over, the
arbiter moves every PASSES by the rule of R92, with grants that equal the demands or fill the budget up to one level, relaxes none that
was not awake for the whole interval, and sets OVLD exactly when a cluster exceeds its grant at PASSES 4; no nanosecond passes before. A
gated cluster wakes with PASSES 4. The model's part: the unit of the sensed currents, the start of the intervals, when a clock runs,
counts that nothing gives and the interval of a wake are the model's choices, logs 78, 89, 90 and 103. -/
def Obligations.PowerArbiter : Prop :=
  (∀ (s : State) (n : Nat) (r : List Move), s.agenda = .stroke n :: r → s.coreEnabled n = true → n < 384 →
    let c := s.core n
    let s0 := { s with agenda := r }
    (c.due = false → s.clockRuns n = true → (c.activity.map (·.1)).Nodup →
      ∃ (t : State) (cls : Nat), step s = .next t ∧
        (∀ w ∈ c.windows, w.wait = 0 → w.cls ≤ cls) ∧ (c.engBusy ≠ 0 → c.engCls ≤ cls) ∧
        (cls = 0 ∨ (∃ w ∈ c.windows, w.wait = 0 ∧ w.cls = cls) ∨ (c.engBusy ≠ 0 ∧ c.engCls = cls)) ∧
        let count (i : Nat) : Nat :=
          ((List.range 4).countP fun p => (c.port p).busy ≠ 0 ∧ (c.port p).word.map (4 * p + ·) = some i)
            + (((List.range 4).filter fun p => (c.port p).busy = 1).map fun p =>
                (((c.port p).work.filter fun e => e.1 = i).map (·.2)).sum).sum
            + (if c.engBusy ≠ 0 ∧ c.engEvent = some i then 1 else 0) + (if i = 36 + cls then 1 else 0)
        (t.core n).strokes = c.strokes + 1 ∧
        (t.core n).elapsed = c.elapsed +
          (if cls = 0 then 80 else if cls = 1 then 94 else if cls = 2 then 116 else (160 : Word)) ∧
        (c.since < 127 → (t.core n).since = c.since + 1 ∧ (t.core n).due = false ∧ (t.core n).tally = c.tally ∧
          ∀ i, Store.get (t.core n).activity i = Store.get c.activity i + count i) ∧
        (127 ≤ c.since → (t.core n).since = 0 ∧ (t.core n).due = true ∧ (t.core n).activity = [] ∧
          ∀ i, Store.get (t.core n).tally i = Store.get c.tally i + Store.get c.activity i + count i)) ∧
    (c.due = true → ∃ (counts : List Nat) (u w : State), exec (.activityEstimate (powerOf n) counts) s0 = .next u ∧ w = { u with fresh := w.fresh } ∧
      step s = step { w with agenda := s.agenda })) ∧
  (∀ (s : State) (pc : Nat) (counts : List Nat), pc < 64 →
    let due := s.cores.filter fun e => powerOf e.1 = pc ∧ e.2.due = true
    let v := s.powerCluster pc
    let c (i : Nat) : Nat := (due.map fun e => Store.get e.2.tally i).sum + if i < 24 ∨ (36 ≤ i ∧ i < 40) then 0 else counts.getD i 0
    (due = [] → exec (.activityEstimate pc counts) s = .next s) ∧
    (due ≠ [] → ∃ t, exec (.activityEstimate pc counts) s = .next t ∧ t = { s with power := t.power, cores := t.cores } ∧
      t.power = { s.power with clusters := t.power.clusters } ∧
      t.powerCluster pc = { v with late := none, charge := v.charge +
        ((List.range 48).map fun i => (Store.get (v.late.getD s.power.weights) i).toNat * c i).sum } ∧
      (∀ d, d ≠ pc → t.powerCluster d = s.powerCluster d) ∧
      ∀ n, t.core n = if n ∈ due.map (·.1) then { s.core n with tally := [], due := false } else s.core n)) ∧
  (∀ (s : State) (r : List Move), s.agenda = .time :: r →
    let s0 := { s with agenda := r }
    let ripe (q : Nat) : Prop := Store.get s.power.began q + 2000 ≤ s.power.nanos
    ((∀ q, q < 4 → ¬ ripe q) → ∃ t, step s = .next t ∧
      t = { s0 with time := t.time, power := { s.power with nanos := s.power.nanos + 1 } }) ∧
    ∀ q, q < 4 → ripe q → s.power.nanos < Store.get s.power.began q + 4000 → (∀ j, j < q → ¬ ripe j) →
      ∃ (sensed : List Nat) (u w : State), exec (.arbiterInterval q sensed) s0 = .next u ∧ w = { u with fresh := w.fresh } ∧
        step s = step { w with agenda := s.agenda }) ∧
  (∀ (s : State) (q : Nat) (sensed : List Nat), q < 4 →
    let began := Store.get s.power.began q
    let ids := (List.range 16).map (16 * q + ·)
    let cur (c : Nat) : Nat := if bit s.power.estimate q then (s.powerCluster c).charge else sensed.getD (c % 16) 0
    let passes (c : Nat) : Nat := (s.powerCluster c).passes
    let demand (c : Nat) : Nat := cur c * passes c
    let total := (ids.map demand).sum
    let budget := 8000000 * (Store.get s.power.budget q).toNat
    (s.power.nanos < began + 2000 → exec (.arbiterInterval q sensed) s = .next s) ∧
    (began + 2000 ≤ s.power.nanos →
    ∃ (t : State) (a b : Nat), exec (.arbiterInterval q sensed) s = .next t ∧ t = { s with power := t.power } ∧ 0 < b ∧
      (total ≤ budget → ∀ c ∈ ids, demand c * b ≤ a) ∧
      (budget < total → (ids.map fun c => min (demand c * b) a).sum = budget * b) ∧
      (∀ c ∈ ids,
        let grant := min (demand c * b) a
        let next := if grant < cur c * b ∧ passes c < 4 then 2 * passes c
          else if 1 < passes c ∧ 2 * (cur c * b) * 16 ≤ grant * 15 then passes c / 2 else passes c
        (t.powerCluster c).passes = (if (s.powerCluster c).woke ≤ began then next else max (passes c) next) ∧
        (t.powerCluster c).charge = 0 ∧ ((t.powerCluster c).exceeded = true ↔ grant < cur c * b) ∧
        ((t.powerCluster c).gated = true ↔ (s.powerCluster c).gated = true ∨
          ((s.powerCluster c).ran = false ∧ s.clusterRuns c = false))) ∧
      (bit t.power.ovld q = true ↔ ∃ c ∈ ids, passes c = 4 ∧ min (demand c * b) a < cur c * b) ∧
      (∀ i, i < 4 → i ≠ q → bit t.power.ovld i = bit s.power.ovld i) ∧
      (∀ i, Store.get t.power.began i = if i = q then began + 2000 else Store.get s.power.began i) ∧
      ∀ c, c / 16 ≠ q → t.powerCluster c = s.powerCluster c)) ∧
  ∀ (s : State) (pc : Nat), (s.powerCluster pc).gated = true → (s.powerCluster pc).waking = true →
    (∃ x ∈ s.teams, powerOf x.2.core = pc ∧ ∃ w, x.2.wakeUntil = some w ∧ w ≤ s.power.nanos) →
    ∃ t, exec (.powerWake pc) s = .next t ∧ t.groups = s.groups ∧ SameBytes s t ∧
      t.powerCluster pc = { s.powerCluster pc with gated := false, waking := false, passes := 4, woke := s.power.nanos } ∧
      ∀ x, powerOf (s.team x).core = pc → (t.team x).wakeUntil = none

/-- From R286 to R289, R457: the first lock or TSEED sets the time base, forward only; later corrections are slewed, one nanosecond in ten
thousand. The registers, states and tables of a link change as its events say, and nothing else does. The model's part: the place of a
slew's steps, a second TSEED and the nanosecond of an OFFSET are the model's choices, logs 25, 62 and 63. -/
def Obligations.TimeAndLinks : Prop :=
  ∀ (s : State),
    let set (v : Word) (lock : Bool) : Time :=
      if s.time.wall.toNat ≤ v.toNat then { s.time with wall := v, set := true, lock := lock }
      else { s.time with set := true, slew := (v.toNat : Int) - s.time.wall.toNat, lock := lock }
    (∀ v, (s.time.set = false → exec (.tseed v) s = .next { s with time := set v s.time.lock }) ∧
      (s.time.set = true → exec (.tseed v) s = .next s) ∧
      (s.time.set = false → exec (.timeLock v) s = .next { s with time := set v true }) ∧
      (s.time.set = true → exec (.timeLock v) s = .next { s with time :=
        { s.time with slew := (v.toNat : Int) - s.time.wall.toNat, lock := true } })) ∧
    exec .timeLockLoss s = .next { s with time := { s.time with lock := false } } ∧
    (∀ d, exec (.ieee1588EventMessage d) s = .next { s with time := { s.time with slew := d } }) ∧
    (∀ r, s.agenda = .time :: r → ∃ t, step s = .next t ∧ t.time =
      let same := { s.time with wall := s.time.wall + 1, since := min 9999 (s.time.since + 1) }
      if s.time.slew = 0 ∨ s.time.since < 9999 then same
      else if s.time.slew < 0 then { s.time with slew := s.time.slew + 1, since := 0 }
      else { s.time with wall := s.time.wall + 2, slew := s.time.slew - 1, since := 0 }) ∧
    ∀ k, k < 23 → (k < 6 ∨ k = 22 ∨ ¬ (k - 6) ∈ s.fuses.noPorts) →
      let l := s.link k
      let pos := (((s.time.wall.toNat : Int) + l.offset.toInt) % 25600).toNat
      let gives (i : Instr) (w : Link) : Prop := ∃ t, exec i s = .next t ∧ t = { s with links := t.links } ∧ t.link k = w ∧
        ∀ j, j ≠ k → t.link j = s.link j
      (∀ v, gives (.acttime k v) { l with acttime := v, armed := true }) ∧
      (l.armed = true → pos < 100 → l.acttime.toNat + pos ≤ s.time.wall.toNat →
        gives (.slotTableSwitch k) { l with table := l.shadow, armed := false }) ∧
      (∀ o, l.offsetNext = some o → pos % 100 < 2 → gives (.slotBoundary k) { l with offset := o, offsetNext := none }) ∧
      (l.up = true → gives (.linkDown k) { l with up := false, downSince := some s.power.nanos }) ∧
      (l.up = false → gives (.linkUp k) { l with up := true, downSince := none, dead := false }) ∧
      (∀ w, l.downSince = some w → l.dead = false →
        (w + 1000000 ≤ s.power.nanos → gives (.linkDownTimeout k) { l with dead := true }) ∧
        (s.power.nanos < w + 1000000 → exec (.linkDownTimeout k) s = .next s)) ∧
      ∃ t, exec (.linkFlitResend k) s = .next t ∧ t = { s with errors := t.errors } ∧
        ∀ n, Store.get t.errors n = if n = 32 + k then Store.get s.errors n + 1 else Store.get s.errors n

/-! The device. -/

/-- From R140, R141, R284, R286, R292, R293: a partition reset stops its streams, holds its launches to KILLED and kills its teams; its
last step clears its buffers and tables. Tenants come and go with what their slices hold; an assignment gives a partition its resources. A
start that passes its signature leaves the reset state with what it keeps, and one that fails halts the device; a quote holds the
measurement log, the partition configuration and the nonce. The model's part: KILLED after a reset, the fault of a halted start and the
condition of an assignment are the model's choices, logs 56, 64 and 77, what an assignment leaves of lookup tables and stream slots is
read in logs 130 and 131, and what a start leaves rests on those for the reset, logs 2, 3, 8, 11, 12 and 13. -/
def Obligations.ResetsAndStarts : Prop :=
  ∀ (s : State),
    let zeroed (t : State) (sl : List Nat) : Prop :=
      (∀ i ∈ sl, ∀ o, o < 0x800000 → t.byteAt (cisternPlace i o) = 0) ∧
      ∀ b, (∀ i ∈ sl, b < cisternPlace i 0 ∨ cisternPlace i 0 + 0x800000 ≤ b) → t.byteAt b = s.byteAt b
    (∀ p, (s.part p).resetting = true → exec (.partitionReset p) s = .next s) ∧
    (∀ p, (s.part p).resetting = false → (s.launches.map (·.1)).Nodup → (s.streams.map (·.1)).Nodup → (s.teams.map (·.1)).Nodup →
      ∃ t, exec (.partitionReset p) s = .next t ∧ (t.part p).resetting = true ∧ (t.part p).requests = [] ∧
        (∀ k, (s.stream k).part = some p → (t.stream k).state = 0 ∧ (t.stream k).hold = .none) ∧
        (∀ k, (s.stream k).part ≠ some p → t.stream k = s.stream k) ∧
        (∀ e ∈ s.launches, e.2.part = p → e.2.complete = false → (t.launch e.1).held = false ∧
          (t.launch e.1).next = e.2.info.total ∧ (t.launch e.1).first = some (.killed, 0, 0, 0)) ∧
        (∀ x ∈ s.liveTeams p, if (s.team x).holds (s.team x).core then (t.team x).ending.isSome = true
          else (t.team x).st = .ended ∧ (t.team x).status = .killed) ∧
        ∀ j, j ≠ p → t.part j = s.part j) ∧
    (∀ p, (s.part p).resetting = true → s.liveTeams p = [] → (∀ e ∈ s.launches, e.2.part = p → e.2.complete = true) →
      ∃ t, exec (.partitionResetDone p) s = .next t ∧ (t.part p).resetting = false ∧ (t.part p).draws = [] ∧
        (∀ n ∈ (s.part p).cores, (t.core n).valve = [] ∧ (t.core n).lut = {}) ∧
        zeroed t ((s.part p).cacheSlices ++ (s.part p).bufSlices) ∧ t.groups = s.groups ∧ ∀ j, j ≠ p → t.part j = s.part j) ∧
    (∀ x : BitVec 32,
      (x ∉ s.tenants → exec (.tenantCreate x) s = .next { s with tenants := s.tenants ++ [x] }) ∧
      (x ∈ s.tenants → exec (.tenantCreate x) s = .next s ∧
        ∃ t, exec (.tenantTeardown x) s = .next t ∧ t.tenants = s.tenants.filter (· ≠ x) ∧ t.groups = s.groups ∧
          zeroed t ((s.parts.filter fun e => e.2.tenant = x).flatMap fun e => e.2.cacheSlices ++ e.2.bufSlices))) ∧
    (∀ (p : Nat) (a : Assignment), s.mayAssign p a = true →
      let v := s.part p
      ∃ t, exec (.firmwareResourceAssign p a) s = .next t ∧ t.groups = s.groups ∧
        t.part p = { v with ident := a.ident, tenant := a.tenant, cores := a.cores, channels := a.channels,
                            cacheSlices := a.cacheSlices, bufSlices := a.bufSlices, pumps := a.pumps, aqPorts := a.ports,
                            dests := a.dests, peers := a.peers, timedCores := v.timedCores &&& maskOf 384 a.cores } ∧
        (∀ j, j ≠ p → t.part j = s.part j) ∧
        (∀ k, k < 128 → (t.stream k) = if k ∈ a.streams then { s.stream k with part := some p }
          else if (s.stream k).part = some p then {} else s.stream k) ∧
        zeroed t ((a.cacheSlices ++ a.bufSlices).filter fun i =>
          ¬ ((i ∈ v.cacheSlices ∨ i ∈ v.bufSlices) ∧ v.tenant = a.tenant))) ∧
    (∀ x : BitVec 8, exec (.coldStart false x) s = .fault .firmwareHalt ∧ exec (.warmStart false) s = .fault .firmwareHalt ∧
      ∃ t u, exec (.coldStart true x) s = .next t ∧ exec (.warmStart true) s = .next u ∧
        t.time = {} ∧ t.errors = [] ∧ t.fuses = { s.fuses with stepping := x } ∧ u.time = s.time ∧ u.errors = s.errors ∧
        u.fuses = s.fuses ∧ t.power = { weights := s.fuses.weights } ∧ u.power = t.power ∧
        t.measured.length = s.measured.length + 1 ∧ u.measured.length = s.measured.length + 1 ∧
        (∀ w, w = t ∨ w = u → w.groups = [] ∧ w.teams = [] ∧ w.launches = [] ∧ w.clusters = [] ∧ w.parts = [] ∧ w.streams = [] ∧
          w.cores = [] ∧ w.links = [] ∧ w.tenants = []) ∧
        (∀ b, t.byteAt b = if hostBase ≤ b then s.byteAt b else 0) ∧
        ∀ b, u.byteAt b = if b < cisternBase ∨ hostBase ≤ b then s.byteAt b else 0) ∧
    ∀ nonce : List Byte,
      (nonce.length = 32 → ∃ t q, exec (.attestationQuote nonce) s = .next t ∧ t.quotes = s.quotes ++ [q] ∧
        t = { s with quotes := t.quotes, fresh := s.fresh + 1 } ∧ q.log = s.measured ∧ q.nonce = nonce ∧
        q.config.map (·.1) = s.parts.map (·.1) ∧ ∀ p a, (p, a) ∈ q.config → ∃ v, (p, v) ∈ s.parts ∧ a.ident = v.ident ∧
          a.tenant = v.tenant ∧ a.cores = v.cores ∧ a.channels = v.channels ∧ a.cacheSlices = v.cacheSlices ∧
          a.bufSlices = v.bufSlices ∧ a.pumps = v.pumps ∧ a.ports = v.aqPorts ∧ a.dests = v.dests ∧ a.peers = v.peers ∧
          ∀ k, k ∈ a.streams ↔ ∃ e ∈ s.streams, e.1 = k ∧ e.2.part = some p) ∧
      (nonce.length ≠ 32 → exec (.attestationQuote nonce) s = .next s)

/-- From R91, R132, R150, R205, R268, R269, R272, R289, R340, R457: a register that the host writes through its aperture has the effect of
its event, and a write of a scratchpad stores its bytes. XLINV removes the tenant's translations of its range from every core. Accesses of
the host and of peers land at home. A corrected error is counted; an uncorrectable one marks what it strikes, or ends the team; a pass of
a port that fails its residue check is executed again twice, and the third time all that it writes is marked. The model's part: what an
error in the L1 marks and what CTLERR carries are the model's choices, logs 61 and 76, and which checkpoint an error marks too is log 126.
-/
def Obligations.OutsideAccesses : Prop :=
  (∀ (s : State) (v : Word),
    let write (a : Nat) (v : Word) : Host.Outcome State Fault Refusal := exec (.registerWrite a 8 v) s
    (∀ k, k < 128 → write (0x7F00030000 + 0x40 * k) v = exec (.streamStart k v) s) ∧
    write 0x7F00038008 v = exec (.tseed v) s ∧ write 0x7F0003A000 v = exec (.rewriterStart v) s ∧
    write 0x7F00020000 v = exec (.xlinv v) s ∧
    (∀ n, n < 128 → write (0x7F00039000 + 8 * n) v = exec (.errorLogClear n) s) ∧
    (∀ k, k < 23 → write (0x7F00040408 + 0x800 * k) v = exec (.acttime k v) s) ∧
    (∀ p, p < 32 → write (0x7F00034060 + 0x100 * p) 1 = exec (.partitionReset p) s ∧
      (∀ d, 0 < d → d < 2 ^ 32 → write (0x7F00034010 + 0x100 * p) (BitVec.ofNat 64 (2 ^ 32 + d)) = exec (.preemptRequest p d) s) ∧
      ((s.part p).requests ≠ [] → write (0x7F00034010 + 0x100 * p) (BitVec.ofNat 64 (2 ^ 33)) = exec (.preemptWithdraw p) s)) ∧
    (∀ q, q < 4 → ∃ t, write (0x7F00010040 + 8 * q) v = .next t ∧ t = { s with power := t.power } ∧
      ∀ i, Store.get t.power.budget i = if i = q then v.setWidth 16 else Store.get s.power.budget i) ∧
    (∀ i, i < 48 → ∃ t, write (0x7F00010100 + 8 * i) v = .next t ∧ t = { s with power := t.power } ∧
      (∀ j, Store.get t.power.weights j = if j = i then v.setWidth 16 else Store.get s.power.weights j) ∧
      ∀ c, c < 64 → t.powerCluster c =
        { s.powerCluster c with late := some ((s.powerCluster c).late.getD s.power.weights) }) ∧
    ∀ n b len, s.coreEnabled n = true → 0 < len → b % 8 + len ≤ 8 → b + len ≤ 0xC0000 →
      ∃ t, exec (.registerWrite (0x400000 * n + 0x100000 + b) len v) s = .next t ∧ t.groups = s.groups ∧
        (∀ i, i < len → t.byteAt (scratchPlace n b + i) = byteOf v i) ∧
        ∀ a, a < scratchPlace n b ∨ scratchPlace n b + len ≤ a → t.byteAt a = s.byteAt a) ∧
  (∀ (s : State) (n : Nat), n < 128 → ∃ t, exec (.errorLogClear n) s = .next t ∧ t = { s with errors := t.errors } ∧
    ∀ i, Store.get t.errors i = if i = n then 0 else Store.get s.errors i) ∧
  (∀ (s : State) (v : Word) (size : Nat), xlinvSize (v.extractLsb' 0 4).toNat = some size →
    let lo := (v.extractLsb' 12 45).toNat * 0x1000 / size * size
    ∃ t, exec (.xlinv v) s = .next t ∧ SameBytes s t ∧ (∀ n k, (t.group n k).arch = (s.group n k).arch) ∧
      ∀ n, (t.core n).tlb = (s.core n).tlb.filter fun e =>
        ¬ (e.tenant = s.xlate.xlten ∧ e.base < lo + size ∧ lo < e.base + e.size)) ∧
  (∀ (s : State) (tg : PeerTarget),
    let place (i : Nat) : Nat := s.targetPlace tg i
    let old (n : Nat) : Word := ofBytes 64 ((List.range n).map fun i => s.byteAt (place i))
    let puts (op : PeerOp) (n : Nat) (f : Nat → Byte) : Prop := s.targetOk tg n = true → ((List.range n).map place).Nodup →
      ∃ t, exec (.peerAccess tg op) s = .next t ∧ t.groups = s.groups ∧ (∀ i, i < n → t.byteAt (place i) = f i) ∧
        ∀ a, (∀ i, i < n → a ≠ place i) → t.byteAt a = s.byteAt a
    exec (.peerAccess tg .load) s = .next s ∧
    (∀ bs, puts (.store bs) bs.length fun i => bs.getD i 0) ∧
    ∀ n, n = 4 ∨ n = 8 → ∀ v w : Word,
      puts (.add n v) n (fun i => byteOf (old n + v) i) ∧ puts (.xch n v) n (fun i => byteOf v i) ∧
      puts (.cas n v w) n fun i => if (old n).toNat = v.toNat % 2 ^ (8 * n) ∧ s.poisoned (place 0) = false then byteOf w i
        else s.byteAt (place i)) ∧
  ∀ (s : State) (u : Upset), s.upsetOk u = true →
    let counted (t : State) (c : Nat) : Prop := ∀ i, Store.get t.errors i =
      if i = c then Store.get s.errors i + 1 else Store.get s.errors i
    let counter : Option Nat := match u with
      | .vreg _ _ _ _ => some 0
      | .sreg _ _ _ _ | .temp _ _ _ _ | .stack _ _ _ _ => some 2
      | .scratch _ _ => some 4
      | .accum _ _ _ _ => some 6
      | .l1 _ _ => some 8
      | .table _ _ _ => some 10
      | .cistern _ => some 12
      | .hbm _ => some 14
      | .control _ _ | .portPass _ _ _ | .engineCheck _ _ | .engineData => none
    (∀ c, counter = some c →
      (∃ t, exec (.softError u true) s = .next t ∧ t = { s with errors := t.errors } ∧ counted t c) ∧
      ∃ t, exec (.softError u false) s = .next t ∧ SameBytes s t ∧ counted t (c + 1)) ∧
    (∀ n k r l, u = .vreg n k r l → ∃ t, exec (.softError u false) s = .next t ∧
      (∀ q i, i < 32 → (t.group n k).arch.getV q i = if q = r ∧ i = l then { (s.group n k).arch.getV q i with poison := true }
        else (s.group n k).arch.getV q i)) ∧
    (∀ i, u = .hbm i → ∃ t, exec (.softError u false) s = .next t ∧ t.poisoned (32 * i) = true) ∧
    (∀ n k, u = .control n k → exec (.softError u true) s = .next s ∧ ((s.team (s.group n k).team).ending = none →
      ∃ t, exec (.softError u false) s = .next t ∧ counted t 16 ∧
        (t.team (s.group n k).team).ending = some (.ctlerr, (s.group n k).ecause, (s.group n k).epc, (s.group n k).einfo))) ∧
    (∀ n k p w low, u = .portPass n k p →
      let port := (s.core n).port (k % 4)
      let run := (s.at_ n k low).curRun
      let had := if port.misses.1 = p then port.misses.2 else 0
      port.cur = some (k, low) → run.words[run.pos - 1]? = some w →
      (had < 2 → ∃ t, exec (.softError u true) s = .next t ∧ counted t 17 ∧ t = { s with errors := t.errors, cores := t.cores } ∧
        (t.core n).port (k % 4) = { port with misses := (p, had + 1), busy := port.busy + 1 } ∧
        ∀ ws x r, (s.core n).windows = ws ++ x :: r → x.port = k % 4 → (∀ y ∈ ws, y.port ≠ k % 4) →
          (t.core n).windows = ws ++ { x with left := x.left + 1 } :: r) ∧
      (had = 2 → ∃ t, exec (.softError u false) s = .next t ∧ counted t 18 ∧ t = { s with errors := t.errors, groups := t.groups } ∧
        (∀ m j, m ≠ n ∨ j ≠ k → t.group m j = s.group m j) ∧
        let a := (s.group n k).arch
        let b := (t.group n k).arch
        let mine (l : Nat) : Prop := port.lanes ≠ 0 ∧ l / (32 / port.passes) = p
        (∀ r l, l < 32 →
          let hit : Prop := mine l ∧ ∃ e ∈ passRefs a (instrOf w) port.lanes, e.1 = r ∧ bit e.2 l = true
          (hit → b.getRef r l = { a.getRef r l with poison := true }) ∧ (¬ hit → b.getRef r l = a.getRef r l)) ∧
        (∀ q, q ≠ 0 → b.getS q = if port.lanes ≠ 0 ∧ q ∈ passScals (instrOf w) then { a.getS q with lo := true, hi := true } else a.getS q) ∧
        ∀ l j, l < 32 → j < 8 → b.getStk l j = if mine l ∧ 8 * l + j ∈ port.slots then { a.getStk l j with poison := true }
          else a.getStk l j)) ∧
    (∀ n x b, u = .engineCheck n x → ∃ t, exec (.softError u b) s = .next t ∧ (t.ctx n x).checkFail = true ∧ SameBytes s t) ∧
    (∀ b, u = .engineData → ∃ t, exec (.softError u b) s = .next t ∧ t = { s with errors := t.errors } ∧ counted t 21)

/-- From R287, R291: a write of its descriptor address makes an idle rewriter busy. Once its links let it, it ends with the status of its
job. In a text of any length every word of the destination is its source word rewritten with the relocations of its own offset, a trailer
with the slowest class of its run: words of the reserved majors pass unchanged, data words and branch offsets are relocated, registers are
renumbered, and every word gets its class. The rewrite ends at the first branch that leaves its range (status 2), where 25 words hold no
trailer or the text ends inside a run (3), where a word or its destination is refused (5), or after whole runs (1). The model's part: how
the descriptor is found and that a rewrite is one step are the model's choices, log 35, and so is that it waits for its links at once, log
98. -/
def Obligations.RewriterRuns : Prop :=
  (∀ (s : State) (v : Word),
    (s.rewriter.status ≠ 0 → exec (.rewriterStart v) s = .next { s with rewriter := { descr := v, status := 0 } } ∧
      exec .rewriterDone s = .next s) ∧
    (s.rewriter.status = 0 → exec (.rewriterStart v) s = .next s ∧
      (s.rewriteOpen = false → exec .rewriterDone s = .next s)) ∧
    (s.rewriter.status = 0 → s.rewriteOpen = true →
      (∀ u e, s.rewriteJob = (u, .error e) →
        exec .rewriterDone s = .next { u with rewriter := { u.rewriter with status := e } }) ∧
      ∀ u (j : RewriteJob), s.rewriteJob = (u, .ok j) →
        ∀ (ws : Nat → Word) (ps : Nat → List Nat) (n : Nat), n ≤ j.len →
          let rels (i : Nat) : List Bool := (j.rels.filter fun r => r.1 == i).map (·.2)
          let trailer (i : Nat) : Bool := majorOf (ws i) == 0x2F && !(rels i).contains true
          let run (i : Nat) : List Nat := (List.range i).filter fun k => !(rels k).contains true &&
            (List.range i).all fun m => decide (m < k) || !trailer m
          let out (i : Nat) : Option Word :=
            rewriteWord j.map j.base (rels i) ((run i).foldl (fun c k => max c (effClass (ws k))) 0) (ws i)
          let long (i : Nat) : Prop := 24 ≤ (run i).length ∧ majorOf (ws i) ≠ 0x2F ∧ true ∉ rels i
          let src (i : Nat) : Nat := j.src.toNat + 8 * i
          let dst (i : Nat) : Nat := j.dst.toNat + 8 * i
          let like (i : Nat) (t : State) : Prop := t = { u with mem := t.mem, poison := t.poison } ∧
            ∀ b, (∀ k, k < i → b ∉ ps k) → t.byteAt b = u.byteAt b
          let reads (i : Nat) : Prop := ∀ t, like i t → t.gWord j.part (src i) = .ok (ws i) ∧ t.gLost j.part (src i) 8 = none
          let writes (i : Nat) : Prop := (ps i).Nodup ∧ (∀ a ∈ ps i, u.deadFrom 0 j.part a = none ∧ ∀ k, k < i → a ∉ ps k) ∧
            ∀ t, like i t → t.gPlaces 384 j.part true .store (dst i) 8 = .ok (ps i)
          let ends (st : Nat) : Prop := (n = j.len ∧ st = if run n = [] then 1 else 3) ∨ (n < j.len ∧
            ((st = 5 ∧ ∀ t, like n t → ∃ e, t.gWord j.part (src n) = .error e) ∨ (reads n ∧
              ((long n ∧ st = 3) ∨ (¬ long n ∧ ((out n = none ∧ st = 2) ∨ (out n ≠ none ∧ st = 5 ∧
                ∀ t, like n t → ∃ e, t.gPlaces 384 j.part true .store (dst n) 8 = .error e)))))))
          (∀ i, i < n → reads i ∧ ¬ long i ∧ (out i).isSome = true ∧ writes i) → ∀ st, ends st →
          ∃ t, exec .rewriterDone s = .next t ∧ t.rewriter.status = st ∧ t.groups = u.groups ∧
            (∀ i x b, i < n → out i = some x → b < 8 → t.byteAt ((ps i).getD b 0) = byteOf x b) ∧
            ∀ b, (∀ i, i < n → b ∉ ps i) → t.byteAt b = u.byteAt b)) ∧
  ∀ (m : RegMap) (base : Word) (cls : Nat) (w : Word),
    (0x30 ≤ majorOf w → ∀ rels, true ∉ rels → rewriteWord m base rels cls w = some w) ∧
    (∀ rels, true ∈ rels → rewriteWord m base rels cls w = some (w + BitVec.ofNat 64 (rels.count true) * base)) ∧
    (∀ i x, decode w = .ok i → rewriteWord m base [] cls w = some x →
      x.extractLsb' 56 2 = BitVec.ofNat 2 (if majorOf w = 0x2F then cls else effClass w)) ∧
    (∀ h ty vd va vb rm, decode w = .ok (.vadd h ty vd va vb rm) → ∃ x k, rewriteWord m base [] cls w = some x ∧
      decode x = .ok (.vadd k ty (m.op vd) (m.op va) (m.op vb) rm) ∧ k.guard = h.guard ∧ k.gneg = h.gneg) ∧
    (∀ h ty sd sa b, decode w = .ok (.sadd h ty sd sa b) → ∃ x k, rewriteWord m base [] cls w = some x ∧
      decode x = .ok (.sadd k ty (m.s sd) (m.s sa) (m.src b)) ∧ k.guard = h.guard ∧ k.gneg = h.gneg) ∧
    ∀ h off join, decode w = .ok (.bra h off join) → ∀ n : Nat, 0 < n →
      let v : Int := off.toInt + (n * (base.toNat / 8) : Nat)
      (v < -(2 ^ 25) ∨ 2 ^ 25 ≤ v → rewriteWord m base (List.replicate n false) cls w = none) ∧
      (-(2 ^ 25) ≤ v → v < 2 ^ 25 → ∃ x k, rewriteWord m base (List.replicate n false) cls w = some x ∧
        decode x = .ok (.bra k (BitVec.ofInt 26 v) join) ∧ k.guard = h.guard ∧ k.gneg = h.gneg)

/-! Decoding and steps. -/

/-- From R294 to R313: the word of a well-formed instruction decodes to that instruction, with every operand at every value the encoding
admits. -/
def Obligations.RoundTrip : Prop :=
  ∀ (i : Instr) (w : Word), i.wf = true → encode i = some w → decode w = .ok i

/-- From R8, R298, R313: a word that decodes is the encoding of what it decodes to, which is well-formed; so a word with a reserved field
set decodes to nothing. -/
def Obligations.DecodedWordsEncode : Prop :=
  ∀ (i : Instr) (w : Word), decode w = .ok i → i.wf = true ∧ encode i = some w

/-- From R294 to R313: words written out from the encoding tables decode to the instructions they stand for. -/
def Obligations.DecodeWords : Prop :=
  let h : Hdr := ⟨0, 0, 0⟩
  let v (n : BitVec 8) : VOp := ⟨0, n⟩
  decode 0x680080A040000003 = .ok (.smovi h 5 3) ∧
  decode 0x6500B8C205000000 = .ok (.smulh ⟨1, 0, 0⟩ .z64 6 4 (.reg 5)) ∧
  decode 0x0500080400002000 = .ok (.vadd ⟨1, 0, 0⟩ .f32 (v 2) (v 0) (v 1) .rne) ∧
  decode 0x0800780200008000 = .ok (.vand h (v 1) (v 0) (v 4) .rne) ∧
  decode 0x140120020000A000 = .ok (.vcmp h .lt .s32 1 (v 0) (v 5) .rne) ∧
  decode 0x3400780801006038 = .ok (.vshfl h (v 4) (v 2) (v 3) 7 .rne) ∧
  decode 0x7000001A30000000 = .ok (.srd h (.scal 13) .strokes) ∧
  decode 0x74028000FFFFFFFF = .ok (.wait h 0 255 255 255 255) ∧
  decode 0x7400800600000000 = .ok (.bar h 3) ∧
  decode 0x7400012000000000 = .ok (.fence h .acq .team) ∧
  decode 0xB9001082A0000000 = .ok (.semwait ⟨1, 0, 0⟩ .ge 4 5) ∧
  decode 0x410208008010C000 = .ok (.vldt ⟨1, 0, 0⟩ .f32 (v 4) 8 12) ∧
  decode 0xBF00000000000000 = .ok (.runend 3 []) ∧
  decode 0xC000000000000000 = .error .reservedMajor

/-- From R41, R74, R294, R308, R311: when a port is free and the group it issues for is resident with a started candidate that nothing
holds, the step that issues its next word is the meaning of the instruction that the word decodes to, in the state with that agent, the
port charged and the word's windows in force; a word that reads a register still to be written by an earlier run's export waits. So for a
stream. A step that lets an event happen is that event's meaning. The model's part: the agenda is the model's own field, log 1, and a word
that waits for a register that an earlier run exports is read in log 112. -/
def Obligations.StepRunsTheWord : Prop :=
  (∀ (s : State) (r : List Move),
    let s0 := { s with agenda := r }
    (∀ n p k low, s.agenda = .issue n p :: r → n < 384 → ((s.core n).port p).cur = some (k, low) → ((s.core n).port p).busy = 0 →
      (s.group n k).st = .resident → (s.team (s.group n k).team).ending = none →
      let s1 := s0.at_ n k low
      s1.curCand.started = true → s1.curCand.hold = .none →
      (majorOf s1.curWord ≠ 0x2F → s1.wordOk s1.curWord = false → step s = .next s0) ∧
      ((majorOf s1.curWord = 0x2F ∨ (s.turn n k = true ∧ s1.wordOk s1.curWord = true)) →
      ∃ s', step s = exec (instrOf s1.curWord) s' ∧ s'.agent = .group n k low ∧ s'.cur = s.group n k ∧ s'.curWord = s1.curWord ∧
        s' = { s1 with cores := s'.cores } ∧ (majorOf s1.curWord ≠ 0x2F →
          ((s'.core n).port p).busy = ((s.core n).port p).passes ∧
          ∃ ws, (s'.core n).windows = ws ++ (s.core n).windows))) ∧
    (∀ k, s.agenda = .stream k :: r → (s.stream k).state = 1 → (s.stream k).hold = .none →
      let s1 := { s0 with agent := .stream k }
      s1.curCand.started = true → s1.curCand.hold = .none → step s = exec (instrOf s1.curWord) s1) ∧
    (∀ i, s.agenda = .event i :: r → (step s = exec i s0 ∨ (step s = .next s0 ∧
      (encode i ≠ none ∨ ∃ w, i = .unassignedEncoding w))) ∧
      (encode i = none → (∀ w, i ≠ .unassignedEncoding w) → step s = exec i s0))) ∧
  ∀ w : Word, (∀ i, decode w = .ok i → instrOf w = i) ∧ (∀ e, decode w = .error e → instrOf w = .unassignedEncoding w)

/-- The whole machine: no step is refused, and a step stops only when a start finds a bad firmware signature (R292). The model's part:
that a halted start is a fault is the model's choice, log 64. -/
def Obligations.StepsGoOn : Prop :=
  ∀ (s : State), (∀ r, step s ≠ .refused r) ∧
    ∀ f, step s = .fault f → ∃ r, s.agenda = .event (.warmStart false) :: r ∨ ∃ x, s.agenda = .event (.coldStart false x) :: r

/-- The whole machine: every step keeps memory in canonical form, so that equal memories are equal data. -/
def Obligations.StepsKeepMemoryCanonical : Prop :=
  ∀ (s t : State), MemOk s → step s = .next t → MemOk t

/-- From R4, R94, R286, R288, R457: what reset leaves: memory in canonical form, WALLTIME 0 and not set, every slot table shared, every
link up, the error log at 0, PASSES 4 in every power cluster, no team, launch or running stream; and DINFO of the full part. The model's
part: free groups, the full part's DINFO, the launch numbers, links that are up and idle streams are the model's choices, logs 3, 4, 5, 12
and 13. -/
def Obligations.ResetState : Prop :=
  let s := State.reset
  MemOk s ∧ s.time.wall = 0 ∧ s.time.set = false ∧ s.time.lock = false ∧
  (∀ k i, slotEntry (s.link k).table i = 0xFFFF ∧ slotEntry (s.link k).shadow i = 0xFFFF) ∧ (∀ k, (s.link k).up = true) ∧
  (∀ n, Store.get s.errors n = 0) ∧ (∀ c, (s.powerCluster c).passes = 4 ∧ (s.powerCluster c).gated = false) ∧
  s.teams = [] ∧ s.launches = [] ∧ (∀ k, (s.stream k).state = 0) ∧ (∀ n k, (s.group n k).st = .free) ∧
  (∀ p, (s.part p).resetting = false ∧ (s.part p).nextLaunch = 0) ∧
  s.winReg 0x7F00000000 = BitVec.ofNat 64 (1 * 2 ^ 48 + 384 * 2 ^ 39 + 384 * 2 ^ 30 + 32 * 2 ^ 24 + 16 * 2 ^ 19)
end

