-- ==== Sys2Proof/Laws/Store.lean ====
section
/-! SUPPORT. Laws of sparse maps: a read after a write, and the canonical form that every write keeps. -/

namespace Sys2Proof.Machine

open Sys2Proof

theorem Store.get_insert_same {α : Type} [Inhabited α] (m : Store α) (k : Nat) (v : α) :
    Store.get (Store.insert m k v) k = v := by
  induction m with
  | nil => simp [Store.insert, Store.get]
  | cons e r ih =>
    obtain ⟨j, w⟩ := e
    simp only [Store.insert]
    split
    · simp [Store.get]
    · split
      · simp [Store.get]
      · next h1 h2 => simp [Store.get, ih, show ¬ j = k by omega]

theorem Store.get_insert_ne {α : Type} [Inhabited α] (m : Store α) {k j : Nat} (v : α) (h : j ≠ k) :
    Store.get (Store.insert m k v) j = Store.get m j := by
  induction m with
  | nil => simp [Store.insert, Store.get, Ne.symm h]
  | cons e r ih =>
    obtain ⟨i, w⟩ := e
    simp only [Store.insert]
    split
    · simp [Store.get, Ne.symm h]
    · split
      · next h1 h2 => subst h2; simp [Store.get, Ne.symm h]
      · simp [Store.get, ih]

theorem Store.get_erase_same {α : Type} [Inhabited α] (m : Store α) (k : Nat) :
    Store.get (m.filter fun e => e.1 != k) k = default := by
  induction m with
  | nil => rfl
  | cons e r ih =>
    obtain ⟨i, w⟩ := e
    by_cases h : i = k <;> simp [Store.get, h, ih]

theorem Store.get_erase_ne {α : Type} [Inhabited α] (m : Store α) {k j : Nat} (h : j ≠ k) :
    Store.get (m.filter fun e => e.1 != k) j = Store.get m j := by
  induction m with
  | nil => rfl
  | cons e r ih =>
    obtain ⟨i, w⟩ := e
    by_cases hk : i = k
    · subst hk; simp [Store.get, ih, Ne.symm h]
    · simp [Store.get, hk, ih]

/-- A read after a write to the same key gives the value written. -/
@[simp] theorem Store.get_put_same {α : Type} [Inhabited α] [DecidableEq α] (m : Store α) (k : Nat) (v : α) :
    Store.get (Store.put m k v) k = v := by
  unfold Store.put
  split
  · next h => rw [h, Store.get_erase_same]
  · exact Store.get_insert_same m k v

/-- A write leaves every other key alone. -/
theorem Store.get_put_ne {α : Type} [Inhabited α] [DecidableEq α] (m : Store α) {k j : Nat} (v : α) (h : j ≠ k) :
    Store.get (Store.put m k v) j = Store.get m j := by
  unfold Store.put
  split
  · exact Store.get_erase_ne m h
  · exact Store.get_insert_ne m v h

/-- A write and a read of any two keys. -/
theorem Store.get_put {α : Type} [Inhabited α] [DecidableEq α] (m : Store α) (k j : Nat) (v : α) :
    Store.get (Store.put m k v) j = if j = k then v else Store.get m j := by
  split
  · next h => rw [h, Store.get_put_same]
  · next h => exact Store.get_put_ne m v h

/-! The canonical form. -/

theorem Store.wfFrom_mono {α : Type} [Inhabited α] [DecidableEq α] {m : Store α} {a b : Nat} (h : a ≤ b)
    (hm : Store.wfFrom b m = true) : Store.wfFrom a m = true := by
  cases m with
  | nil => rfl
  | cons e r =>
    obtain ⟨j, w⟩ := e
    simp only [Store.wfFrom, Bool.and_eq_true, decide_eq_true_eq] at hm ⊢
    exact ⟨⟨by omega, hm.1.2⟩, hm.2⟩

theorem Store.wfFrom_filter {α : Type} [Inhabited α] [DecidableEq α] (p : Nat × α → Bool) (m : Store α) (b : Nat)
    (hm : Store.wfFrom b m = true) : Store.wfFrom b (m.filter p) = true := by
  induction m generalizing b with
  | nil => rfl
  | cons e r ih =>
    obtain ⟨j, w⟩ := e
    simp only [Store.wfFrom, Bool.and_eq_true, decide_eq_true_eq] at hm
    have hr := ih (j + 1) hm.2
    by_cases hp : p (j, w) = true
    · simp only [List.filter_cons, hp, if_true, Store.wfFrom, Bool.and_eq_true, decide_eq_true_eq]
      exact ⟨hm.1, hr⟩
    · simp only [List.filter_cons, hp]
      exact Store.wfFrom_mono (by omega) hr

/-- Entries taken out of a canonical map leave it canonical. -/
theorem Store.wf_filter {α : Type} [Inhabited α] [DecidableEq α] (p : Nat × α → Bool) {m : Store α}
    (hm : Store.wf m = true) : Store.wf (m.filter p) = true := Store.wfFrom_filter p m 0 hm

theorem Store.wfFrom_insert {α : Type} [Inhabited α] [DecidableEq α] (m : Store α) (k b : Nat) (v : α) (hv : v ≠ default)
    (hb : b ≤ k) (hm : Store.wfFrom b m = true) : Store.wfFrom b (Store.insert m k v) = true := by
  induction m generalizing b with
  | nil => simp [Store.insert, Store.wfFrom, hb, hv]
  | cons e r ih =>
    obtain ⟨j, w⟩ := e
    simp only [Store.wfFrom, Bool.and_eq_true, decide_eq_true_eq] at hm
    simp only [Store.insert]
    split
    · simp only [Store.wfFrom, Bool.and_eq_true, decide_eq_true_eq]
      exact ⟨⟨hb, hv⟩, ⟨by omega, hm.1.2⟩, hm.2⟩
    · split
      · next _ h2 =>
        subst h2
        simp only [Store.wfFrom, Bool.and_eq_true, decide_eq_true_eq]
        exact ⟨⟨hb, hv⟩, hm.2⟩
      · simp only [Store.wfFrom, Bool.and_eq_true, decide_eq_true_eq]
        exact ⟨hm.1, ih (j + 1) (by omega) hm.2⟩

/-- A write keeps the canonical form. -/
theorem Store.wf_put {α : Type} [Inhabited α] [DecidableEq α] {m : Store α} (k : Nat) (v : α) (hm : Store.wf m = true) :
    Store.wf (Store.put m k v) = true := by
  unfold Store.put
  split
  · exact Store.wf_filter _ hm
  · next h => exact Store.wfFrom_insert m k 0 v h (Nat.zero_le _) hm

/-- Writes in turn keep the canonical form. -/
theorem Store.wf_putAll {α : Type} [Inhabited α] [DecidableEq α] (es : List (Nat × α)) {m : Store α}
    (hm : Store.wf m = true) : Store.wf (Store.putAll m es) = true := by
  unfold Store.putAll
  induction es generalizing m with
  | nil => exact hm
  | cons e r ih => exact ih (Store.wf_put _ _ hm)

/-! Memory. -/

@[simp] theorem Memory.read_write_same (m : Memory) (a : Nat) (b : Byte) : Memory.read (Memory.write m a b) a = b :=
  Store.get_put_same m a b

theorem Memory.read_write_ne (m : Memory) {a c : Nat} (b : Byte) (h : c ≠ a) :
    Memory.read (Memory.write m a b) c = Memory.read m c := Store.get_put_ne m b h

theorem Memory.wf_write {m : Memory} (a : Nat) (b : Byte) (hm : Memory.wf m = true) :
    Memory.wf (Memory.write m a b) = true := Store.wf_put a b hm

theorem Memory.wf_filter {m : Memory} (p : Nat × Byte → Bool) (hm : Memory.wf m = true) : Memory.wf (m.filter p) = true :=
  Store.wf_filter p hm

end Sys2Proof.Machine
end

