-- ==== Sys2Proof/Laws/Arch.lean ====
section
/-! SUPPORT. Reads of a group's registers after writes of them. -/

namespace Sys2Proof.Machine

open Sys2Proof

/-! An overwrite touches nothing but what earlier words have still to deliver. -/

theorem Arch.overwrite_eq (a : Arch) (k : Nat) : ∃ p, a.overwrite k = { a with pend := p } := by
  unfold Arch.overwrite
  split
  · next h => exact ⟨a.pend, rfl⟩
  · exact ⟨_, rfl⟩

@[simp] theorem Arch.overwrite_vregs (a : Arch) (k : Nat) : (a.overwrite k).vregs = a.vregs := by obtain ⟨p, h⟩ := a.overwrite_eq k; rw [h]
@[simp] theorem Arch.overwrite_temps (a : Arch) (k : Nat) : (a.overwrite k).temps = a.temps := by obtain ⟨p, h⟩ := a.overwrite_eq k; rw [h]
@[simp] theorem Arch.overwrite_sregs (a : Arch) (k : Nat) : (a.overwrite k).sregs = a.sregs := by obtain ⟨p, h⟩ := a.overwrite_eq k; rw [h]
@[simp] theorem Arch.overwrite_xregs (a : Arch) (k : Nat) : (a.overwrite k).xregs = a.xregs := by obtain ⟨p, h⟩ := a.overwrite_eq k; rw [h]
@[simp] theorem Arch.overwrite_preds (a : Arch) (k : Nat) : (a.overwrite k).preds = a.preds := by obtain ⟨p, h⟩ := a.overwrite_eq k; rw [h]
@[simp] theorem Arch.overwrite_stk (a : Arch) (k : Nat) : (a.overwrite k).stk = a.stk := by obtain ⟨p, h⟩ := a.overwrite_eq k; rw [h]
@[simp] theorem Arch.overwrite_sps (a : Arch) (k : Nat) : (a.overwrite k).sps = a.sps := by obtain ⟨p, h⟩ := a.overwrite_eq k; rw [h]
@[simp] theorem Arch.overwrite_lfs (a : Arch) (k : Nat) : (a.overwrite k).lfs = a.lfs := by obtain ⟨p, h⟩ := a.overwrite_eq k; rw [h]
@[simp] theorem Arch.overwrite_flags (a : Arch) (k : Nat) : (a.overwrite k).flags = a.flags := by obtain ⟨p, h⟩ := a.overwrite_eq k; rw [h]
@[simp] theorem Arch.overwrite_retired (a : Arch) (k : Nat) : (a.overwrite k).retired = a.retired := by obtain ⟨p, h⟩ := a.overwrite_eq k; rw [h]
@[simp] theorem Arch.overwrite_slices (a : Arch) (k : Nat) : (a.overwrite k).slices = a.slices := by obtain ⟨p, h⟩ := a.overwrite_eq k; rw [h]
@[simp] theorem Arch.overwrite_cands (a : Arch) (k : Nat) : (a.overwrite k).cands = a.cands := by obtain ⟨p, h⟩ := a.overwrite_eq k; rw [h]

/-! Scalar registers. -/

/-- s0 reads 0 whatever has been written (R32). -/
@[simp] theorem Arch.valS_zero (a : Arch) : a.valS 0 = 0 := rfl

theorem Arch.getS_setS (a : Arch) (r q : BitVec 6) (v : Word) :
    (a.setS r v).getS q = if q = r ∧ r ≠ 0 then ⟨v, false, false⟩ else a.getS q := by
  unfold Arch.setS Arch.getS
  by_cases hq : q = 0
  · subst hq; simp; intro h; exact fun hr => absurd h.symm hr
  · simp only [hq, if_false, Arch.overwrite_sregs]
    unfold Arch.putS
    by_cases hr : r = 0
    · simp [hr]
    · simp only [hr, if_false, ne_eq, not_false_eq_true, and_true]
      rw [Store.get_put]
      by_cases h : q = r
      · simp [h]
      · have : ¬ q.toNat = r.toNat := fun e => h (BitVec.eq_of_toNat_eq e)
        simp [h, this]

/-- A scalar register after a write of it. -/
theorem Arch.valS_setS_same (a : Arch) {r : BitVec 6} (v : Word) (h : r ≠ 0) : (a.setS r v).valS r = v := by
  rw [Arch.valS, Arch.getS_setS, if_pos ⟨rfl, h⟩]

/-- A write of one scalar register leaves the others alone. -/
theorem Arch.valS_setS_ne (a : Arch) {r q : BitVec 6} (v : Word) (h : q ≠ r) : (a.setS r v).valS q = a.valS q := by
  simp [Arch.valS, Arch.getS_setS, h]

theorem Arch.setS_keeps (a : Arch) (r : BitVec 6) (v : Word) :
    (a.setS r v).vregs = a.vregs ∧ (a.setS r v).temps = a.temps ∧ (a.setS r v).xregs = a.xregs ∧
    (a.setS r v).preds = a.preds ∧ (a.setS r v).stk = a.stk ∧ (a.setS r v).sps = a.sps ∧ (a.setS r v).lfs = a.lfs ∧
    (a.setS r v).flags = a.flags ∧ (a.setS r v).retired = a.retired ∧ (a.setS r v).slices = a.slices ∧
    (a.setS r v).cands = a.cands := by
  unfold Arch.setS Arch.putS
  split <;> simp

/-! Predicates and index registers. -/

@[simp] theorem Arch.getP_zero (a : Arch) : a.getP 0 = 0xFFFFFFFF := rfl

theorem Arch.getP_setP (a : Arch) (k q : BitVec 4) (v : Mask) :
    (a.setP k v).getP q = if q = k ∧ k ≠ 0 then v else a.getP q := by
  unfold Arch.setP Arch.getP
  by_cases hq : q = 0
  · subst hq; simp; intro h; exact fun hr => absurd h.symm hr
  · by_cases hr : k = 0
    · simp [hr]
    · simp only [hq, hr, if_false, ne_eq, not_false_eq_true, and_true]
      rw [Store.get_put]
      by_cases h : q = k
      · simp [h]
      · have : ¬ q.toNat = k.toNat := fun e => h (BitVec.eq_of_toNat_eq e)
        simp [h, this]

@[simp] theorem Arch.getX_zero (a : Arch) : a.getX 0 = 0 := rfl

theorem Arch.getX_setX (a : Arch) (k q : BitVec 2) (v : BitVec 8) :
    (a.setX k v).getX q = if q = k ∧ k ≠ 0 then v else a.getX q := by
  unfold Arch.setX Arch.getX
  by_cases hq : q = 0
  · subst hq; simp; intro h; exact fun hr => absurd h.symm hr
  · by_cases hr : k = 0
    · simp [hr]
    · simp only [hq, hr, if_false, ne_eq, not_false_eq_true, and_true]
      rw [Store.get_put]
      by_cases h : q = k
      · simp [h]
      · have : ¬ q.toNat = k.toNat := fun e => h (BitVec.eq_of_toNat_eq e)
        simp [h, this]

/-! Vector registers and temporaries, by reference and lane. -/

theorem Arch.getRef_setRef (a : Arch) (r q : VRef) (l j : Nat) (e : Elt) (hl : l < 32) (hj : j < 32) :
    (a.setRef r l e).getRef q j = if q = r ∧ j = l then e else a.getRef q j := by
  cases r with
  | reg n =>
    cases q with
    | reg m =>
      simp only [Arch.setRef, Arch.getRef, Arch.setV, Arch.getV, Arch.overwrite_vregs, Arch.putV, vecKey]
      rw [Store.get_put]
      by_cases h : m = n ∧ j = l
      · obtain ⟨rfl, rfl⟩ := h; simp
      · have : ¬ 32 * m + j = 32 * n + l := by omega
        have h2 : ¬ (VRef.reg m = VRef.reg n ∧ j = l) := by simpa using h
        simp only [this, h2, if_false]
    | temp t => simp [Arch.setRef, Arch.getRef, Arch.setV, Arch.getT, Arch.putV]
  | temp n =>
    cases q with
    | temp m =>
      simp only [Arch.setRef, Arch.getRef, Arch.setT, Arch.getT, Arch.overwrite_temps, Arch.putT]
      rw [Store.get_put]
      by_cases h : m = n ∧ j = l
      · obtain ⟨rfl, rfl⟩ := h; simp
      · have : ¬ 32 * m + j = 32 * n + l := by omega
        have h2 : ¬ (VRef.temp m = VRef.temp n ∧ j = l) := by simpa using h
        simp only [this, h2, if_false]
    | reg t => simp [Arch.setRef, Arch.getRef, Arch.setT, Arch.getV, Arch.putT]

theorem Arch.setRef_keeps (a : Arch) (r : VRef) (l : Nat) (e : Elt) :
    (a.setRef r l e).sregs = a.sregs ∧ (a.setRef r l e).xregs = a.xregs ∧ (a.setRef r l e).preds = a.preds ∧
    (a.setRef r l e).stk = a.stk ∧ (a.setRef r l e).sps = a.sps ∧ (a.setRef r l e).lfs = a.lfs ∧
    (a.setRef r l e).flags = a.flags ∧ (a.setRef r l e).retired = a.retired ∧ (a.setRef r l e).slices = a.slices ∧
    (a.setRef r l e).cands = a.cands := by
  cases r <;> simp [Arch.setRef, Arch.setV, Arch.putV, Arch.setT, Arch.putT]

theorem Arch.setLanes_keeps (a : Arch) (r : VRef) (es : List (Nat × Elt)) :
    (a.setLanes r es).sregs = a.sregs ∧ (a.setLanes r es).xregs = a.xregs ∧ (a.setLanes r es).preds = a.preds ∧
    (a.setLanes r es).stk = a.stk ∧ (a.setLanes r es).sps = a.sps ∧ (a.setLanes r es).lfs = a.lfs ∧
    (a.setLanes r es).flags = a.flags ∧ (a.setLanes r es).retired = a.retired ∧ (a.setLanes r es).slices = a.slices ∧
    (a.setLanes r es).cands = a.cands := by
  induction es generalizing a with
  | nil => simp [Arch.setLanes]
  | cons e t ih =>
    have h := ih (a.setRef r e.1 e.2)
    have k := a.setRef_keeps r e.1 e.2
    simp only [Arch.setLanes, List.foldl_cons] at h ⊢
    simpa [k] using h

/-- An element that none of the writes names is left alone. -/
theorem Arch.getRef_setLanes_off (a : Arch) (r q : VRef) (es : List (Nat × Elt)) (j : Nat) (hj : j < 32)
    (hs : ∀ e ∈ es, e.1 < 32) (h : q ≠ r ∨ ∀ e ∈ es, e.1 ≠ j) : (a.setLanes r es).getRef q j = a.getRef q j := by
  induction es generalizing a with
  | nil => rfl
  | cons e t ih =>
    have h1 := ih (a.setRef r e.1 e.2) (fun x hx => hs x (List.mem_cons_of_mem _ hx))
      (h.imp id fun k x hx => k x (List.mem_cons_of_mem _ hx))
    have h2 := a.getRef_setRef r q e.1 j e.2 (hs e List.mem_cons_self) hj
    have h3 : ¬ (q = r ∧ j = e.1) := by
      rintro ⟨h4, h5⟩
      rcases h with h | h
      · exact h h4
      · exact h e List.mem_cons_self h5.symm
    simp only [Arch.setLanes, List.foldl_cons] at h1 ⊢
    rw [h1, h2, if_neg h3]

/-- An element written once among lanes written once each. -/
theorem Arch.getRef_setLanes_map (a : Arch) (r : VRef) (ls : List Nat) (f : Nat → Elt) (j : Nat) (hj : j < 32)
    (hs : ∀ l ∈ ls, l < 32) (hm : j ∈ ls) : (a.setLanes r (ls.map fun l => (l, f l))).getRef r j = f j := by
  induction ls generalizing a with
  | nil => simp at hm
  | cons l t ih =>
    simp only [Arch.setLanes, List.map_cons, List.foldl_cons]
    by_cases ht : j ∈ t
    · exact ih (a.setRef r l (f l)) (fun x hx => hs x (List.mem_cons_of_mem _ hx)) ht
    · have hl : j = l := by simpa [ht] using hm
      subst hl
      have h1 := Arch.getRef_setLanes_off (a.setRef r j (f j)) r r (t.map fun l => (l, f l)) j hj
        (by intro e he; simp at he; obtain ⟨x, hx, rfl⟩ := he; exact hs x (List.mem_cons_of_mem _ hx))
        (Or.inr (by intro e he; simp at he; obtain ⟨x, hx, rfl⟩ := he; intro hxj; simp at hxj; exact ht (hxj ▸ hx)))
      simp only [Arch.setLanes] at h1
      rw [h1, Arch.getRef_setRef _ _ _ _ _ _ hj hj]
      simp

/-- The lanes of a mask are its set bits. -/
theorem mem_lanes {m : Mask} {l : Nat} : l ∈ lanes m ↔ l < 32 ∧ bit m l = true := by
  simp [lanes, bitsOf, bit]

/-- Results written to the lanes of a mask: the lanes of the mask hold them, every other lane holds what it held. -/
theorem Arch.getRef_writeLanes (a : Arch) (r : VRef) (m : Mask) (f : Nat → Lane) (j : Nat) (hj : j < 32) :
    (a.writeLanes r ((lanes m).map fun l => (l, f l))).getRef r j = if bit m j then ⟨f j, false⟩ else a.getRef r j := by
  have hs : ∀ l ∈ lanes m, l < 32 := fun l h => (mem_lanes.1 h).1
  unfold Arch.writeLanes
  rw [List.map_map]
  have he : (List.map ((fun e : Nat × Lane => ((e.1, ⟨e.2, false⟩) : Nat × Elt)) ∘ fun l => (l, f l)) (lanes m))
      = (lanes m).map fun l => (l, (⟨f l, false⟩ : Elt)) := rfl
  rw [he]
  split
  · next h => exact a.getRef_setLanes_map r (lanes m) (fun l => ⟨f l, false⟩) j hj hs (mem_lanes.2 ⟨hj, h⟩)
  · next h =>
    refine a.getRef_setLanes_off r r _ j hj ?_ (Or.inr ?_)
    · intro e he; simp at he; obtain ⟨x, hx, rfl⟩ := he; exact hs x hx
    · intro e he; simp at he; obtain ⟨x, hx, rfl⟩ := he
      intro hxj; simp at hxj; subst hxj; exact h (mem_lanes.1 hx).2

/-- Every other reference is left alone. -/
theorem Arch.getRef_writeLanes_ne (a : Arch) {r q : VRef} (m : Mask) (f : Nat → Lane) (j : Nat) (hj : j < 32) (h : q ≠ r) :
    (a.writeLanes r ((lanes m).map fun l => (l, f l))).getRef q j = a.getRef q j := by
  unfold Arch.writeLanes
  refine a.getRef_setLanes_off r q _ j hj ?_ (Or.inl h)
  intro e he; simp at he; obtain ⟨x, hx, rfl⟩ := he; exact (mem_lanes.1 hx).1

theorem Arch.writeLanes_keeps (a : Arch) (r : VRef) (es : List (Nat × Lane)) :
    (a.writeLanes r es).sregs = a.sregs ∧ (a.writeLanes r es).xregs = a.xregs ∧ (a.writeLanes r es).preds = a.preds ∧
    (a.writeLanes r es).stk = a.stk ∧ (a.writeLanes r es).sps = a.sps ∧ (a.writeLanes r es).lfs = a.lfs ∧
    (a.writeLanes r es).flags = a.flags ∧ (a.writeLanes r es).retired = a.retired ∧
    (a.writeLanes r es).slices = a.slices ∧ (a.writeLanes r es).cands = a.cands := a.setLanes_keeps r _

@[simp] theorem Arch.raise_getRef (a : Arch) (f : Flags) (r : VRef) (j : Nat) : (a.raise f).getRef r j = a.getRef r j := by
  cases r <;> rfl
@[simp] theorem Arch.raise_sregs (a : Arch) (f : Flags) : (a.raise f).sregs = a.sregs := rfl
@[simp] theorem Arch.raise_preds (a : Arch) (f : Flags) : (a.raise f).preds = a.preds := rfl
@[simp] theorem Arch.raise_flags (a : Arch) (f : Flags) : (a.raise f).flags = a.flags ||| f := rfl

end Sys2Proof.Machine
end

