-- ==== Sys2Proof/Laws/State.lean ====
section
/-! SUPPORT. What each update of the state leaves alone, one lemma per field and update, and what it can be read back as. -/

namespace Sys2Proof.Machine

open Sys2Proof

/-! setCore. -/

@[simp] theorem State.setCore_mem (s : State) (n : Nat) (c : Core) : (s.setCore n c).mem = s.mem := rfl
@[simp] theorem State.setCore_poison (s : State) (n : Nat) (c : Core) : (s.setCore n c).poison = s.poison := rfl
@[simp] theorem State.setCore_groups (s : State) (n : Nat) (c : Core) : (s.setCore n c).groups = s.groups := rfl
@[simp] theorem State.setCore_parts (s : State) (n : Nat) (c : Core) : (s.setCore n c).parts = s.parts := rfl
@[simp] theorem State.setCore_launches (s : State) (n : Nat) (c : Core) : (s.setCore n c).launches = s.launches := rfl
@[simp] theorem State.setCore_teams (s : State) (n : Nat) (c : Core) : (s.setCore n c).teams = s.teams := rfl
@[simp] theorem State.setCore_clusters (s : State) (n : Nat) (c : Core) : (s.setCore n c).clusters = s.clusters := rfl
@[simp] theorem State.setCore_queues (s : State) (n : Nat) (c : Core) : (s.setCore n c).queues = s.queues := rfl
@[simp] theorem State.setCore_streams (s : State) (n : Nat) (c : Core) : (s.setCore n c).streams = s.streams := rfl
@[simp] theorem State.setCore_links (s : State) (n : Nat) (c : Core) : (s.setCore n c).links = s.links := rfl
@[simp] theorem State.setCore_power (s : State) (n : Nat) (c : Core) : (s.setCore n c).power = s.power := rfl
@[simp] theorem State.setCore_time (s : State) (n : Nat) (c : Core) : (s.setCore n c).time = s.time := rfl
@[simp] theorem State.setCore_xlate (s : State) (n : Nat) (c : Core) : (s.setCore n c).xlate = s.xlate := rfl
@[simp] theorem State.setCore_rewriter (s : State) (n : Nat) (c : Core) : (s.setCore n c).rewriter = s.rewriter := rfl
@[simp] theorem State.setCore_errors (s : State) (n : Nat) (c : Core) : (s.setCore n c).errors = s.errors := rfl
@[simp] theorem State.setCore_tenants (s : State) (n : Nat) (c : Core) : (s.setCore n c).tenants = s.tenants := rfl
@[simp] theorem State.setCore_fuses (s : State) (n : Nat) (c : Core) : (s.setCore n c).fuses = s.fuses := rfl
@[simp] theorem State.setCore_measured (s : State) (n : Nat) (c : Core) : (s.setCore n c).measured = s.measured := rfl
@[simp] theorem State.setCore_quotes (s : State) (n : Nat) (c : Core) : (s.setCore n c).quotes = s.quotes := rfl
@[simp] theorem State.setCore_names (s : State) (n : Nat) (c : Core) : (s.setCore n c).names = s.names := rfl
@[simp] theorem State.setCore_agent (s : State) (n : Nat) (c : Core) : (s.setCore n c).agent = s.agent := rfl
@[simp] theorem State.setCore_agenda (s : State) (n : Nat) (c : Core) : (s.setCore n c).agenda = s.agenda := rfl
@[simp] theorem State.setCore_fresh (s : State) (n : Nat) (c : Core) : (s.setCore n c).fresh = s.fresh := rfl

/-! setGroup. -/

@[simp] theorem State.setGroup_mem (s : State) (n k : Nat) (g : Group) : (s.setGroup n k g).mem = s.mem := rfl
@[simp] theorem State.setGroup_poison (s : State) (n k : Nat) (g : Group) : (s.setGroup n k g).poison = s.poison := rfl
@[simp] theorem State.setGroup_cores (s : State) (n k : Nat) (g : Group) : (s.setGroup n k g).cores = s.cores := rfl
@[simp] theorem State.setGroup_parts (s : State) (n k : Nat) (g : Group) : (s.setGroup n k g).parts = s.parts := rfl
@[simp] theorem State.setGroup_launches (s : State) (n k : Nat) (g : Group) : (s.setGroup n k g).launches = s.launches := rfl
@[simp] theorem State.setGroup_teams (s : State) (n k : Nat) (g : Group) : (s.setGroup n k g).teams = s.teams := rfl
@[simp] theorem State.setGroup_clusters (s : State) (n k : Nat) (g : Group) : (s.setGroup n k g).clusters = s.clusters := rfl
@[simp] theorem State.setGroup_queues (s : State) (n k : Nat) (g : Group) : (s.setGroup n k g).queues = s.queues := rfl
@[simp] theorem State.setGroup_streams (s : State) (n k : Nat) (g : Group) : (s.setGroup n k g).streams = s.streams := rfl
@[simp] theorem State.setGroup_links (s : State) (n k : Nat) (g : Group) : (s.setGroup n k g).links = s.links := rfl
@[simp] theorem State.setGroup_power (s : State) (n k : Nat) (g : Group) : (s.setGroup n k g).power = s.power := rfl
@[simp] theorem State.setGroup_time (s : State) (n k : Nat) (g : Group) : (s.setGroup n k g).time = s.time := rfl
@[simp] theorem State.setGroup_xlate (s : State) (n k : Nat) (g : Group) : (s.setGroup n k g).xlate = s.xlate := rfl
@[simp] theorem State.setGroup_rewriter (s : State) (n k : Nat) (g : Group) : (s.setGroup n k g).rewriter = s.rewriter := rfl
@[simp] theorem State.setGroup_errors (s : State) (n k : Nat) (g : Group) : (s.setGroup n k g).errors = s.errors := rfl
@[simp] theorem State.setGroup_tenants (s : State) (n k : Nat) (g : Group) : (s.setGroup n k g).tenants = s.tenants := rfl
@[simp] theorem State.setGroup_fuses (s : State) (n k : Nat) (g : Group) : (s.setGroup n k g).fuses = s.fuses := rfl
@[simp] theorem State.setGroup_measured (s : State) (n k : Nat) (g : Group) : (s.setGroup n k g).measured = s.measured := rfl
@[simp] theorem State.setGroup_quotes (s : State) (n k : Nat) (g : Group) : (s.setGroup n k g).quotes = s.quotes := rfl
@[simp] theorem State.setGroup_names (s : State) (n k : Nat) (g : Group) : (s.setGroup n k g).names = s.names := rfl
@[simp] theorem State.setGroup_agent (s : State) (n k : Nat) (g : Group) : (s.setGroup n k g).agent = s.agent := rfl
@[simp] theorem State.setGroup_agenda (s : State) (n k : Nat) (g : Group) : (s.setGroup n k g).agenda = s.agenda := rfl
@[simp] theorem State.setGroup_fresh (s : State) (n k : Nat) (g : Group) : (s.setGroup n k g).fresh = s.fresh := rfl

/-! setStream. -/

@[simp] theorem State.setStream_mem (s : State) (k : Nat) (v : Stream) : (s.setStream k v).mem = s.mem := rfl
@[simp] theorem State.setStream_poison (s : State) (k : Nat) (v : Stream) : (s.setStream k v).poison = s.poison := rfl
@[simp] theorem State.setStream_cores (s : State) (k : Nat) (v : Stream) : (s.setStream k v).cores = s.cores := rfl
@[simp] theorem State.setStream_groups (s : State) (k : Nat) (v : Stream) : (s.setStream k v).groups = s.groups := rfl
@[simp] theorem State.setStream_parts (s : State) (k : Nat) (v : Stream) : (s.setStream k v).parts = s.parts := rfl
@[simp] theorem State.setStream_launches (s : State) (k : Nat) (v : Stream) : (s.setStream k v).launches = s.launches := rfl
@[simp] theorem State.setStream_teams (s : State) (k : Nat) (v : Stream) : (s.setStream k v).teams = s.teams := rfl
@[simp] theorem State.setStream_clusters (s : State) (k : Nat) (v : Stream) : (s.setStream k v).clusters = s.clusters := rfl
@[simp] theorem State.setStream_queues (s : State) (k : Nat) (v : Stream) : (s.setStream k v).queues = s.queues := rfl
@[simp] theorem State.setStream_links (s : State) (k : Nat) (v : Stream) : (s.setStream k v).links = s.links := rfl
@[simp] theorem State.setStream_power (s : State) (k : Nat) (v : Stream) : (s.setStream k v).power = s.power := rfl
@[simp] theorem State.setStream_time (s : State) (k : Nat) (v : Stream) : (s.setStream k v).time = s.time := rfl
@[simp] theorem State.setStream_xlate (s : State) (k : Nat) (v : Stream) : (s.setStream k v).xlate = s.xlate := rfl
@[simp] theorem State.setStream_rewriter (s : State) (k : Nat) (v : Stream) : (s.setStream k v).rewriter = s.rewriter := rfl
@[simp] theorem State.setStream_errors (s : State) (k : Nat) (v : Stream) : (s.setStream k v).errors = s.errors := rfl
@[simp] theorem State.setStream_tenants (s : State) (k : Nat) (v : Stream) : (s.setStream k v).tenants = s.tenants := rfl
@[simp] theorem State.setStream_fuses (s : State) (k : Nat) (v : Stream) : (s.setStream k v).fuses = s.fuses := rfl
@[simp] theorem State.setStream_measured (s : State) (k : Nat) (v : Stream) : (s.setStream k v).measured = s.measured := rfl
@[simp] theorem State.setStream_quotes (s : State) (k : Nat) (v : Stream) : (s.setStream k v).quotes = s.quotes := rfl
@[simp] theorem State.setStream_names (s : State) (k : Nat) (v : Stream) : (s.setStream k v).names = s.names := rfl
@[simp] theorem State.setStream_agent (s : State) (k : Nat) (v : Stream) : (s.setStream k v).agent = s.agent := rfl
@[simp] theorem State.setStream_agenda (s : State) (k : Nat) (v : Stream) : (s.setStream k v).agenda = s.agenda := rfl
@[simp] theorem State.setStream_fresh (s : State) (k : Nat) (v : Stream) : (s.setStream k v).fresh = s.fresh := rfl

/-! setTeam. -/

@[simp] theorem State.setTeam_mem (s : State) (t : Nat) (v : Team) : (s.setTeam t v).mem = s.mem := rfl
@[simp] theorem State.setTeam_poison (s : State) (t : Nat) (v : Team) : (s.setTeam t v).poison = s.poison := rfl
@[simp] theorem State.setTeam_cores (s : State) (t : Nat) (v : Team) : (s.setTeam t v).cores = s.cores := rfl
@[simp] theorem State.setTeam_groups (s : State) (t : Nat) (v : Team) : (s.setTeam t v).groups = s.groups := rfl
@[simp] theorem State.setTeam_parts (s : State) (t : Nat) (v : Team) : (s.setTeam t v).parts = s.parts := rfl
@[simp] theorem State.setTeam_launches (s : State) (t : Nat) (v : Team) : (s.setTeam t v).launches = s.launches := rfl
@[simp] theorem State.setTeam_clusters (s : State) (t : Nat) (v : Team) : (s.setTeam t v).clusters = s.clusters := rfl
@[simp] theorem State.setTeam_queues (s : State) (t : Nat) (v : Team) : (s.setTeam t v).queues = s.queues := rfl
@[simp] theorem State.setTeam_streams (s : State) (t : Nat) (v : Team) : (s.setTeam t v).streams = s.streams := rfl
@[simp] theorem State.setTeam_links (s : State) (t : Nat) (v : Team) : (s.setTeam t v).links = s.links := rfl
@[simp] theorem State.setTeam_power (s : State) (t : Nat) (v : Team) : (s.setTeam t v).power = s.power := rfl
@[simp] theorem State.setTeam_time (s : State) (t : Nat) (v : Team) : (s.setTeam t v).time = s.time := rfl
@[simp] theorem State.setTeam_xlate (s : State) (t : Nat) (v : Team) : (s.setTeam t v).xlate = s.xlate := rfl
@[simp] theorem State.setTeam_rewriter (s : State) (t : Nat) (v : Team) : (s.setTeam t v).rewriter = s.rewriter := rfl
@[simp] theorem State.setTeam_errors (s : State) (t : Nat) (v : Team) : (s.setTeam t v).errors = s.errors := rfl
@[simp] theorem State.setTeam_tenants (s : State) (t : Nat) (v : Team) : (s.setTeam t v).tenants = s.tenants := rfl
@[simp] theorem State.setTeam_fuses (s : State) (t : Nat) (v : Team) : (s.setTeam t v).fuses = s.fuses := rfl
@[simp] theorem State.setTeam_measured (s : State) (t : Nat) (v : Team) : (s.setTeam t v).measured = s.measured := rfl
@[simp] theorem State.setTeam_quotes (s : State) (t : Nat) (v : Team) : (s.setTeam t v).quotes = s.quotes := rfl
@[simp] theorem State.setTeam_names (s : State) (t : Nat) (v : Team) : (s.setTeam t v).names = s.names := rfl
@[simp] theorem State.setTeam_agent (s : State) (t : Nat) (v : Team) : (s.setTeam t v).agent = s.agent := rfl
@[simp] theorem State.setTeam_agenda (s : State) (t : Nat) (v : Team) : (s.setTeam t v).agenda = s.agenda := rfl
@[simp] theorem State.setTeam_fresh (s : State) (t : Nat) (v : Team) : (s.setTeam t v).fresh = s.fresh := rfl

/-! setCluster. -/

@[simp] theorem State.setCluster_mem (s : State) (c : Nat) (v : Cluster) : (s.setCluster c v).mem = s.mem := rfl
@[simp] theorem State.setCluster_poison (s : State) (c : Nat) (v : Cluster) : (s.setCluster c v).poison = s.poison := rfl
@[simp] theorem State.setCluster_cores (s : State) (c : Nat) (v : Cluster) : (s.setCluster c v).cores = s.cores := rfl
@[simp] theorem State.setCluster_groups (s : State) (c : Nat) (v : Cluster) : (s.setCluster c v).groups = s.groups := rfl
@[simp] theorem State.setCluster_parts (s : State) (c : Nat) (v : Cluster) : (s.setCluster c v).parts = s.parts := rfl
@[simp] theorem State.setCluster_launches (s : State) (c : Nat) (v : Cluster) : (s.setCluster c v).launches = s.launches := rfl
@[simp] theorem State.setCluster_teams (s : State) (c : Nat) (v : Cluster) : (s.setCluster c v).teams = s.teams := rfl
@[simp] theorem State.setCluster_queues (s : State) (c : Nat) (v : Cluster) : (s.setCluster c v).queues = s.queues := rfl
@[simp] theorem State.setCluster_streams (s : State) (c : Nat) (v : Cluster) : (s.setCluster c v).streams = s.streams := rfl
@[simp] theorem State.setCluster_links (s : State) (c : Nat) (v : Cluster) : (s.setCluster c v).links = s.links := rfl
@[simp] theorem State.setCluster_power (s : State) (c : Nat) (v : Cluster) : (s.setCluster c v).power = s.power := rfl
@[simp] theorem State.setCluster_time (s : State) (c : Nat) (v : Cluster) : (s.setCluster c v).time = s.time := rfl
@[simp] theorem State.setCluster_xlate (s : State) (c : Nat) (v : Cluster) : (s.setCluster c v).xlate = s.xlate := rfl
@[simp] theorem State.setCluster_rewriter (s : State) (c : Nat) (v : Cluster) : (s.setCluster c v).rewriter = s.rewriter := rfl
@[simp] theorem State.setCluster_errors (s : State) (c : Nat) (v : Cluster) : (s.setCluster c v).errors = s.errors := rfl
@[simp] theorem State.setCluster_tenants (s : State) (c : Nat) (v : Cluster) : (s.setCluster c v).tenants = s.tenants := rfl
@[simp] theorem State.setCluster_fuses (s : State) (c : Nat) (v : Cluster) : (s.setCluster c v).fuses = s.fuses := rfl
@[simp] theorem State.setCluster_measured (s : State) (c : Nat) (v : Cluster) : (s.setCluster c v).measured = s.measured := rfl
@[simp] theorem State.setCluster_quotes (s : State) (c : Nat) (v : Cluster) : (s.setCluster c v).quotes = s.quotes := rfl
@[simp] theorem State.setCluster_names (s : State) (c : Nat) (v : Cluster) : (s.setCluster c v).names = s.names := rfl
@[simp] theorem State.setCluster_agent (s : State) (c : Nat) (v : Cluster) : (s.setCluster c v).agent = s.agent := rfl
@[simp] theorem State.setCluster_agenda (s : State) (c : Nat) (v : Cluster) : (s.setCluster c v).agenda = s.agenda := rfl
@[simp] theorem State.setCluster_fresh (s : State) (c : Nat) (v : Cluster) : (s.setCluster c v).fresh = s.fresh := rfl

/-! setLaunch. -/

@[simp] theorem State.setLaunch_mem (s : State) (l : Nat) (v : Launch) : (s.setLaunch l v).mem = s.mem := rfl
@[simp] theorem State.setLaunch_poison (s : State) (l : Nat) (v : Launch) : (s.setLaunch l v).poison = s.poison := rfl
@[simp] theorem State.setLaunch_cores (s : State) (l : Nat) (v : Launch) : (s.setLaunch l v).cores = s.cores := rfl
@[simp] theorem State.setLaunch_groups (s : State) (l : Nat) (v : Launch) : (s.setLaunch l v).groups = s.groups := rfl
@[simp] theorem State.setLaunch_parts (s : State) (l : Nat) (v : Launch) : (s.setLaunch l v).parts = s.parts := rfl
@[simp] theorem State.setLaunch_teams (s : State) (l : Nat) (v : Launch) : (s.setLaunch l v).teams = s.teams := rfl
@[simp] theorem State.setLaunch_clusters (s : State) (l : Nat) (v : Launch) : (s.setLaunch l v).clusters = s.clusters := rfl
@[simp] theorem State.setLaunch_queues (s : State) (l : Nat) (v : Launch) : (s.setLaunch l v).queues = s.queues := rfl
@[simp] theorem State.setLaunch_streams (s : State) (l : Nat) (v : Launch) : (s.setLaunch l v).streams = s.streams := rfl
@[simp] theorem State.setLaunch_links (s : State) (l : Nat) (v : Launch) : (s.setLaunch l v).links = s.links := rfl
@[simp] theorem State.setLaunch_power (s : State) (l : Nat) (v : Launch) : (s.setLaunch l v).power = s.power := rfl
@[simp] theorem State.setLaunch_time (s : State) (l : Nat) (v : Launch) : (s.setLaunch l v).time = s.time := rfl
@[simp] theorem State.setLaunch_xlate (s : State) (l : Nat) (v : Launch) : (s.setLaunch l v).xlate = s.xlate := rfl
@[simp] theorem State.setLaunch_rewriter (s : State) (l : Nat) (v : Launch) : (s.setLaunch l v).rewriter = s.rewriter := rfl
@[simp] theorem State.setLaunch_errors (s : State) (l : Nat) (v : Launch) : (s.setLaunch l v).errors = s.errors := rfl
@[simp] theorem State.setLaunch_tenants (s : State) (l : Nat) (v : Launch) : (s.setLaunch l v).tenants = s.tenants := rfl
@[simp] theorem State.setLaunch_fuses (s : State) (l : Nat) (v : Launch) : (s.setLaunch l v).fuses = s.fuses := rfl
@[simp] theorem State.setLaunch_measured (s : State) (l : Nat) (v : Launch) : (s.setLaunch l v).measured = s.measured := rfl
@[simp] theorem State.setLaunch_quotes (s : State) (l : Nat) (v : Launch) : (s.setLaunch l v).quotes = s.quotes := rfl
@[simp] theorem State.setLaunch_names (s : State) (l : Nat) (v : Launch) : (s.setLaunch l v).names = s.names := rfl
@[simp] theorem State.setLaunch_agent (s : State) (l : Nat) (v : Launch) : (s.setLaunch l v).agent = s.agent := rfl
@[simp] theorem State.setLaunch_agenda (s : State) (l : Nat) (v : Launch) : (s.setLaunch l v).agenda = s.agenda := rfl
@[simp] theorem State.setLaunch_fresh (s : State) (l : Nat) (v : Launch) : (s.setLaunch l v).fresh = s.fresh := rfl

/-! setPart. -/

@[simp] theorem State.setPart_mem (s : State) (p : Nat) (v : Partition) : (s.setPart p v).mem = s.mem := rfl
@[simp] theorem State.setPart_poison (s : State) (p : Nat) (v : Partition) : (s.setPart p v).poison = s.poison := rfl
@[simp] theorem State.setPart_cores (s : State) (p : Nat) (v : Partition) : (s.setPart p v).cores = s.cores := rfl
@[simp] theorem State.setPart_groups (s : State) (p : Nat) (v : Partition) : (s.setPart p v).groups = s.groups := rfl
@[simp] theorem State.setPart_launches (s : State) (p : Nat) (v : Partition) : (s.setPart p v).launches = s.launches := rfl
@[simp] theorem State.setPart_teams (s : State) (p : Nat) (v : Partition) : (s.setPart p v).teams = s.teams := rfl
@[simp] theorem State.setPart_clusters (s : State) (p : Nat) (v : Partition) : (s.setPart p v).clusters = s.clusters := rfl
@[simp] theorem State.setPart_queues (s : State) (p : Nat) (v : Partition) : (s.setPart p v).queues = s.queues := rfl
@[simp] theorem State.setPart_streams (s : State) (p : Nat) (v : Partition) : (s.setPart p v).streams = s.streams := rfl
@[simp] theorem State.setPart_links (s : State) (p : Nat) (v : Partition) : (s.setPart p v).links = s.links := rfl
@[simp] theorem State.setPart_power (s : State) (p : Nat) (v : Partition) : (s.setPart p v).power = s.power := rfl
@[simp] theorem State.setPart_time (s : State) (p : Nat) (v : Partition) : (s.setPart p v).time = s.time := rfl
@[simp] theorem State.setPart_xlate (s : State) (p : Nat) (v : Partition) : (s.setPart p v).xlate = s.xlate := rfl
@[simp] theorem State.setPart_rewriter (s : State) (p : Nat) (v : Partition) : (s.setPart p v).rewriter = s.rewriter := rfl
@[simp] theorem State.setPart_errors (s : State) (p : Nat) (v : Partition) : (s.setPart p v).errors = s.errors := rfl
@[simp] theorem State.setPart_tenants (s : State) (p : Nat) (v : Partition) : (s.setPart p v).tenants = s.tenants := rfl
@[simp] theorem State.setPart_fuses (s : State) (p : Nat) (v : Partition) : (s.setPart p v).fuses = s.fuses := rfl
@[simp] theorem State.setPart_measured (s : State) (p : Nat) (v : Partition) : (s.setPart p v).measured = s.measured := rfl
@[simp] theorem State.setPart_quotes (s : State) (p : Nat) (v : Partition) : (s.setPart p v).quotes = s.quotes := rfl
@[simp] theorem State.setPart_names (s : State) (p : Nat) (v : Partition) : (s.setPart p v).names = s.names := rfl
@[simp] theorem State.setPart_agent (s : State) (p : Nat) (v : Partition) : (s.setPart p v).agent = s.agent := rfl
@[simp] theorem State.setPart_agenda (s : State) (p : Nat) (v : Partition) : (s.setPart p v).agenda = s.agenda := rfl
@[simp] theorem State.setPart_fresh (s : State) (p : Nat) (v : Partition) : (s.setPart p v).fresh = s.fresh := rfl

/-! setLink. -/

@[simp] theorem State.setLink_mem (s : State) (k : Nat) (v : Link) : (s.setLink k v).mem = s.mem := rfl
@[simp] theorem State.setLink_poison (s : State) (k : Nat) (v : Link) : (s.setLink k v).poison = s.poison := rfl
@[simp] theorem State.setLink_cores (s : State) (k : Nat) (v : Link) : (s.setLink k v).cores = s.cores := rfl
@[simp] theorem State.setLink_groups (s : State) (k : Nat) (v : Link) : (s.setLink k v).groups = s.groups := rfl
@[simp] theorem State.setLink_parts (s : State) (k : Nat) (v : Link) : (s.setLink k v).parts = s.parts := rfl
@[simp] theorem State.setLink_launches (s : State) (k : Nat) (v : Link) : (s.setLink k v).launches = s.launches := rfl
@[simp] theorem State.setLink_teams (s : State) (k : Nat) (v : Link) : (s.setLink k v).teams = s.teams := rfl
@[simp] theorem State.setLink_clusters (s : State) (k : Nat) (v : Link) : (s.setLink k v).clusters = s.clusters := rfl
@[simp] theorem State.setLink_queues (s : State) (k : Nat) (v : Link) : (s.setLink k v).queues = s.queues := rfl
@[simp] theorem State.setLink_streams (s : State) (k : Nat) (v : Link) : (s.setLink k v).streams = s.streams := rfl
@[simp] theorem State.setLink_power (s : State) (k : Nat) (v : Link) : (s.setLink k v).power = s.power := rfl
@[simp] theorem State.setLink_time (s : State) (k : Nat) (v : Link) : (s.setLink k v).time = s.time := rfl
@[simp] theorem State.setLink_xlate (s : State) (k : Nat) (v : Link) : (s.setLink k v).xlate = s.xlate := rfl
@[simp] theorem State.setLink_rewriter (s : State) (k : Nat) (v : Link) : (s.setLink k v).rewriter = s.rewriter := rfl
@[simp] theorem State.setLink_errors (s : State) (k : Nat) (v : Link) : (s.setLink k v).errors = s.errors := rfl
@[simp] theorem State.setLink_tenants (s : State) (k : Nat) (v : Link) : (s.setLink k v).tenants = s.tenants := rfl
@[simp] theorem State.setLink_fuses (s : State) (k : Nat) (v : Link) : (s.setLink k v).fuses = s.fuses := rfl
@[simp] theorem State.setLink_measured (s : State) (k : Nat) (v : Link) : (s.setLink k v).measured = s.measured := rfl
@[simp] theorem State.setLink_quotes (s : State) (k : Nat) (v : Link) : (s.setLink k v).quotes = s.quotes := rfl
@[simp] theorem State.setLink_names (s : State) (k : Nat) (v : Link) : (s.setLink k v).names = s.names := rfl
@[simp] theorem State.setLink_agent (s : State) (k : Nat) (v : Link) : (s.setLink k v).agent = s.agent := rfl
@[simp] theorem State.setLink_agenda (s : State) (k : Nat) (v : Link) : (s.setLink k v).agenda = s.agenda := rfl
@[simp] theorem State.setLink_fresh (s : State) (k : Nat) (v : Link) : (s.setLink k v).fresh = s.fresh := rfl

/-! setPoison. -/

@[simp] theorem State.setPoison_mem (s : State) (a : Nat) (b : Bool) : (s.setPoison a b).mem = s.mem := rfl
@[simp] theorem State.setPoison_cores (s : State) (a : Nat) (b : Bool) : (s.setPoison a b).cores = s.cores := rfl
@[simp] theorem State.setPoison_groups (s : State) (a : Nat) (b : Bool) : (s.setPoison a b).groups = s.groups := rfl
@[simp] theorem State.setPoison_parts (s : State) (a : Nat) (b : Bool) : (s.setPoison a b).parts = s.parts := rfl
@[simp] theorem State.setPoison_launches (s : State) (a : Nat) (b : Bool) : (s.setPoison a b).launches = s.launches := rfl
@[simp] theorem State.setPoison_teams (s : State) (a : Nat) (b : Bool) : (s.setPoison a b).teams = s.teams := rfl
@[simp] theorem State.setPoison_clusters (s : State) (a : Nat) (b : Bool) : (s.setPoison a b).clusters = s.clusters := rfl
@[simp] theorem State.setPoison_queues (s : State) (a : Nat) (b : Bool) : (s.setPoison a b).queues = s.queues := rfl
@[simp] theorem State.setPoison_streams (s : State) (a : Nat) (b : Bool) : (s.setPoison a b).streams = s.streams := rfl
@[simp] theorem State.setPoison_links (s : State) (a : Nat) (b : Bool) : (s.setPoison a b).links = s.links := rfl
@[simp] theorem State.setPoison_power (s : State) (a : Nat) (b : Bool) : (s.setPoison a b).power = s.power := rfl
@[simp] theorem State.setPoison_time (s : State) (a : Nat) (b : Bool) : (s.setPoison a b).time = s.time := rfl
@[simp] theorem State.setPoison_xlate (s : State) (a : Nat) (b : Bool) : (s.setPoison a b).xlate = s.xlate := rfl
@[simp] theorem State.setPoison_rewriter (s : State) (a : Nat) (b : Bool) : (s.setPoison a b).rewriter = s.rewriter := rfl
@[simp] theorem State.setPoison_errors (s : State) (a : Nat) (b : Bool) : (s.setPoison a b).errors = s.errors := rfl
@[simp] theorem State.setPoison_tenants (s : State) (a : Nat) (b : Bool) : (s.setPoison a b).tenants = s.tenants := rfl
@[simp] theorem State.setPoison_fuses (s : State) (a : Nat) (b : Bool) : (s.setPoison a b).fuses = s.fuses := rfl
@[simp] theorem State.setPoison_measured (s : State) (a : Nat) (b : Bool) : (s.setPoison a b).measured = s.measured := rfl
@[simp] theorem State.setPoison_quotes (s : State) (a : Nat) (b : Bool) : (s.setPoison a b).quotes = s.quotes := rfl
@[simp] theorem State.setPoison_names (s : State) (a : Nat) (b : Bool) : (s.setPoison a b).names = s.names := rfl
@[simp] theorem State.setPoison_agent (s : State) (a : Nat) (b : Bool) : (s.setPoison a b).agent = s.agent := rfl
@[simp] theorem State.setPoison_agenda (s : State) (a : Nat) (b : Bool) : (s.setPoison a b).agenda = s.agenda := rfl
@[simp] theorem State.setPoison_fresh (s : State) (a : Nat) (b : Bool) : (s.setPoison a b).fresh = s.fresh := rfl

/-! setByte. -/

@[simp] theorem State.setByte_poison (s : State) (a : Nat) (b : Byte) : (s.setByte a b).poison = s.poison := rfl
@[simp] theorem State.setByte_cores (s : State) (a : Nat) (b : Byte) : (s.setByte a b).cores = s.cores := rfl
@[simp] theorem State.setByte_groups (s : State) (a : Nat) (b : Byte) : (s.setByte a b).groups = s.groups := rfl
@[simp] theorem State.setByte_parts (s : State) (a : Nat) (b : Byte) : (s.setByte a b).parts = s.parts := rfl
@[simp] theorem State.setByte_launches (s : State) (a : Nat) (b : Byte) : (s.setByte a b).launches = s.launches := rfl
@[simp] theorem State.setByte_teams (s : State) (a : Nat) (b : Byte) : (s.setByte a b).teams = s.teams := rfl
@[simp] theorem State.setByte_clusters (s : State) (a : Nat) (b : Byte) : (s.setByte a b).clusters = s.clusters := rfl
@[simp] theorem State.setByte_queues (s : State) (a : Nat) (b : Byte) : (s.setByte a b).queues = s.queues := rfl
@[simp] theorem State.setByte_streams (s : State) (a : Nat) (b : Byte) : (s.setByte a b).streams = s.streams := rfl
@[simp] theorem State.setByte_links (s : State) (a : Nat) (b : Byte) : (s.setByte a b).links = s.links := rfl
@[simp] theorem State.setByte_power (s : State) (a : Nat) (b : Byte) : (s.setByte a b).power = s.power := rfl
@[simp] theorem State.setByte_time (s : State) (a : Nat) (b : Byte) : (s.setByte a b).time = s.time := rfl
@[simp] theorem State.setByte_xlate (s : State) (a : Nat) (b : Byte) : (s.setByte a b).xlate = s.xlate := rfl
@[simp] theorem State.setByte_rewriter (s : State) (a : Nat) (b : Byte) : (s.setByte a b).rewriter = s.rewriter := rfl
@[simp] theorem State.setByte_errors (s : State) (a : Nat) (b : Byte) : (s.setByte a b).errors = s.errors := rfl
@[simp] theorem State.setByte_tenants (s : State) (a : Nat) (b : Byte) : (s.setByte a b).tenants = s.tenants := rfl
@[simp] theorem State.setByte_fuses (s : State) (a : Nat) (b : Byte) : (s.setByte a b).fuses = s.fuses := rfl
@[simp] theorem State.setByte_measured (s : State) (a : Nat) (b : Byte) : (s.setByte a b).measured = s.measured := rfl
@[simp] theorem State.setByte_quotes (s : State) (a : Nat) (b : Byte) : (s.setByte a b).quotes = s.quotes := rfl
@[simp] theorem State.setByte_names (s : State) (a : Nat) (b : Byte) : (s.setByte a b).names = s.names := rfl
@[simp] theorem State.setByte_agent (s : State) (a : Nat) (b : Byte) : (s.setByte a b).agent = s.agent := rfl
@[simp] theorem State.setByte_agenda (s : State) (a : Nat) (b : Byte) : (s.setByte a b).agenda = s.agenda := rfl
@[simp] theorem State.setByte_fresh (s : State) (a : Nat) (b : Byte) : (s.setByte a b).fresh = s.fresh := rfl

/-! logError. -/

@[simp] theorem State.logError_mem (s : State) (n : Nat) : (s.logError n).mem = s.mem := rfl
@[simp] theorem State.logError_poison (s : State) (n : Nat) : (s.logError n).poison = s.poison := rfl
@[simp] theorem State.logError_cores (s : State) (n : Nat) : (s.logError n).cores = s.cores := rfl
@[simp] theorem State.logError_groups (s : State) (n : Nat) : (s.logError n).groups = s.groups := rfl
@[simp] theorem State.logError_parts (s : State) (n : Nat) : (s.logError n).parts = s.parts := rfl
@[simp] theorem State.logError_launches (s : State) (n : Nat) : (s.logError n).launches = s.launches := rfl
@[simp] theorem State.logError_teams (s : State) (n : Nat) : (s.logError n).teams = s.teams := rfl
@[simp] theorem State.logError_clusters (s : State) (n : Nat) : (s.logError n).clusters = s.clusters := rfl
@[simp] theorem State.logError_queues (s : State) (n : Nat) : (s.logError n).queues = s.queues := rfl
@[simp] theorem State.logError_streams (s : State) (n : Nat) : (s.logError n).streams = s.streams := rfl
@[simp] theorem State.logError_links (s : State) (n : Nat) : (s.logError n).links = s.links := rfl
@[simp] theorem State.logError_power (s : State) (n : Nat) : (s.logError n).power = s.power := rfl
@[simp] theorem State.logError_time (s : State) (n : Nat) : (s.logError n).time = s.time := rfl
@[simp] theorem State.logError_xlate (s : State) (n : Nat) : (s.logError n).xlate = s.xlate := rfl
@[simp] theorem State.logError_rewriter (s : State) (n : Nat) : (s.logError n).rewriter = s.rewriter := rfl
@[simp] theorem State.logError_tenants (s : State) (n : Nat) : (s.logError n).tenants = s.tenants := rfl
@[simp] theorem State.logError_fuses (s : State) (n : Nat) : (s.logError n).fuses = s.fuses := rfl
@[simp] theorem State.logError_measured (s : State) (n : Nat) : (s.logError n).measured = s.measured := rfl
@[simp] theorem State.logError_quotes (s : State) (n : Nat) : (s.logError n).quotes = s.quotes := rfl
@[simp] theorem State.logError_names (s : State) (n : Nat) : (s.logError n).names = s.names := rfl
@[simp] theorem State.logError_agent (s : State) (n : Nat) : (s.logError n).agent = s.agent := rfl
@[simp] theorem State.logError_agenda (s : State) (n : Nat) : (s.logError n).agenda = s.agenda := rfl
@[simp] theorem State.logError_fresh (s : State) (n : Nat) : (s.logError n).fresh = s.fresh := rfl

/-! at_. -/

@[simp] theorem State.at_mem (s : State) (n k c : Nat) : (s.at_ n k c).mem = s.mem := rfl
@[simp] theorem State.at_poison (s : State) (n k c : Nat) : (s.at_ n k c).poison = s.poison := rfl
@[simp] theorem State.at_cores (s : State) (n k c : Nat) : (s.at_ n k c).cores = s.cores := rfl
@[simp] theorem State.at_groups (s : State) (n k c : Nat) : (s.at_ n k c).groups = s.groups := rfl
@[simp] theorem State.at_parts (s : State) (n k c : Nat) : (s.at_ n k c).parts = s.parts := rfl
@[simp] theorem State.at_launches (s : State) (n k c : Nat) : (s.at_ n k c).launches = s.launches := rfl
@[simp] theorem State.at_teams (s : State) (n k c : Nat) : (s.at_ n k c).teams = s.teams := rfl
@[simp] theorem State.at_clusters (s : State) (n k c : Nat) : (s.at_ n k c).clusters = s.clusters := rfl
@[simp] theorem State.at_queues (s : State) (n k c : Nat) : (s.at_ n k c).queues = s.queues := rfl
@[simp] theorem State.at_streams (s : State) (n k c : Nat) : (s.at_ n k c).streams = s.streams := rfl
@[simp] theorem State.at_links (s : State) (n k c : Nat) : (s.at_ n k c).links = s.links := rfl
@[simp] theorem State.at_power (s : State) (n k c : Nat) : (s.at_ n k c).power = s.power := rfl
@[simp] theorem State.at_time (s : State) (n k c : Nat) : (s.at_ n k c).time = s.time := rfl
@[simp] theorem State.at_xlate (s : State) (n k c : Nat) : (s.at_ n k c).xlate = s.xlate := rfl
@[simp] theorem State.at_rewriter (s : State) (n k c : Nat) : (s.at_ n k c).rewriter = s.rewriter := rfl
@[simp] theorem State.at_errors (s : State) (n k c : Nat) : (s.at_ n k c).errors = s.errors := rfl
@[simp] theorem State.at_tenants (s : State) (n k c : Nat) : (s.at_ n k c).tenants = s.tenants := rfl
@[simp] theorem State.at_fuses (s : State) (n k c : Nat) : (s.at_ n k c).fuses = s.fuses := rfl
@[simp] theorem State.at_measured (s : State) (n k c : Nat) : (s.at_ n k c).measured = s.measured := rfl
@[simp] theorem State.at_quotes (s : State) (n k c : Nat) : (s.at_ n k c).quotes = s.quotes := rfl
@[simp] theorem State.at_names (s : State) (n k c : Nat) : (s.at_ n k c).names = s.names := rfl
@[simp] theorem State.at_agenda (s : State) (n k c : Nat) : (s.at_ n k c).agenda = s.agenda := rfl
@[simp] theorem State.at_fresh (s : State) (n k c : Nat) : (s.at_ n k c).fresh = s.fresh := rfl

/-! Updates by a function are updates with its value. -/

@[simp] theorem State.modCore_eq (s : State) (n : Nat) (f : Core → Core) : s.modCore n f = s.setCore n (f (s.core n)) := rfl
@[simp] theorem State.modStream_eq (s : State) (n : Nat) (f : Stream → Stream) : s.modStream n f = s.setStream n (f (s.stream n)) := rfl
@[simp] theorem State.modTeam_eq (s : State) (n : Nat) (f : Team → Team) : s.modTeam n f = s.setTeam n (f (s.team n)) := rfl
@[simp] theorem State.modCluster_eq (s : State) (n : Nat) (f : Cluster → Cluster) : s.modCluster n f = s.setCluster n (f (s.cluster n)) := rfl
@[simp] theorem State.modLaunch_eq (s : State) (n : Nat) (f : Launch → Launch) : s.modLaunch n f = s.setLaunch n (f (s.launch n)) := rfl
@[simp] theorem State.modPart_eq (s : State) (n : Nat) (f : Partition → Partition) : s.modPart n f = s.setPart n (f (s.part n)) := rfl
@[simp] theorem State.modLink_eq (s : State) (n : Nat) (f : Link → Link) : s.modLink n f = s.setLink n (f (s.link n)) := rfl
@[simp] theorem State.modGroup_eq (s : State) (n k : Nat) (f : Group → Group) : s.modGroup n k f = s.setGroup n k (f (s.group n k)) := rfl
@[simp] theorem State.modCtx_eq (s : State) (n x : Nat) (f : Ctx → Ctx) :
    s.modCtx n x f = s.setCore n ((s.core n).setCtx x (f ((s.core n).ctx x))) := rfl

/-! Reads after writes. -/

@[simp] theorem State.core_setCore (s : State) (n : Nat) (c : Core) : (s.setCore n c).core n = c := Store.get_put_same _ _ _
theorem State.core_setCore_ne (s : State) (n : Nat) (c : Core) {j : Nat} (h : j ≠ n) : (s.setCore n c).core j = s.core j := Store.get_put_ne _ _ h
@[simp] theorem State.stream_setStream (s : State) (n : Nat) (c : Stream) : (s.setStream n c).stream n = c := Store.get_put_same _ _ _
theorem State.stream_setStream_ne (s : State) (n : Nat) (c : Stream) {j : Nat} (h : j ≠ n) : (s.setStream n c).stream j = s.stream j := Store.get_put_ne _ _ h
@[simp] theorem State.team_setTeam (s : State) (n : Nat) (c : Team) : (s.setTeam n c).team n = c := Store.get_put_same _ _ _
theorem State.team_setTeam_ne (s : State) (n : Nat) (c : Team) {j : Nat} (h : j ≠ n) : (s.setTeam n c).team j = s.team j := Store.get_put_ne _ _ h
@[simp] theorem State.cluster_setCluster (s : State) (n : Nat) (c : Cluster) : (s.setCluster n c).cluster n = c := Store.get_put_same _ _ _
theorem State.cluster_setCluster_ne (s : State) (n : Nat) (c : Cluster) {j : Nat} (h : j ≠ n) : (s.setCluster n c).cluster j = s.cluster j := Store.get_put_ne _ _ h
@[simp] theorem State.launch_setLaunch (s : State) (n : Nat) (c : Launch) : (s.setLaunch n c).launch n = c := Store.get_put_same _ _ _
theorem State.launch_setLaunch_ne (s : State) (n : Nat) (c : Launch) {j : Nat} (h : j ≠ n) : (s.setLaunch n c).launch j = s.launch j := Store.get_put_ne _ _ h
@[simp] theorem State.part_setPart (s : State) (n : Nat) (c : Partition) : (s.setPart n c).part n = c := Store.get_put_same _ _ _
theorem State.part_setPart_ne (s : State) (n : Nat) (c : Partition) {j : Nat} (h : j ≠ n) : (s.setPart n c).part j = s.part j := Store.get_put_ne _ _ h
@[simp] theorem State.link_setLink (s : State) (n : Nat) (c : Link) : (s.setLink n c).link n = c := Store.get_put_same _ _ _
theorem State.link_setLink_ne (s : State) (n : Nat) (c : Link) {j : Nat} (h : j ≠ n) : (s.setLink n c).link j = s.link j := Store.get_put_ne _ _ h
@[simp] theorem State.group_setGroup (s : State) (n k : Nat) (g : Group) : (s.setGroup n k g).group n k = g := Store.get_put_same _ _ _
theorem State.group_setGroup_ne (s : State) {n k : Nat} (g : Group) {m j : Nat} (h : groupKey m j ≠ groupKey n k) :
    (s.setGroup n k g).group m j = s.group m j := Store.get_put_ne _ _ h

@[simp] theorem State.stream_setCore' (s : State) (n : Nat) (c : Core) (j : Nat) : (s.setCore n c).stream j = s.stream j := rfl
@[simp] theorem State.team_setCore' (s : State) (n : Nat) (c : Core) (j : Nat) : (s.setCore n c).team j = s.team j := rfl
@[simp] theorem State.cluster_setCore' (s : State) (n : Nat) (c : Core) (j : Nat) : (s.setCore n c).cluster j = s.cluster j := rfl
@[simp] theorem State.launch_setCore' (s : State) (n : Nat) (c : Core) (j : Nat) : (s.setCore n c).launch j = s.launch j := rfl
@[simp] theorem State.part_setCore' (s : State) (n : Nat) (c : Core) (j : Nat) : (s.setCore n c).part j = s.part j := rfl
@[simp] theorem State.link_setCore' (s : State) (n : Nat) (c : Core) (j : Nat) : (s.setCore n c).link j = s.link j := rfl
@[simp] theorem State.group_setCore' (s : State) (n : Nat) (c : Core) (m j : Nat) : (s.setCore n c).group m j = s.group m j := rfl
@[simp] theorem State.byteAt_setCore' (s : State) (n : Nat) (c : Core) (p : Nat) : (s.setCore n c).byteAt p = s.byteAt p := rfl
@[simp] theorem State.core_setGroup' (s : State) (n k : Nat) (g : Group) (j : Nat) : (s.setGroup n k g).core j = s.core j := rfl
@[simp] theorem State.stream_setGroup' (s : State) (n k : Nat) (g : Group) (j : Nat) : (s.setGroup n k g).stream j = s.stream j := rfl
@[simp] theorem State.team_setGroup' (s : State) (n k : Nat) (g : Group) (j : Nat) : (s.setGroup n k g).team j = s.team j := rfl
@[simp] theorem State.cluster_setGroup' (s : State) (n k : Nat) (g : Group) (j : Nat) : (s.setGroup n k g).cluster j = s.cluster j := rfl
@[simp] theorem State.launch_setGroup' (s : State) (n k : Nat) (g : Group) (j : Nat) : (s.setGroup n k g).launch j = s.launch j := rfl
@[simp] theorem State.part_setGroup' (s : State) (n k : Nat) (g : Group) (j : Nat) : (s.setGroup n k g).part j = s.part j := rfl
@[simp] theorem State.link_setGroup' (s : State) (n k : Nat) (g : Group) (j : Nat) : (s.setGroup n k g).link j = s.link j := rfl
@[simp] theorem State.byteAt_setGroup' (s : State) (n k : Nat) (g : Group) (p : Nat) : (s.setGroup n k g).byteAt p = s.byteAt p := rfl
@[simp] theorem State.core_setStream' (s : State) (k : Nat) (v : Stream) (j : Nat) : (s.setStream k v).core j = s.core j := rfl
@[simp] theorem State.team_setStream' (s : State) (k : Nat) (v : Stream) (j : Nat) : (s.setStream k v).team j = s.team j := rfl
@[simp] theorem State.cluster_setStream' (s : State) (k : Nat) (v : Stream) (j : Nat) : (s.setStream k v).cluster j = s.cluster j := rfl
@[simp] theorem State.launch_setStream' (s : State) (k : Nat) (v : Stream) (j : Nat) : (s.setStream k v).launch j = s.launch j := rfl
@[simp] theorem State.part_setStream' (s : State) (k : Nat) (v : Stream) (j : Nat) : (s.setStream k v).part j = s.part j := rfl
@[simp] theorem State.link_setStream' (s : State) (k : Nat) (v : Stream) (j : Nat) : (s.setStream k v).link j = s.link j := rfl
@[simp] theorem State.group_setStream' (s : State) (k : Nat) (v : Stream) (m j : Nat) : (s.setStream k v).group m j = s.group m j := rfl
@[simp] theorem State.byteAt_setStream' (s : State) (k : Nat) (v : Stream) (p : Nat) : (s.setStream k v).byteAt p = s.byteAt p := rfl
@[simp] theorem State.core_setTeam' (s : State) (t : Nat) (v : Team) (j : Nat) : (s.setTeam t v).core j = s.core j := rfl
@[simp] theorem State.stream_setTeam' (s : State) (t : Nat) (v : Team) (j : Nat) : (s.setTeam t v).stream j = s.stream j := rfl
@[simp] theorem State.cluster_setTeam' (s : State) (t : Nat) (v : Team) (j : Nat) : (s.setTeam t v).cluster j = s.cluster j := rfl
@[simp] theorem State.launch_setTeam' (s : State) (t : Nat) (v : Team) (j : Nat) : (s.setTeam t v).launch j = s.launch j := rfl
@[simp] theorem State.part_setTeam' (s : State) (t : Nat) (v : Team) (j : Nat) : (s.setTeam t v).part j = s.part j := rfl
@[simp] theorem State.link_setTeam' (s : State) (t : Nat) (v : Team) (j : Nat) : (s.setTeam t v).link j = s.link j := rfl
@[simp] theorem State.group_setTeam' (s : State) (t : Nat) (v : Team) (m j : Nat) : (s.setTeam t v).group m j = s.group m j := rfl
@[simp] theorem State.byteAt_setTeam' (s : State) (t : Nat) (v : Team) (p : Nat) : (s.setTeam t v).byteAt p = s.byteAt p := rfl
@[simp] theorem State.core_setCluster' (s : State) (c : Nat) (v : Cluster) (j : Nat) : (s.setCluster c v).core j = s.core j := rfl
@[simp] theorem State.stream_setCluster' (s : State) (c : Nat) (v : Cluster) (j : Nat) : (s.setCluster c v).stream j = s.stream j := rfl
@[simp] theorem State.team_setCluster' (s : State) (c : Nat) (v : Cluster) (j : Nat) : (s.setCluster c v).team j = s.team j := rfl
@[simp] theorem State.launch_setCluster' (s : State) (c : Nat) (v : Cluster) (j : Nat) : (s.setCluster c v).launch j = s.launch j := rfl
@[simp] theorem State.part_setCluster' (s : State) (c : Nat) (v : Cluster) (j : Nat) : (s.setCluster c v).part j = s.part j := rfl
@[simp] theorem State.link_setCluster' (s : State) (c : Nat) (v : Cluster) (j : Nat) : (s.setCluster c v).link j = s.link j := rfl
@[simp] theorem State.group_setCluster' (s : State) (c : Nat) (v : Cluster) (m j : Nat) : (s.setCluster c v).group m j = s.group m j := rfl
@[simp] theorem State.byteAt_setCluster' (s : State) (c : Nat) (v : Cluster) (p : Nat) : (s.setCluster c v).byteAt p = s.byteAt p := rfl
@[simp] theorem State.core_setLaunch' (s : State) (l : Nat) (v : Launch) (j : Nat) : (s.setLaunch l v).core j = s.core j := rfl
@[simp] theorem State.stream_setLaunch' (s : State) (l : Nat) (v : Launch) (j : Nat) : (s.setLaunch l v).stream j = s.stream j := rfl
@[simp] theorem State.team_setLaunch' (s : State) (l : Nat) (v : Launch) (j : Nat) : (s.setLaunch l v).team j = s.team j := rfl
@[simp] theorem State.cluster_setLaunch' (s : State) (l : Nat) (v : Launch) (j : Nat) : (s.setLaunch l v).cluster j = s.cluster j := rfl
@[simp] theorem State.part_setLaunch' (s : State) (l : Nat) (v : Launch) (j : Nat) : (s.setLaunch l v).part j = s.part j := rfl
@[simp] theorem State.link_setLaunch' (s : State) (l : Nat) (v : Launch) (j : Nat) : (s.setLaunch l v).link j = s.link j := rfl
@[simp] theorem State.group_setLaunch' (s : State) (l : Nat) (v : Launch) (m j : Nat) : (s.setLaunch l v).group m j = s.group m j := rfl
@[simp] theorem State.byteAt_setLaunch' (s : State) (l : Nat) (v : Launch) (p : Nat) : (s.setLaunch l v).byteAt p = s.byteAt p := rfl
@[simp] theorem State.core_setPart' (s : State) (p : Nat) (v : Partition) (j : Nat) : (s.setPart p v).core j = s.core j := rfl
@[simp] theorem State.stream_setPart' (s : State) (p : Nat) (v : Partition) (j : Nat) : (s.setPart p v).stream j = s.stream j := rfl
@[simp] theorem State.team_setPart' (s : State) (p : Nat) (v : Partition) (j : Nat) : (s.setPart p v).team j = s.team j := rfl
@[simp] theorem State.cluster_setPart' (s : State) (p : Nat) (v : Partition) (j : Nat) : (s.setPart p v).cluster j = s.cluster j := rfl
@[simp] theorem State.launch_setPart' (s : State) (p : Nat) (v : Partition) (j : Nat) : (s.setPart p v).launch j = s.launch j := rfl
@[simp] theorem State.link_setPart' (s : State) (p : Nat) (v : Partition) (j : Nat) : (s.setPart p v).link j = s.link j := rfl
@[simp] theorem State.group_setPart' (s : State) (p : Nat) (v : Partition) (m j : Nat) : (s.setPart p v).group m j = s.group m j := rfl
@[simp] theorem State.byteAt_setPart' (s : State) (p : Nat) (v : Partition) (p : Nat) : (s.setPart p v).byteAt p = s.byteAt p := rfl
@[simp] theorem State.core_setLink' (s : State) (k : Nat) (v : Link) (j : Nat) : (s.setLink k v).core j = s.core j := rfl
@[simp] theorem State.stream_setLink' (s : State) (k : Nat) (v : Link) (j : Nat) : (s.setLink k v).stream j = s.stream j := rfl
@[simp] theorem State.team_setLink' (s : State) (k : Nat) (v : Link) (j : Nat) : (s.setLink k v).team j = s.team j := rfl
@[simp] theorem State.cluster_setLink' (s : State) (k : Nat) (v : Link) (j : Nat) : (s.setLink k v).cluster j = s.cluster j := rfl
@[simp] theorem State.launch_setLink' (s : State) (k : Nat) (v : Link) (j : Nat) : (s.setLink k v).launch j = s.launch j := rfl
@[simp] theorem State.part_setLink' (s : State) (k : Nat) (v : Link) (j : Nat) : (s.setLink k v).part j = s.part j := rfl
@[simp] theorem State.group_setLink' (s : State) (k : Nat) (v : Link) (m j : Nat) : (s.setLink k v).group m j = s.group m j := rfl
@[simp] theorem State.byteAt_setLink' (s : State) (k : Nat) (v : Link) (p : Nat) : (s.setLink k v).byteAt p = s.byteAt p := rfl
@[simp] theorem State.core_setPoison' (s : State) (a : Nat) (b : Bool) (j : Nat) : (s.setPoison a b).core j = s.core j := rfl
@[simp] theorem State.stream_setPoison' (s : State) (a : Nat) (b : Bool) (j : Nat) : (s.setPoison a b).stream j = s.stream j := rfl
@[simp] theorem State.team_setPoison' (s : State) (a : Nat) (b : Bool) (j : Nat) : (s.setPoison a b).team j = s.team j := rfl
@[simp] theorem State.cluster_setPoison' (s : State) (a : Nat) (b : Bool) (j : Nat) : (s.setPoison a b).cluster j = s.cluster j := rfl
@[simp] theorem State.launch_setPoison' (s : State) (a : Nat) (b : Bool) (j : Nat) : (s.setPoison a b).launch j = s.launch j := rfl
@[simp] theorem State.part_setPoison' (s : State) (a : Nat) (b : Bool) (j : Nat) : (s.setPoison a b).part j = s.part j := rfl
@[simp] theorem State.link_setPoison' (s : State) (a : Nat) (b : Bool) (j : Nat) : (s.setPoison a b).link j = s.link j := rfl
@[simp] theorem State.group_setPoison' (s : State) (a : Nat) (b : Bool) (m j : Nat) : (s.setPoison a b).group m j = s.group m j := rfl
@[simp] theorem State.byteAt_setPoison' (s : State) (a : Nat) (b : Bool) (p : Nat) : (s.setPoison a b).byteAt p = s.byteAt p := rfl
@[simp] theorem State.core_setByte' (s : State) (a : Nat) (b : Byte) (j : Nat) : (s.setByte a b).core j = s.core j := rfl
@[simp] theorem State.stream_setByte' (s : State) (a : Nat) (b : Byte) (j : Nat) : (s.setByte a b).stream j = s.stream j := rfl
@[simp] theorem State.team_setByte' (s : State) (a : Nat) (b : Byte) (j : Nat) : (s.setByte a b).team j = s.team j := rfl
@[simp] theorem State.cluster_setByte' (s : State) (a : Nat) (b : Byte) (j : Nat) : (s.setByte a b).cluster j = s.cluster j := rfl
@[simp] theorem State.launch_setByte' (s : State) (a : Nat) (b : Byte) (j : Nat) : (s.setByte a b).launch j = s.launch j := rfl
@[simp] theorem State.part_setByte' (s : State) (a : Nat) (b : Byte) (j : Nat) : (s.setByte a b).part j = s.part j := rfl
@[simp] theorem State.link_setByte' (s : State) (a : Nat) (b : Byte) (j : Nat) : (s.setByte a b).link j = s.link j := rfl
@[simp] theorem State.group_setByte' (s : State) (a : Nat) (b : Byte) (m j : Nat) : (s.setByte a b).group m j = s.group m j := rfl
@[simp] theorem State.core_logError' (s : State) (n : Nat) (j : Nat) : (s.logError n).core j = s.core j := rfl
@[simp] theorem State.stream_logError' (s : State) (n : Nat) (j : Nat) : (s.logError n).stream j = s.stream j := rfl
@[simp] theorem State.team_logError' (s : State) (n : Nat) (j : Nat) : (s.logError n).team j = s.team j := rfl
@[simp] theorem State.cluster_logError' (s : State) (n : Nat) (j : Nat) : (s.logError n).cluster j = s.cluster j := rfl
@[simp] theorem State.launch_logError' (s : State) (n : Nat) (j : Nat) : (s.logError n).launch j = s.launch j := rfl
@[simp] theorem State.part_logError' (s : State) (n : Nat) (j : Nat) : (s.logError n).part j = s.part j := rfl
@[simp] theorem State.link_logError' (s : State) (n : Nat) (j : Nat) : (s.logError n).link j = s.link j := rfl
@[simp] theorem State.group_logError' (s : State) (n : Nat) (m j : Nat) : (s.logError n).group m j = s.group m j := rfl
@[simp] theorem State.byteAt_logError' (s : State) (n : Nat) (p : Nat) : (s.logError n).byteAt p = s.byteAt p := rfl
@[simp] theorem State.core_at' (s : State) (n k c : Nat) (j : Nat) : (s.at_ n k c).core j = s.core j := rfl
@[simp] theorem State.stream_at' (s : State) (n k c : Nat) (j : Nat) : (s.at_ n k c).stream j = s.stream j := rfl
@[simp] theorem State.team_at' (s : State) (n k c : Nat) (j : Nat) : (s.at_ n k c).team j = s.team j := rfl
@[simp] theorem State.cluster_at' (s : State) (n k c : Nat) (j : Nat) : (s.at_ n k c).cluster j = s.cluster j := rfl
@[simp] theorem State.launch_at' (s : State) (n k c : Nat) (j : Nat) : (s.at_ n k c).launch j = s.launch j := rfl
@[simp] theorem State.part_at' (s : State) (n k c : Nat) (j : Nat) : (s.at_ n k c).part j = s.part j := rfl
@[simp] theorem State.link_at' (s : State) (n k c : Nat) (j : Nat) : (s.at_ n k c).link j = s.link j := rfl
@[simp] theorem State.group_at' (s : State) (n k c : Nat) (m j : Nat) : (s.at_ n k c).group m j = s.group m j := rfl
@[simp] theorem State.byteAt_at' (s : State) (n k c : Nat) (p : Nat) : (s.at_ n k c).byteAt p = s.byteAt p := rfl

@[simp] theorem State.byteAt_setByte (s : State) (a : Nat) (b : Byte) : (s.setByte a b).byteAt a = b := Memory.read_write_same _ _ _
theorem State.byteAt_setByte_ne (s : State) {a p : Nat} (b : Byte) (h : p ≠ a) : (s.setByte a b).byteAt p = s.byteAt p :=
  Memory.read_write_ne _ _ h

@[simp] theorem Core.port_setPort (c : Core) (p : Nat) (v : Port) : (c.setPort p v).port p = v := Store.get_put_same _ _ _
@[simp] theorem Core.ctx_setCtx (c : Core) (x : Nat) (v : Ctx) : (c.setCtx x v).ctx x = v := Store.get_put_same _ _ _
theorem Core.ctx_setCtx_ne (c : Core) {x y : Nat} (v : Ctx) (h : y ≠ x) : (c.setCtx x v).ctx y = c.ctx y := Store.get_put_ne _ _ h

/-! The group of the current agent. -/

@[simp] theorem State.setCur_mem (s : State) (g : Group) : (s.setCur g).mem = s.mem := by unfold State.setCur; split <;> rfl
@[simp] theorem State.setCur_poison (s : State) (g : Group) : (s.setCur g).poison = s.poison := by unfold State.setCur; split <;> rfl
@[simp] theorem State.setCur_cores (s : State) (g : Group) : (s.setCur g).cores = s.cores := by unfold State.setCur; split <;> rfl
@[simp] theorem State.setCur_parts (s : State) (g : Group) : (s.setCur g).parts = s.parts := by unfold State.setCur; split <;> rfl
@[simp] theorem State.setCur_launches (s : State) (g : Group) : (s.setCur g).launches = s.launches := by unfold State.setCur; split <;> rfl
@[simp] theorem State.setCur_teams (s : State) (g : Group) : (s.setCur g).teams = s.teams := by unfold State.setCur; split <;> rfl
@[simp] theorem State.setCur_clusters (s : State) (g : Group) : (s.setCur g).clusters = s.clusters := by unfold State.setCur; split <;> rfl
@[simp] theorem State.setCur_queues (s : State) (g : Group) : (s.setCur g).queues = s.queues := by unfold State.setCur; split <;> rfl
@[simp] theorem State.setCur_links (s : State) (g : Group) : (s.setCur g).links = s.links := by unfold State.setCur; split <;> rfl
@[simp] theorem State.setCur_power (s : State) (g : Group) : (s.setCur g).power = s.power := by unfold State.setCur; split <;> rfl
@[simp] theorem State.setCur_time (s : State) (g : Group) : (s.setCur g).time = s.time := by unfold State.setCur; split <;> rfl
@[simp] theorem State.setCur_xlate (s : State) (g : Group) : (s.setCur g).xlate = s.xlate := by unfold State.setCur; split <;> rfl
@[simp] theorem State.setCur_rewriter (s : State) (g : Group) : (s.setCur g).rewriter = s.rewriter := by unfold State.setCur; split <;> rfl
@[simp] theorem State.setCur_errors (s : State) (g : Group) : (s.setCur g).errors = s.errors := by unfold State.setCur; split <;> rfl
@[simp] theorem State.setCur_tenants (s : State) (g : Group) : (s.setCur g).tenants = s.tenants := by unfold State.setCur; split <;> rfl
@[simp] theorem State.setCur_fuses (s : State) (g : Group) : (s.setCur g).fuses = s.fuses := by unfold State.setCur; split <;> rfl
@[simp] theorem State.setCur_measured (s : State) (g : Group) : (s.setCur g).measured = s.measured := by unfold State.setCur; split <;> rfl
@[simp] theorem State.setCur_quotes (s : State) (g : Group) : (s.setCur g).quotes = s.quotes := by unfold State.setCur; split <;> rfl
@[simp] theorem State.setCur_names (s : State) (g : Group) : (s.setCur g).names = s.names := by unfold State.setCur; split <;> rfl
@[simp] theorem State.setCur_agent (s : State) (g : Group) : (s.setCur g).agent = s.agent := by unfold State.setCur; split <;> rfl
@[simp] theorem State.setCur_agenda (s : State) (g : Group) : (s.setCur g).agenda = s.agenda := by unfold State.setCur; split <;> rfl
@[simp] theorem State.setCur_fresh (s : State) (g : Group) : (s.setCur g).fresh = s.fresh := by unfold State.setCur; split <;> rfl

/-- The current agent's group after it was written. -/
@[simp] theorem State.cur_setCur (s : State) (g : Group) : (s.setCur g).cur = g := by
  unfold State.cur
  rw [State.setCur_agent]
  unfold State.setCur
  cases s.agent <;> simp

@[simp] theorem State.modCur_eq (s : State) (f : Group → Group) : s.modCur f = s.setCur (f s.cur) := rfl

/-- Writing an agent's group leaves every other group alone. -/
theorem State.group_setCur_ne (s : State) (g : Group) {n k l m j : Nat} (ha : s.agent = .group n k l)
    (h : groupKey m j ≠ groupKey n k) : (s.setCur g).group m j = s.group m j := by
  unfold State.setCur
  rw [ha]
  exact s.group_setGroup_ne g h

/-- What an agent's word is issued with does not change when its group is written. -/
@[simp] theorem State.setCur_inStream (s : State) (g : Group) : (s.setCur g).inStream = s.inStream := by
  unfold State.inStream; simp
@[simp] theorem State.setCur_curCore (s : State) (g : Group) : (s.setCur g).curCore = s.curCore := by
  unfold State.curCore; simp
@[simp] theorem State.setCur_curSlot (s : State) (g : Group) : (s.setCur g).curSlot = s.curSlot := by
  unfold State.curSlot; simp
@[simp] theorem State.setCur_curLow (s : State) (g : Group) : (s.setCur g).curLow = s.curLow := by
  unfold State.curLow; simp

@[simp] theorem State.setCur_core (s : State) (g : Group) (n : Nat) : (s.setCur g).core n = s.core n := by
  unfold State.core; simp
@[simp] theorem State.setCur_team (s : State) (g : Group) (n : Nat) : (s.setCur g).team n = s.team n := by
  unfold State.team; simp
@[simp] theorem State.setCur_byteAt (s : State) (g : Group) (a : Nat) : (s.setCur g).byteAt a = s.byteAt a := by
  unfold State.byteAt; simp

@[simp] theorem State.setCur_setCur (s : State) (g h : Group) : ((s.setCur g).setCur h).cur = h := by simp

@[simp] theorem State.modArch_cur (s : State) (f : Arch → Arch) : (s.modArch f).cur = { s.cur with arch := f s.cur.arch } := by
  simp [State.modArch]

@[simp] theorem State.modArch_mem (s : State) (f : Arch → Arch) : (s.modArch f).mem = s.mem := by simp [State.modArch]
@[simp] theorem State.modArch_poison (s : State) (f : Arch → Arch) : (s.modArch f).poison = s.poison := by simp [State.modArch]
@[simp] theorem State.modArch_cores (s : State) (f : Arch → Arch) : (s.modArch f).cores = s.cores := by simp [State.modArch]
@[simp] theorem State.modArch_parts (s : State) (f : Arch → Arch) : (s.modArch f).parts = s.parts := by simp [State.modArch]
@[simp] theorem State.modArch_launches (s : State) (f : Arch → Arch) : (s.modArch f).launches = s.launches := by simp [State.modArch]
@[simp] theorem State.modArch_teams (s : State) (f : Arch → Arch) : (s.modArch f).teams = s.teams := by simp [State.modArch]
@[simp] theorem State.modArch_clusters (s : State) (f : Arch → Arch) : (s.modArch f).clusters = s.clusters := by simp [State.modArch]
@[simp] theorem State.modArch_queues (s : State) (f : Arch → Arch) : (s.modArch f).queues = s.queues := by simp [State.modArch]
@[simp] theorem State.modArch_links (s : State) (f : Arch → Arch) : (s.modArch f).links = s.links := by simp [State.modArch]
@[simp] theorem State.modArch_power (s : State) (f : Arch → Arch) : (s.modArch f).power = s.power := by simp [State.modArch]
@[simp] theorem State.modArch_time (s : State) (f : Arch → Arch) : (s.modArch f).time = s.time := by simp [State.modArch]
@[simp] theorem State.modArch_xlate (s : State) (f : Arch → Arch) : (s.modArch f).xlate = s.xlate := by simp [State.modArch]
@[simp] theorem State.modArch_rewriter (s : State) (f : Arch → Arch) : (s.modArch f).rewriter = s.rewriter := by simp [State.modArch]
@[simp] theorem State.modArch_errors (s : State) (f : Arch → Arch) : (s.modArch f).errors = s.errors := by simp [State.modArch]
@[simp] theorem State.modArch_tenants (s : State) (f : Arch → Arch) : (s.modArch f).tenants = s.tenants := by simp [State.modArch]
@[simp] theorem State.modArch_fuses (s : State) (f : Arch → Arch) : (s.modArch f).fuses = s.fuses := by simp [State.modArch]
@[simp] theorem State.modArch_measured (s : State) (f : Arch → Arch) : (s.modArch f).measured = s.measured := by simp [State.modArch]
@[simp] theorem State.modArch_quotes (s : State) (f : Arch → Arch) : (s.modArch f).quotes = s.quotes := by simp [State.modArch]
@[simp] theorem State.modArch_names (s : State) (f : Arch → Arch) : (s.modArch f).names = s.names := by simp [State.modArch]
@[simp] theorem State.modArch_agent (s : State) (f : Arch → Arch) : (s.modArch f).agent = s.agent := by simp [State.modArch]
@[simp] theorem State.modArch_agenda (s : State) (f : Arch → Arch) : (s.modArch f).agenda = s.agenda := by simp [State.modArch]
@[simp] theorem State.modArch_fresh (s : State) (f : Arch → Arch) : (s.modArch f).fresh = s.fresh := by simp [State.modArch]

@[simp] theorem State.retire_mem (s : State) : s.retire.mem = s.mem := by simp [State.retire]
@[simp] theorem State.retire_poison (s : State) : s.retire.poison = s.poison := by simp [State.retire]
@[simp] theorem State.retire_cores (s : State) : s.retire.cores = s.cores := by simp [State.retire]
@[simp] theorem State.retire_parts (s : State) : s.retire.parts = s.parts := by simp [State.retire]
@[simp] theorem State.retire_launches (s : State) : s.retire.launches = s.launches := by simp [State.retire]
@[simp] theorem State.retire_teams (s : State) : s.retire.teams = s.teams := by simp [State.retire]
@[simp] theorem State.retire_clusters (s : State) : s.retire.clusters = s.clusters := by simp [State.retire]
@[simp] theorem State.retire_queues (s : State) : s.retire.queues = s.queues := by simp [State.retire]
@[simp] theorem State.retire_links (s : State) : s.retire.links = s.links := by simp [State.retire]
@[simp] theorem State.retire_power (s : State) : s.retire.power = s.power := by simp [State.retire]
@[simp] theorem State.retire_time (s : State) : s.retire.time = s.time := by simp [State.retire]
@[simp] theorem State.retire_xlate (s : State) : s.retire.xlate = s.xlate := by simp [State.retire]
@[simp] theorem State.retire_rewriter (s : State) : s.retire.rewriter = s.rewriter := by simp [State.retire]
@[simp] theorem State.retire_errors (s : State) : s.retire.errors = s.errors := by simp [State.retire]
@[simp] theorem State.retire_tenants (s : State) : s.retire.tenants = s.tenants := by simp [State.retire]
@[simp] theorem State.retire_fuses (s : State) : s.retire.fuses = s.fuses := by simp [State.retire]
@[simp] theorem State.retire_measured (s : State) : s.retire.measured = s.measured := by simp [State.retire]
@[simp] theorem State.retire_quotes (s : State) : s.retire.quotes = s.quotes := by simp [State.retire]
@[simp] theorem State.retire_names (s : State) : s.retire.names = s.names := by simp [State.retire]
@[simp] theorem State.retire_agent (s : State) : s.retire.agent = s.agent := by simp [State.retire]
@[simp] theorem State.retire_agenda (s : State) : s.retire.agenda = s.agenda := by simp [State.retire]
@[simp] theorem State.retire_fresh (s : State) : s.retire.fresh = s.fresh := by simp [State.retire]

@[simp] theorem State.retire_byteAt (s : State) (a : Nat) : s.retire.byteAt a = s.byteAt a := by
  unfold State.byteAt; simp
@[simp] theorem State.modArch_byteAt (s : State) (f : Arch → Arch) (a : Nat) : (s.modArch f).byteAt a = s.byteAt a := by
  unfold State.byteAt; simp

end Sys2Proof.Machine
end

