-- ==== Sys2Proof/Laws/Memory.lean ====
section
/-! SUPPORT. Laws of the byte memory: what one byte reads as after each operation, and the canonical form that every operation keeps. -/

namespace Sys2Proof.Machine

open Sys2Proof

/-! One byte. -/

/-- Bytes written from a place on: those outside read as before. -/
theorem State.byteAt_setHomeBytes_off (s : State) (place : Nat) (bs : List Byte) {q : Nat} (h : q < place ∨ place + bs.length ≤ q) :
    (s.setHomeBytes place bs).byteAt q = s.byteAt q := by
  unfold State.setHomeBytes
  have key : ∀ (l : List Byte) (k : Nat) (u : State), (q < place ∨ place + k + l.length ≤ q) →
      ((l.zipIdx k).foldl (fun t p => t.setByte (place + p.2) p.1) u).byteAt q = u.byteAt q := by
    intro l
    induction l with
    | nil => intro _ _ _; rfl
    | cons b r ih =>
      intro k u hk
      simp only [List.length_cons] at hk
      rw [List.zipIdx_cons, List.foldl_cons, ih (k + 1) _ (by omega)]
      exact State.byteAt_setByte_ne _ _ (by dsimp only; omega)
  exact key bs 0 s (by simpa using h)

theorem State.memOk_setByte {s : State} (p : Nat) (b : Byte) (h : MemOk s) : MemOk (s.setByte p b) := Memory.wf_write p b h

theorem State.memOk_setPoison {s : State} (p : Nat) (b : Bool) (h : MemOk s) : MemOk (s.setPoison p b) := h

/-- An update that leaves memory alone keeps the form. -/
theorem MemOk.of_mem {s t : State} (h : MemOk s) (e : t.mem = s.mem) : MemOk t := by
  show Memory.wf t.mem = true
  rw [e]; exact h

/-- A fold of operations that each keep the form keeps it. -/
theorem memOk_foldl {α : Type} (f : State → α → State) (hf : ∀ s a, MemOk s → MemOk (f s a)) (l : List α) {s : State} (h : MemOk s) :
    MemOk (l.foldl f s) := by
  induction l generalizing s with
  | nil => exact h
  | cons a r ih => exact ih (hf s a h)

/-! Writes at home. -/

theorem State.memOk_homeWrite {s : State} (place : Nat) (bs : List Byte) (p : Bool) (h : MemOk s) : MemOk (s.homeWrite place bs p) :=
  memOk_foldl _ (fun _ _ hs => State.memOk_setPoison _ _ (State.memOk_setByte _ _ hs)) _ h

theorem State.memOk_putPlaces {s : State} (p : Nat) (ps : List (Nat × Byte × Bool)) (h : MemOk s) : MemOk (s.putPlaces p ps).1 := by
  unfold State.putPlaces
  split
  · exact h.of_mem rfl
  · exact memOk_foldl _ (fun _ _ hs => State.memOk_setPoison _ _ (State.memOk_setByte _ _ hs)) _ h

theorem State.memOk_gStore {s : State} (p va : Nat) (bs : List Byte) {r : State × Bool} (h : MemOk s) (e : s.gStore p va bs = some r) :
    MemOk r.1 := by
  unfold State.gStore at e
  split at e
  · cases e
  · cases e
    exact State.memOk_putPlaces p _ h

theorem State.memOk_targetWrite {s : State} (t : PeerTarget) (bs : List Byte) (p : Bool) (h : MemOk s) : MemOk (s.targetWrite t bs p) :=
  memOk_foldl _ (fun _ _ hs => State.memOk_setPoison _ _ (State.memOk_setByte _ _ hs)) _ h

/-! The L1. -/

theorem State.memOk_l1Flush {s : State} (n : Nat) (sel : Nat → L1Byte → Bool) (h : MemOk s) : MemOk (s.l1Flush n sel) := by
  unfold State.l1Flush
  dsimp only
  split
  · exact h
  · refine MemOk.of_mem (s := List.foldl _ _ _) ?_ (State.setCore_mem _ _ _)
    refine memOk_foldl _ (fun u e hu => ?_) _ (memOk_foldl _ (fun u _ hu => hu.of_mem (u.logError_mem _)) _ h)
    split
    · exact hu
    · exact State.memOk_setByte _ _ hu

theorem State.memOk_l1Drop {s : State} (n : Nat) (h : MemOk s) : MemOk (s.l1Drop n) := by
  unfold State.l1Drop
  dsimp only
  split
  · exact State.memOk_l1Flush n _ h
  · exact (State.memOk_l1Flush n _ h).of_mem rfl

theorem State.memOk_l1DropLine {s : State} (n line : Nat) (h : MemOk s) : MemOk (s.l1DropLine n line) :=
  (State.memOk_l1Flush n _ h).of_mem rfl

theorem State.memOk_scopeRelease {s : State} (sc : Scope) (h : MemOk s) : MemOk (s.scopeRelease sc) := by
  unfold State.scopeRelease
  split
  · exact h
  · exact State.memOk_l1Flush _ _ h

theorem State.memOk_scopeAcquire {s : State} (sc : Scope) (h : MemOk s) : MemOk (s.scopeAcquire sc) := by
  unfold State.scopeAcquire
  split
  · exact h
  · exact State.memOk_l1Drop _ h

/-! Ranges that read as zero, and starts. -/

theorem State.memOk_clearRange {s : State} (lo n : Nat) (h : MemOk s) : MemOk (s.clearRange lo n) := Memory.wf_filter _ h

theorem State.memOk_clearSlices {s : State} (l : List Nat) (h : MemOk s) : MemOk (s.clearSlices l) :=
  memOk_foldl _ (fun _ _ hs => State.memOk_clearRange _ _ hs) l h

theorem State.memOk_started {s : State} (warm : Bool) (h : MemOk s) : MemOk (s.started warm) := Memory.wf_filter _ h

theorem reset_memory_canonical : Memory.wf State.reset.mem = true := rfl

end Sys2Proof.Machine
end

