-- ==== Sys2Proof/Laws/Words.lean ====
section
/-! SUPPORT. What a word's issue comes to, said once for each shared operation: a word that is done, the frames of scalar and vector
words, the moulds of scalar and of element-wise words. -/

namespace Sys2Proof.Machine

open Sys2Proof

/-! A word that is done. -/

theorem State.wrapTrap_inside {s : State} (t : State) (h : Inside s) : s.wrapTrap t = none := by
  unfold State.wrapTrap State.fallsOut
  rw [if_neg]
  rintro ⟨-, h2⟩
  exact h (by simpa using (Bool.and_eq_true_iff.1 h2).1)

theorem settle_done {s : State} (t : State) (h : Inside s) : settleEff s (.done t) = t.retire := by
  simp [settleEff, State.wrapTrap_inside t h, State.trapOr]

theorem settle_switch {s : State} (t : State) (hd : Hold) (h : Inside s) :
    settleEff s (.switch t hd) = switchAfter s t hd := by
  simp [settleEff, State.wrapTrap_inside t h, State.trapOr]

theorem settle_trap {s : State} (t : Trap) (h : Resolved s) : settleEff s (.trap t) = takeTrap s t := by
  simp [settleEff, State.trapOr, show s.cur.unresolved = false from h]

theorem firstTrap_none {l : List (Option Trap)} (h : ∀ x ∈ l, x = none) : firstTrap l = none := by
  unfold firstTrap
  rw [List.findSome?_eq_none_iff]
  simpa using h

/-! Frames. -/

theorem othersKept_setCur (s : State) (g : Group) : OthersKept s (s.setCur g) := by
  refine ⟨?_, ?_⟩
  · unfold State.setCur
    split <;> rfl
  · cases h : s.agent with
    | group n k l =>
      simp only [State.setCur, h]
      exact ⟨rfl, fun j hj => Store.get_put_ne _ _ hj⟩
    | stream k =>
      simp only [State.setCur, h]
      refine ⟨rfl, fun j hj => Store.get_put_ne _ _ hj, ?_⟩
      simp [State.stream, State.modStream, State.setStream, State.cur, h]

theorem OthersKept.trans {s t u : State} (h1 : OthersKept s t) (h2 : OthersKept t u) : OthersKept s u := by
  have ha : t.agent = s.agent := by rw [h1.1]
  refine ⟨?_, ?_⟩
  · rw [h2.1, h1.1]
  · have h2' := h2.2
    have h1' := h1.2
    rw [ha] at h2'
    cases hs : s.agent with
    | group n k l =>
      simp only [hs] at h1' h2' ⊢
      exact ⟨h2'.1.trans h1'.1, fun j hj => (h2'.2 j hj).trans (h1'.2 j hj)⟩
    | stream k =>
      simp only [hs] at h1' h2' ⊢
      refine ⟨h2'.1.trans h1'.1, fun j hj => (h2'.2.1 j hj).trans (h1'.2.1 j hj), ?_⟩
      rw [h2'.2.2, h1'.2.2]

theorem OthersKept.bytes {s t : State} (h : OthersKept s t) : SameBytes s t := by
  intro a
  rw [State.byteAt, h.1]
  rfl

theorem cur_retire (s : State) : s.retire.cur = { s.cur with arch := s.retire.cur.arch } := by
  simp [State.retire]

theorem archOnly_setCur (s : State) (a : Arch) : ArchOnly s (s.setCur { s.cur with arch := a }) :=
  ⟨othersKept_setCur s _, by simp, (othersKept_setCur s _).bytes⟩

theorem ArchOnly.trans {s t u : State} (h1 : ArchOnly s t) (h2 : ArchOnly t u) : ArchOnly s u :=
  ⟨h1.1.trans h2.1, by rw [h2.2.1, h1.2.1], fun a => (h2.2.2 a).trans (h1.2.2 a)⟩

theorem archOnly_modArch (s : State) (f : Arch → Arch) : ArchOnly s (s.modArch f) := archOnly_setCur s _

theorem archOnly_retire (s : State) : ArchOnly s s.retire := archOnly_setCur s _

/-- A change of registers that keeps the candidates leaves open or closed whether RETIRED counts the word. -/
theorem State.uncounted_modArch (s : State) (f : Arch → Arch) (hc : (f s.cur.arch).cands = s.cur.arch.cands) :
    (s.modArch f).uncounted = s.uncounted := by
  have hl : (s.modArch f).curLow = s.curLow := by simp [State.curLow]
  simp only [State.uncounted, State.curCand, Arch.cand, State.modArch_cur, hc, hl]

/-- Everything that the registers of a word that is done come to: those of f, with RETIRED and the place in the run moved on. -/
theorem arch_retire_modArch (s : State) (f : Arch → Arch) : (s.modArch f).retire.cur.arch =
    { f s.cur.arch with
      retired := if (s.modArch f).uncounted then (f s.cur.arch).retired else (f s.cur.arch).retired + 1,
      cands := (f s.cur.arch).cands.map fun c => if c.has s.curLow then
        { c with run := c.run.map fun r => { r with pos := r.pos + 1, resume := none }, switched := false, fenced := false }
        else c } := by
  have hl : (s.modArch f).curLow = s.curLow := by simp [State.curLow]
  simp only [State.retire, State.modCur_eq, State.cur_setCur, State.modArch_cur, hl]
  split <;> rfl

/-- A word that is done by a change f of registers which keeps RETIRED and the candidates: what it leaves, and that it has issued. -/
theorem done_modArch (s : State) (f : Arch → Arch) (hr : (f s.cur.arch).retired = s.cur.arch.retired)
    (hc : (f s.cur.arch).cands = s.cur.arch.cands) :
    ArchOnly s (s.modArch f).retire ∧ Advanced s (s.modArch f).retire := by
  refine ⟨(archOnly_modArch s f).trans (archOnly_retire _), ?_⟩
  unfold Advanced
  rw [arch_retire_modArch]
  exact ⟨by simp only [hr, State.uncounted_modArch s f hc], by simp only [hc]⟩

theorem done_idle (s : State) : ArchOnly s s.retire ∧ Advanced s s.retire := by
  have hs : s.modArch id = s.setCur s.cur := rfl
  refine ⟨archOnly_retire s, ?_⟩
  unfold Advanced
  simp only [State.retire, State.modCur_eq, State.cur_setCur]
  split <;> exact ⟨rfl, rfl⟩

/-! What a word leaves to be counted or written. -/

/-- The activity that a word adds lies in its core alone. -/
theorem State.addWork_eq (s : State) (es : List Nat) : s.addWork es = { s with cores := (s.addWork es).cores } := by
  unfold State.addWork
  split <;> rfl

@[simp] theorem State.addWork_cur (s : State) (es : List Nat) : (s.addWork es).cur = s.cur := by rw [State.addWork_eq]; rfl
@[simp] theorem State.addWork_byteAt (s : State) (es : List Nat) (a : Nat) : (s.addWork es).byteAt a = s.byteAt a := by
  rw [State.addWork_eq]; rfl

/-- The note of a run that its word has registers still to write lies in its candidate alone. -/
theorem Arch.noteWrite_eq (a : Arch) (low seq : Nat) : a.noteWrite low seq = { a with cands := (a.noteWrite low seq).cands } := rfl

/-- With its run moved on, a candidate has the note at the end. -/
theorem Arch.noteWrite_setCand (a : Arch) (low seq : Nat) (f : Cand → Cand) :
    ((a.noteWrite low seq).setCand low f).cands =
      a.cands.map fun c => if c.has low then f { c with run := c.run.map fun r => { r with own := r.own ++ [seq] } } else c := by
  simp only [Arch.noteWrite, Arch.setCand, List.map_map]
  refine List.map_congr_left fun c _ => ?_
  by_cases h : c.has low = true
  · simp [h, show Cand.has { c with run := c.run.map fun r => { r with own := r.own ++ [seq] } } low = true from h]
  · simp [h]

/-- An access whose scope reaches another agent keeps its order; else it orders nothing. -/
theorem State.orderAt_reaches (s : State) (k : AccKind) (o : Order) (sc : Scope) :
    (s.reaches sc = true → s.orderAt k o sc = plainOrder k o) ∧ (s.reaches sc = false → s.orderAt k o sc = .rlx) := by
  unfold State.orderAt
  constructor <;> intro h <;> simp [h]

/-! Scalar and vector results. -/

theorem Arch.setS_eq (a : Arch) (r : BitVec 6) (v : Word) : ∃ x p, a.setS r v = { a with sregs := x, pend := p } := by
  unfold Arch.setS
  obtain ⟨p, hp⟩ := (a.putS r ⟨v, false, false⟩).overwrite_eq (scalKey r.toNat)
  rw [hp]
  unfold Arch.putS
  split
  · exact ⟨_, p, rfl⟩
  · exact ⟨_, p, rfl⟩

theorem Arch.setRef_eq (a : Arch) (r : VRef) (l : Nat) (e : Elt) :
    ∃ v t p, a.setRef r l e = { a with vregs := v, temps := t, pend := p } := by
  cases r with
  | reg n =>
    obtain ⟨p, hp⟩ := (a.putV n l e).overwrite_eq (vecKey n l)
    exact ⟨_, a.temps, p, hp⟩
  | temp t =>
    obtain ⟨p, hp⟩ := (a.putT t l e).overwrite_eq (tempKey t l)
    exact ⟨a.vregs, _, p, hp⟩

theorem Arch.setLanes_eq (a : Arch) (r : VRef) (es : List (Nat × Elt)) :
    ∃ v t p, a.setLanes r es = { a with vregs := v, temps := t, pend := p } := by
  unfold Arch.setLanes
  induction es generalizing a with
  | nil => exact ⟨_, _, _, rfl⟩
  | cons e es ih =>
    obtain ⟨v, t, p, h⟩ := a.setRef_eq r e.1 e.2
    obtain ⟨v', t', p', h'⟩ := ih (a.setRef r e.1 e.2)
    refine ⟨v', t', p', ?_⟩
    rw [List.foldl_cons, h', h]

theorem Arch.writeLanes_eq (a : Arch) (r : VRef) (es : List (Nat × Lane)) :
    ∃ v t p, a.writeLanes r es = { a with vregs := v, temps := t, pend := p } := a.setLanes_eq r _

/-- A word that is done by a write of a scalar register. -/
theorem writesS_of_done {i : Instr} {s : State} {sd : BitVec 6} {v : Word}
    (h : exec i s = .next (s.modArch fun a => a.setS sd v).retire) : WritesS i s sd v := by
  obtain ⟨x, p, he⟩ := s.cur.arch.setS_eq sd v
  have ha := arch_retire_modArch s fun a => a.setS sd v
  have hd := done_modArch s (fun a => a.setS sd v) (by rw [he]) (by rw [he])
  refine ⟨_, h, ?_, hd.1, hd.2, ?_, ?_⟩
  · rw [ha]
    change (s.cur.arch.setS sd v).getS sd = _
    rw [Arch.getS_setS]
    by_cases h0 : sd = 0
    · rw [if_pos h0, if_neg (fun h => h.2 h0), h0]
      rfl
    · rw [if_neg h0, if_pos ⟨rfl, h0⟩]
  · intro r hr
    rw [ha]
    change (s.cur.arch.setS sd v).getS r = _
    rw [Arch.getS_setS, if_neg (by simp [hr])]
  · rw [ha]
    simp only [he]

/-- A word that is done by writes of the lanes of a mask of one reference, and flags. -/
theorem writesV_of_done {i : Instr} {s : State} {d : VRef} {m : Mask} {f : Nat → Lane} {fl : Flags}
    (h : exec i s = .next (s.modArch fun a => (a.writeLanes d ((lanes m).map fun l => (l, f l))).raise fl).retire) :
    WritesV i s d m f fl := by
  obtain ⟨v, t, p, he⟩ := s.cur.arch.writeLanes_eq d ((lanes m).map fun l => (l, f l))
  have ha := arch_retire_modArch s fun a => (a.writeLanes d ((lanes m).map fun l => (l, f l))).raise fl
  have hd := done_modArch s (fun a => (a.writeLanes d ((lanes m).map fun l => (l, f l))).raise fl)
    (by rw [he]; rfl) (by rw [he]; rfl)
  have hg : ∀ r l, (s.modArch fun a => (a.writeLanes d ((lanes m).map fun l => (l, f l))).raise fl).retire.cur.arch.getRef r l
      = (s.cur.arch.writeLanes d ((lanes m).map fun l => (l, f l))).getRef r l := by
    intro r l
    rw [ha]
    cases r <;> rfl
  refine ⟨_, h, ?_, ?_, hd.1, hd.2, ?_, ?_⟩
  · intro l hl hb
    rw [hg, Arch.getRef_writeLanes _ _ _ _ _ hl, if_pos hb]
  · rw [ha, he]
    rfl
  · intro r l hl hr
    rw [hg]
    by_cases hrd : r = d
    · subst hrd
      rw [Arch.getRef_writeLanes _ _ _ _ _ hl, if_neg]
      rcases hr with hr | hr
      · exact absurd rfl hr
      · simp [hr]
    · exact Arch.getRef_writeLanes_ne _ _ _ _ hl hrd
  · rw [ha]
    simp only [he]
    rfl

/-! The moulds. -/

theorem poisonS_none {s : State} {r : BitVec 6} (h : CleanS s r) : poisonS s.cur.arch r = none := by
  simp [poisonS, h.1, h.2]

theorem poisonLo_none {s : State} {r : BitVec 6} (h : CleanLo s r) : poisonLo s.cur.arch r = none := by
  simp [poisonLo, show (s.cur.arch.getS r).lo = false from h]

theorem poisonTy_none {s : State} {t : Ty} {r : BitVec 6} (h : CleanTy s t r) : poisonTy s.cur.arch t r = none := by
  unfold poisonTy
  unfold CleanTy at h
  split
  · next ht => rw [if_pos ht] at h; exact poisonLo_none h
  · next ht => rw [if_neg ht] at h; exact poisonS_none h

theorem poisonSrc_none {s : State} {t : Ty} {b : SSrc} (h : CleanSrc s t b) : poisonSrc s.cur.arch t b = none := by
  cases b with
  | reg r => exact poisonTy_none h
  | imm v => rfl

theorem boundRef_none {s : State} {r : VRef} (n : Nat) (h : Held s r) : boundRef s.cur.allot n r = none := by
  cases r with
  | temp t => rfl
  | reg k =>
    have h : k < s.cur.allot := by simpa [Held] using h
    simp only [boundRef, boundRange]
    rw [if_pos (by omega)]

theorem boundAll_none {s : State} {rs : List VRef} (n : Nat) (h : ∀ r ∈ rs, Held s r) : boundAll s.cur.allot rs n = none := by
  apply firstTrap_none
  intro x hx
  obtain ⟨p, hp, rfl⟩ := List.mem_map.1 hx
  exact boundRef_none _ (h _ (List.fst_mem_of_mem_zipIdx hp))

theorem maskOf_nil (w : Nat) : maskOf w [] = 0 := rfl

theorem poisonRef_none {s : State} {m : Mask} {r : VRef} (h : CleanIn s m r) : poisonRef s.cur.arch r m = none := by
  have : (lanes m).filter (fun l => (s.cur.arch.getRef r l).poison) = [] := by
    rw [List.filter_eq_nil_iff]
    intro l hl
    have := mem_lanes.1 hl
    simp [h l this.1 this.2]
  unfold poisonRef poisonedLanes
  rw [this]
  rfl

/-- A scalar word whose guard is true in an executing lane. -/
theorem scalarWord_runs {s : State} {h : Hdr} (k : Eff) (hx : Executes s h) : scalarWord s h k = k := by
  unfold scalarWord anyWord whenAny
  rw [if_neg (by simp [hx.1])]
  exact if_neg hx.2.1

theorem groupWord_runs {s : State} {h : Hdr} (k : Mask → Eff) (hg : s.inStream = false) (hb : badGuard h = false) :
    groupWord s h k = k (s.execMask h) := by
  simp [groupWord, anyWord, hg, hb]

/-- A binary integer word (R394). -/
theorem intWord_done {s : State} {h : Hdr} {t : Ty} {sd sa : BitVec 6} {b : SSrc} (f : BitVec 32 → BitVec 32 → BitVec 32)
    (g : Word → Word → Word) (hx : Executes s h) (ha : CleanTy s t sa) (hb : CleanSrc s t b) :
    finish s (intWord s h t sd sa b f g) = .next (s.modArch fun c => c.setS sd
      (if scalarWidth t = 32 then extend32 t (f ((s.cur.arch.valS sa).setWidth 32) ((srcVal s.cur.arch b).setWidth 32))
       else g (s.cur.arch.valS sa) (srcVal s.cur.arch b))).retire := by
  unfold intWord
  have hf : firstTrap [poisonTy s.cur.arch t sa, poisonSrc s.cur.arch t b] = none :=
    firstTrap_none (by simp [poisonTy_none ha, poisonSrc_none hb])
  rw [scalarWord_runs _ hx]
  simp only [hf, guardTrap]
  rw [finish, settle_done _ hx.2.2]

/-- A word whose source is one scalar register read whole. -/
theorem unaryWord_done {s : State} {h : Hdr} {sd sa : BitVec 6} (f : Word → Word) (hx : Executes s h) (ha : CleanS s sa) :
    finish s (unaryWord s h sd sa f) = .next (s.modArch fun c => c.setS sd (f (c.valS sa))).retire := by
  unfold unaryWord
  rw [scalarWord_runs _ hx, poisonS_none ha]
  simp only [guardTrap]
  rw [finish, settle_done _ hx.2.2]

/-- An element-wise word (R420). -/
theorem vecWord_done {s : State} {h : Hdr} {vd : VOp} {vs : List VOp} {sr : Option (BitVec 6)}
    (f : Arch → Nat → List Lane → Lane × Flags) (hv : VecReady s h vd vs) (hs : ∀ r, sr = some r → CleanLo s r) :
    finish s (vecWord s h vd vs sr f) = .next (s.modArch fun b =>
      (b.writeLanes (refOf s vd) ((lanes (s.execMask h)).map fun l =>
        (l, (f s.cur.arch l (vs.map fun v => (s.cur.arch.getRef (refOf s v) l).bits)).1))).raise
      (orFlags ((lanes (s.execMask h)).map fun l =>
        (f s.cur.arch l (vs.map fun v => (s.cur.arch.getRef (refOf s v) l).bits)).2))).retire := by
  obtain ⟨⟨hg, hb, hi⟩, hd, hh, hc⟩ := hv
  unfold vecWord
  rw [groupWord_runs _ hg hb]
  have h1 : boundAll s.cur.allot (vref s.cur.arch vd :: vs.map (vref s.cur.arch)) 0 = none := by
    apply boundAll_none
    intro r hr
    rcases List.mem_cons.1 hr with rfl | hr
    · exact hd
    · obtain ⟨v, hv, rfl⟩ := List.mem_map.1 hr
      exact hh v hv
  have h2 : firstTrap ((vs.map (vref s.cur.arch)).map fun r => poisonRef s.cur.arch r (s.execMask h)) = none := by
    apply firstTrap_none
    intro x hx
    obtain ⟨r, hr, rfl⟩ := List.mem_map.1 hx
    obtain ⟨v, hv, rfl⟩ := List.mem_map.1 hr
    exact poisonRef_none (hc v hv)
  have h3 : (if s.execMask h = 0 then none else sr.bind (poisonLo s.cur.arch)) = none := by
    split
    · rfl
    · cases sr with
      | none => rfl
      | some r => exact poisonLo_none (hs r rfl)
  simp only [h1, h2, h3]
  rw [firstTrap_none (by simp)]
  simp only [guardTrap, List.map_map, Function.comp_def]
  rw [finish, settle_done _ hi]

/-! What the moulds say of an instruction. -/

theorem intWord_writes {i : Instr} {s : State} {h : Hdr} {t : Ty} {sd sa : BitVec 6} {b : SSrc}
    {f : BitVec 32 → BitVec 32 → BitVec 32} {g : Word → Word → Word} (hi : exec i s = finish s (intWord s h t sd sa b f g))
    (hx : Executes s h) (ha : CleanTy s t sa) (hb : CleanSrc s t b) :
    WritesS i s sd (if scalarWidth t = 32 then
        extend32 t (f ((s.cur.arch.valS sa).setWidth 32) ((srcVal s.cur.arch b).setWidth 32))
      else g (s.cur.arch.valS sa) (srcVal s.cur.arch b)) := writesS_of_done (hi.trans (intWord_done f g hx ha hb))

theorem unaryWord_writes {i : Instr} {s : State} {h : Hdr} {sd sa : BitVec 6} {f : Word → Word}
    (hi : exec i s = finish s (unaryWord s h sd sa f)) (hx : Executes s h) (ha : CleanS s sa) :
    WritesS i s sd (f (s.cur.arch.valS sa)) := writesS_of_done (hi.trans (unaryWord_done f hx ha))

theorem vec1_writes {i : Instr} {s : State} {h : Hdr} {vd va : VOp} {f : Lane → Lane × Flags}
    (hi : exec i s = finish s (vec1 s h vd va f)) (hv : VecReady s h vd [va]) :
    WritesV i s (refOf s vd) (s.execMask h) (fun l => (f (s.cur.arch.getRef (refOf s va) l).bits).1)
      (orFlags ((lanes (s.execMask h)).map fun l => (f (s.cur.arch.getRef (refOf s va) l).bits).2)) :=
  writesV_of_done (hi.trans (vecWord_done _ hv (by simp)))

theorem vec2_writes {i : Instr} {s : State} {h : Hdr} {vd va vb : VOp} {f : Lane → Lane → Lane × Flags}
    (hi : exec i s = finish s (vec2 s h vd va vb f)) (hv : VecReady s h vd [va, vb]) :
    WritesV i s (refOf s vd) (s.execMask h)
      (fun l => (f (s.cur.arch.getRef (refOf s va) l).bits (s.cur.arch.getRef (refOf s vb) l).bits).1)
      (orFlags ((lanes (s.execMask h)).map fun l =>
        (f (s.cur.arch.getRef (refOf s va) l).bits (s.cur.arch.getRef (refOf s vb) l).bits).2)) :=
  writesV_of_done (hi.trans (vecWord_done _ hv (by simp)))

theorem vec3_writes {i : Instr} {s : State} {h : Hdr} {vd va vb vc : VOp} {f : Lane → Lane → Lane → Lane × Flags}
    (hi : exec i s = finish s (vec3 s h vd va vb vc f)) (hv : VecReady s h vd [va, vb, vc]) :
    WritesV i s (refOf s vd) (s.execMask h)
      (fun l => (f (s.cur.arch.getRef (refOf s va) l).bits (s.cur.arch.getRef (refOf s vb) l).bits
        (s.cur.arch.getRef (refOf s vc) l).bits).1)
      (orFlags ((lanes (s.execMask h)).map fun l => (f (s.cur.arch.getRef (refOf s va) l).bits
        (s.cur.arch.getRef (refOf s vb) l).bits (s.cur.arch.getRef (refOf s vc) l).bits).2)) :=
  writesV_of_done (hi.trans (vecWord_done _ hv (by simp)))

theorem orFlags_none {l : List Flags} (h : ∀ x ∈ l, x = fNone) : orFlags l = 0 := by
  unfold orFlags
  induction l with
  | nil => rfl
  | cons x l ih =>
    rw [List.foldl_cons, h x (by simp)]
    exact ih fun y hy => h y (by simp [hy])

theorem scalarWord_idle {i : Instr} {s : State} {h : Hdr} {k : Eff} (hi : exec i s = finish s (scalarWord s h k))
    (hb : badGuard h = false) (hm : s.execMask h = 0) (hs : Inside s) : Idle i s := by
  have he : exec i s = .next s.retire := by
    rw [hi]
    unfold scalarWord anyWord whenAny
    rw [if_neg (by simp [hb])]
    simp only [hm, if_true]
    rw [finish, settle_done _ hs]
  have hd := done_idle s
  refine ⟨_, he, hd.1, hd.2, ?_⟩
  simp only [State.retire, State.modCur_eq, State.cur_setCur]
  split <;> rfl

theorem groupScalarWord_idle {i : Instr} {s : State} {h : Hdr} {k : Eff} (hi : exec i s = finish s (groupScalarWord s h k))
    (hg : s.inStream = false) (hb : badGuard h = false) (hm : s.execMask h = 0) (hs : Inside s) : Idle i s := by
  refine scalarWord_idle (k := k) (hi.trans ?_) hb hm hs
  unfold groupScalarWord groupWord scalarWord
  rw [if_neg (by simp [hg])]

end Sys2Proof.Machine
end

