-- ==== Sys2Proof/Tests/Slice0.lean ====
section
/-! SUPPORT. Tests: ill-formed terms are refused; words written out from the encoding tables decode to their instructions; single steps give
the values of the reference's worked examples; and the hypotheses of every obligation are met by a concrete state. -/

namespace Sys2Proof.Tests

open Sys2Proof Sys2Proof.Machine

set_option Elab.async false

/-! Shared data. -/

/-- Headers: guard p0, and guard p1, which is false in every lane here. -/
def hdr : Hdr := ⟨0, 0, 0⟩
def hdr1 : Hdr := ⟨0, 1, 0⟩
def v (n : BitVec 8) : VOp := ⟨0, n⟩
/-- The group of slot 0 of core 0 at a NOP. -/
def base : State := State.reset.withFetchWord 64 0x7800000000000000
/-- The same with s7 naming every lane, and s8 holding 128. -/
def named : State := base.modArch fun a => (a.setS 7 0xFFFFFFFF).setS 8 128
/-- The same with an exception handler at 0x1000. -/
def handled : State := base.setLaunch 0 { info := { tbase := 0x1000 } }
/-- A page of virtual addresses 0 to 0xFFF, readable and writable. -/
def page : TlbEntry := { base := 0, size := 0x1000, leaf := 0x8F }
/-- The group and the Wellhead with that page translated. -/
def mapped : State := ((named.setPart 0 { channels := [0], cores := [0] }).modCore 0 fun c => { c with tlb := [page] }).modCore 384 fun c =>
  { c with tlb := [page] }
/-- Team 0 is resident in cluster 0, which has no decision. -/
def clustered : State := (base.setCluster 0 { teams := [0] }).modTeam 0 fun t => { t with st := .resident, slots := [0] }
/-- The one candidate of the group holds slice 0 only. -/
def parted : State := base.modArch fun a => { a with cands := a.cands.map fun c => { c with slices := 1 } }
/-- The channels of the partition lie in quadrant 1, to which the path is down. -/
def away (s : State) : State := (s.modPart 0 fun p => { p with channels := [96] }).setLink 0 { up := false }
/-- Stream 3 runs. -/
def streaming : State := (base.setStream 3 { part := some 0, state := 1, grp := { st := .resident, arch := base.cur.arch } }).at_ 384 3 0
theorem isOk_some {ε α : Type} {x : Except ε α} (h : x.isOk = true) : ∃ a, x = .ok a := by
  cases x with
  | ok a => exact ⟨a, rfl⟩
  | error e => cases h
theorem isOk_none {ε α : Type} {x : Except ε α} (h : x.isOk = false) : ∃ e, x = .error e := by
  cases x with
  | ok a => cases h
  | error e => exact ⟨e, rfl⟩

/-! Decoding. The words are put together from R298 to R305, R210, R213, R229 and R275, field by field. -/

/-- Headers of each timing class. -/
def h : Hdr := ⟨0, 0, 0⟩
def hN : Hdr := ⟨1, 0, 0⟩
def hS : Hdr := ⟨2, 0, 0⟩
def hX : Hdr := ⟨3, 0, 0⟩
def decodesTo (p : Word × Instr) : Bool := (decode p.1).toOption == some p.2 && encode p.2 == some p.1
/-- No term of a list is well-formed. -/
def refused (l : List Instr) : Bool := l.all fun i => !i.wf
theorem test_decode_vector_arith : List.all [
    (0x0500080400002000, .vadd hN .f32 (v 2) (v 0) (v 1) .rne),
    (0x0400A1FE83FF2000, .vsub h .s32 (v 255) ⟨1, 7⟩ ⟨3, 0xF9⟩ .rne),
    (0x0501100401808006, .vmul hN .b16 (v 2) (v 3) (v 4) .rup),
    (0x0459A80401808000, .vmax ⟨0, 5, 1⟩ .z32 (v 2) (v 3) (v 4) .rne),
    (0x0402080401808002, .vmin h .f32 (v 2) (v 3) (v 4) .rz),
    (0x0800780200008000, .vand h (v 1) (v 0) (v 4) .rne),
    (0x0800F80201006000, .vor h (v 1) (v 2) (v 3) .rne),
    (0x0801780201006000, .vxor h (v 1) (v 2) (v 3) .rne),
    (0x0801F80201006000, .vshl h (v 1) (v 2) (v 3) .rne),
    (0x0802780201006000, .vshr h (v 1) (v 2) (v 3) .rne),
    (0x0802F80201006000, .vsra h (v 1) (v 2) (v 3) .rne),
    (0x0C00100201000000, .vabs h .b16 (v 1) (v 2) .rne),
    (0x0C00880201000000, .vneg h .f32 (v 1) (v 2) .rne),
    (0x0C01780364000000, .vmov h (v 1) ⟨2, 200⟩ .rne),
    (0x0C01F8021F800000, .vbcast h (v 1) 63 .rne),
    (0x1100080201006024, .vfma hN .f32 (v 1) (v 2) (v 3) (v 4) .rdn),
    (0x1000F80201006048, .vsel h (v 1) (v 2) (v 3) 9 .rne),
    (0x1403081E01006000, .vcmp h .un .f32 15 (v 2) (v 3) .rne),
    (0x140120020000A000, .vcmp h .lt .s32 1 (v 0) (v 5) .rne)
    ] decodesTo = true := by decide +kernel
theorem test_decode_vector_functions : List.all [
    (0x1900980201006002, .vcvt hN (v 1) (.narrow .h16 (v 2) (v 3)) .rz),
    (0x1901080201002000, .vcvt hN (v 1) (.widen .b16 (v 2) 1) .rne),
    (0x1901180201000000, .vcvt hN (v 1) (.cross .b16 .h16 (v 2)) .rne),
    (0x1900A00201000000, .vcvt hN (v 1) (.toInt .s32 (v 2)) .rne),
    (0x1902880201000000, .vcvt hN (v 1) (.fromInt .z32 (v 2)) .rne),
    (0x1D00480201006000, .vpkn hN .pi3 (v 1) (v 2) (v 3) .rne),
    (0x1D00F00201006000, .vupn hN .pi8 (v 1) (v 2) (v 3) .rne),
    (0x2200080201000000, .vexpE hS (v 1) (v 2) .rne),
    (0x2200880201000000, .vexp2 hS (v 1) (v 2) .rne),
    (0x2201080201000000, .vlog hS (v 1) (v 2) .rne),
    (0x2201880201000000, .vrcp hS (v 1) (v 2) .rne),
    (0x2202080201000000, .vrsq hS (v 1) (v 2) .rne),
    (0x2202880201000000, .vsqrt hS (v 1) (v 2) .rne),
    (0x2702080201000000, .vact hX .gelu (v 1) (v 2) .rne),
    (0x2B01880201006000, .vgate hX .silu (v 1) (v 2) (v 3) .rne),
    (0x3D02280201000000, .vlut hN .z32 (v 1) (v 2) .rne),
    (0x3E01080C05000000, .vrng hS .f32 2 (v 6) 10 .rne)
    ] decodesTo = true := by decide +kernel
theorem test_decode_cross_lane : List.all [
    (0x2D02A0120100E000, .vred hN .min .s32 9 (v 2) 7 .rne),
    (0x3101F8120100E000, .vscan hN .xor .b32 (v 9) (v 2) 7 .rne),
    (0x3400780801006038, .vshfl h (v 4) (v 2) (v 3) 7 .rne),
    (0x340080120180E000, .vvote h 9 3 7 .rne),
    (0x340100120400E000, .vrank h (v 9) 8 7 .rne),
    (0x3800081201006038, .vsmax h 9 (v 2) 3 7 .rne),
    (0x3A0088120114598A, .vsexp hS (v 9) (v 2) 10 11 12 5),
    (0x3A01081201014018, .vsdiv hS (v 9) (v 2) 10 3 .rne),
    (0x3901881201006038, .vmoms hN 9 (v 2) 3 7 .rne)
    ] decodesTo = true := by decide +kernel
theorem test_decode_memory : List.all [
    (0x4100192C4024FFFE, .vld hN .h16 ⟨.c, .acq, .dev, 4⟩ (v 9) (-2)),
    (0x4100905440260006, .vst hN .b16 ⟨.g, .rel, .sys, 4⟩ (v 9) .rdn 6),
    (0x41010A0440240780, .vgth hN .f32 ⟨.s, .rlx, .team, 4⟩ (v 9) (v 7) (-128)),
    (0x4101FB884024077F, .vsct hN .b32 ⟨.k, .sc, .clus, 4⟩ (v 9) (v 7) 127),
    (0x410208008010C000, .vldt hN .f32 (v 4) 8 12),
    (0x4102A803D010C000, .vstt hN .z32 (v 4) 61 12),
    (0x440074104024FFF8, .sld h .pi8 ⟨.w, .rlx, .part, 4⟩ 9 (-8)),
    (0x4400B88040240008, .sst h .z64 ⟨.g, .sc, .group, 4⟩ 9 8),
    (0x4501020440440000, .svst hN .s .team 4 17 0),
    (0x4501820441800008, .rsst hN .s .team 4 0x60 8),
    (0x4502010040000010, .tblld hN .c 4 16)
    ] decodesTo = true := by decide +kernel
theorem test_decode_atomics : List.all [
    (0x49000A6840240AFF, .aadd hN ⟨.f32, .s, .ar, .clus, 4, .scal 9 10, -1⟩),
    (0x4900BA6840240AFF, .aand hN ⟨.z64, .s, .ar, .clus, 4, .scal 9 10, -1⟩),
    (0x49017A6840240AFF, .aor hN ⟨.b32, .s, .ar, .clus, 4, .scal 9 10, -1⟩),
    (0x4901A26840240AFF, .axor hN ⟨.s32, .s, .ar, .clus, 4, .scal 9 10, -1⟩),
    (0x4902326840240AFF, .amax hN ⟨.s64, .s, .ar, .clus, 4, .scal 9 10, -1⟩),
    (0x4902AA6840240AFF, .amin hN ⟨.z32, .s, .ar, .clus, 4, .scal 9 10, -1⟩),
    (0x49037A6840240AFF, .axch hN ⟨.b32, .s, .ar, .clus, 4, .scal 9 10, -1⟩),
    (0x4903BA6840240AFF, .acas hN ⟨.z64, .s, .ar, .clus, 4, .scal 9 10, -1⟩),
    (0x4904080C40240A04, .aadd hN ⟨.f32, .g, .rlx, .dev, 4, .vec (v 9) (v 10), 4⟩),
    (0x4907FB2440240A04, .acas hN ⟨.b32, .k, .acq, .team, 4, .vec (v 9) (v 10), 4⟩)
    ] decodesTo = true := by decide +kernel
theorem test_decode_scalar : List.all [
    (0x600030C205000000, .sadd h .s64 6 4 (.reg 5)),
    (0x6000B8C205000000, .ssub h .z64 6 4 (.reg 5)),
    (0x600120C205000000, .sand h .s32 6 4 (.reg 5)),
    (0x6001A8C205000000, .sor h .z32 6 4 (.reg 5)),
    (0x600230C205000000, .sxor h .s64 6 4 (.reg 5)),
    (0x6002B8C205000000, .sshl h .z64 6 4 (.reg 5)),
    (0x600320C205000000, .sshr h .s32 6 4 (.reg 5)),
    (0x6003A8C205000000, .ssra h .z32 6 4 (.reg 5)),
    (0x600430C205000000, .smax h .s64 6 4 (.reg 5)),
    (0x6004B8C205000000, .smin h .z64 6 4 (.reg 5)),
    (0x600037E0C0080000, .sadd h .s64 63 1 (.imm (-524288))),
    (0x600528C240500007, .scmp h .z32 .ge 6 4 (.imm 7)),
    (0x6005B0C205084000, .ssel h .s64 6 4 5 33),
    (0x650020C205000000, .smul hN .s32 6 4 (.reg 5)),
    (0x6500B8C205000000, .smulh hN .z64 6 4 (.reg 5)),
    (0x660130C240000003, .sdiv hS .s64 6 4 (.imm 3)),
    (0x680000C200000000, .smov h (.ss 6 4)),
    (0x6800006200100000, .smov h (.sx 3 4)),
    (0x680000C100200000, .smov h (.xs 6 2)),
    (0x680080A040000003, .smovi h 5 3),
    (0x680100C24020ABCD, .shi h 6 4 0xABCD 2),
    (0x680180C205300000, .slea h 6 4 (.reg 5) 3),
    (0x680200C200000000, .sclz h 6 4),
    (0x680280C200000000, .spopc h 6 4)
    ] decodesTo = true := by decide +kernel
theorem test_decode_system : List.all [
    (0x7000001A30000000, .srd h (.scal 13) .strokes),
    (0x7000001A00000000, .srd h (.vec (v 13)) .laneid),
    (0x7000001A14000000, .srd h (.scal 13) (.teamid 2)),
    (0x7000801A58000000, .swr h 13 .trapen),
    (0x7400012000000000, .fence h .acq .team),
    (0x7400800600000000, .bar h 3),
    (0x7401007E00000000, .bara h .dev 15),
    (0x740180A200000000, .barw h .sys 1),
    (0x7402000200000000, .cbar h 1),
    (0x7402800102030405, .wait h 1 2 3 4 5),
    (0x7403042400000000, .waitp h .mx 9),
    (0x7403800000000000, .yield h),
    (0x74040000000000F0, .regang h 0xF0),
    (0x7404800000000081, .merge h 0x81),
    (0x7800000000000000, .nop h),
    (0x7800800000000000, .brk h),
    (0x7801000000080001, .trap h 0x80001),
    (0x7801800000000000, .tret h),
    (0x7802000000000000, .tfence h),
    (0x7802800000000000, .icinv h),
    (0x7803012000000000, .ovtld h 9),
    (0x7803800000000028, .lexit h 40)
    ] decodesTo = true := by decide +kernel
theorem test_decode_branches : List.all [
    (0x800003FFFFFD0007, .bra h (-3) 7),
    (0x800080900000FFF9, .brx h 9 (-7)),
    (0x8001000000050000, .call h 5),
    (0x8001809000000000, .callx h 9),
    (0x8002000000000000, .ret h),
    (0x8002800000000000, .end_ h),
    (0x80030504FFFF8014, .loopC h 40 9 0xFFFF 20),
    (0x8003850480008002, .loopW h 40 9 1 2),
    (0xBE00033213F83C00, .runend 2 [.vec 200, .scal 63, .pred 15])
    ] decodesTo = true := by decide +kernel
theorem test_decode_engines : List.all [
    (0x9000012516647400, .pcpy h 9 10 11 12 .w .k .sys),
    (0x9000812516620800, .pfill h 9 10 11 12 .s .clus),
    (0x9001012500000000, .pstat h 9 10),
    (0x9001812000000000, .pcanc h 9),
    (0x900201203945B200, .siph h 9 (v 7) 10 11 .k .c)
    ] decodesTo = true := by decide +kernel
theorem test_decode_matrix : List.all [
    (0xB10001390C000000, .mlease hN 9 200 3),
    (0xB100080000000000, .mfree hN),
    (0xB100150000000000, .mzero hN 5),
    (0xB100192000000000, .mfence hN 9),
    (0xB100212000000000, .mwait hN 9),
    (0xB100400000800002, .mma hN .b16 0 (v 0) (v 8) 0),
    (0xB3004D0040300BCA, .mmas hX .pi4 5 (v 1) (v 2) (v 3) 60),
    (0xB100500040300803, .mcomp hN .h16 (v 1) (v 2) (v 3)),
    (0xB1008524FFFFFFFC, .mlda hN 5 .c 9 (-4)),
    (0xB1008D4480000004, .msta hN 5 .s 9 4),
    (0xB100950068000000, .mmova hN 5 (v 1) 2 1),
    (0xB10105F920000000, .ftinit hN 5 31 9),
    (0xB1010A0100000000, .ftupd hN 2 (v 4)),
    (0xB101120100000000, .ftdnd hN 2 (v 4)),
    (0xB1011A0108000000, .ftsolv hN 2 (v 4) 1),
    (0xB101220100000000, .ftldet hN 2 (v 4)),
    (0xB1012A049FFFFFFC, .ftld hN 2 .g 9 7 (-4)),
    (0xB101320480000004, .ftst hN 2 .g 9 4)
    ] decodesTo = true := by decide +kernel
theorem test_decode_lanes_and_streams : List.all [
    (0xB500000601000800, .xv hN (v 3) (v 2) ⟨0, 0, 1, 0, 0⟩),
    (0xB500F80601284FC8, .xvn hN 15 (v 3) (v 2) ⟨1, 8, 9, 31, 4⟩),
    (0xB400080600000000, .xlsp h (v 3)),
    (0xB400100600000000, .xlfs h (v 3)),
    (0xB400180000000002, .xclr h 2),
    (0xB900012500000000, .launch hN 9 10),
    (0xB900092516000000, .launchat hN 9 10 11),
    (0xB9001082A0000000, .semwait hN .ge 4 5),
    (0xB9001882A0000000, .semsig hN .or 4 5)
    ] decodesTo = true := by decide +kernel

/-! Ill-formed terms: each is refused by one check. -/

theorem test_wf_refuses_types : refused [
    .aadd h ⟨.h16, .g, .rlx, .team, 4, .scal 9 10, 0⟩, .aadd h ⟨.s64, .g, .rlx, .team, 4, .vec (v 9) (v 10), 0⟩,
    .aand h ⟨.f32, .g, .rlx, .team, 4, .scal 9 10, 0⟩, .aor h ⟨.f32, .g, .rlx, .team, 4, .scal 9 10, 0⟩,
    .axor h ⟨.f32, .g, .rlx, .team, 4, .scal 9 10, 0⟩, .amax h ⟨.b32, .g, .rlx, .team, 4, .scal 9 10, 0⟩,
    .amin h ⟨.f32, .g, .rlx, .team, 4, .scal 9 10, 0⟩, .axch h ⟨.pi8, .g, .rlx, .team, 4, .scal 9 10, 0⟩,
    .acas h ⟨.z64, .g, .rlx, .team, 4, .vec (v 9) (v 10), 0⟩,
    .mma h .s32 0 (v 0) (v 8) 0, .mmas h .f32 0 (v 0) (v 1) (v 8) 0, .mcomp h .f32 (v 1) (v 2) (v 3),
    .sld h .pi7 ⟨.g, .rlx, .team, 4⟩ 9 0, .sst h .none ⟨.g, .rlx, .team, 4⟩ 9 0, .sadd h .b32 6 4 (.reg 5), .ssel h .f32 6 4 5 7,
    .smul h .b32 6 4 (.reg 5), .sdiv h .f32 6 4 (.reg 5), .scmp h .f32 .eq 6 4 (.reg 5), .scmp h .s32 .un 6 4 (.reg 5),
    .vabs h .s32 (v 1) (v 2) .rne, .vneg h .h16 (v 1) (v 2) .rne, .vadd h .h16 (v 1) (v 2) (v 3) .rne,
    .vcmp h .eq .b16 1 (v 2) (v 3) .rne, .vcmp h .un .s32 1 (v 2) (v 3) .rne, .vfma h .s32 (v 1) (v 2) (v 3) (v 4) .rne,
    .vcvt h (v 1) (.narrow .f32 (v 2) (v 3)) .rne, .vcvt h (v 1) (.widen .f32 (v 2) 0) .rne, .vcvt h (v 1) (.cross .b16 .b16 (v 2)) .rne,
    .vcvt h (v 1) (.toInt .s64 (v 2)) .rne, .vcvt h (v 1) (.fromInt .b32 (v 2)) .rne, .vlut h .s32 (v 1) (v 2) .rne,
    .vpkn h .f32 (v 1) (v 2) (v 3) .rne, .vupn h .b32 (v 1) (v 2) (v 3) .rne, .vred h .and .f32 9 (v 2) 7 .rne, .vscan h .add .b32 (v 9) (v 2) 7 .rne,
    .vrng h .z32 0 (v 6) 10 .rne, .vld h .s64 ⟨.g, .rlx, .team, 4⟩ (v 9) 0, .vst h .pi8 ⟨.g, .rlx, .team, 4⟩ (v 9) .rne 0,
    .vst h .f32 ⟨.g, .rlx, .team, 4⟩ (v 9) .rup 0, .vgth h .b16 ⟨.g, .rlx, .team, 4⟩ (v 9) (v 7) 0,
    .vsct h .h16 ⟨.g, .rlx, .team, 4⟩ (v 9) (v 7) 0, .vldt h .b16 (v 4) 8 12, .vstt h .h16 (v 4) 8 12
    ] = true := by decide +kernel
theorem test_wf_refuses_spaces_and_orders : refused [
    .aadd h ⟨.s32, .c, .rlx, .team, 4, .scal 9 10, 0⟩, .acas h ⟨.s32, .w, .rlx, .team, 4, .scal 9 10, 0⟩,
    .acas h ⟨.s32, .g, .rlx, .team, 4, .scal 63 10, 0⟩, .acas h ⟨.s32, .g, .rlx, .team, 4, .vec ⟨3, 0xF8⟩ (v 10), 0⟩,
    .fence h .rlx .team, .ftld h 0 .k 4 0 0, .ftst h 0 .w 4 0, .mlda h 0 .k 4 0, .msta h 0 .w 4 0, .pcpy h 9 10 11 12 .g .w .team,
    .rsst h .k .team 4 1 0, .svst h .w .team 4 1 0, .siph h 9 (v 7) 10 11 .g .g, .siph h 9 (v 7) 10 11 .s .s, .tblld h .k 4 0,
    .sld h .s32 ⟨.g, .rel, .team, 4⟩ 9 0, .sst h .s32 ⟨.g, .acq, .team, 4⟩ 9 0, .vld h .f32 ⟨.g, .ar, .team, 4⟩ (v 9) 0,
    .vst h .f32 ⟨.g, .ar, .team, 4⟩ (v 9) .rne 0, .vgth h .f32 ⟨.g, .rel, .team, 4⟩ (v 9) (v 7) 0, .vsct h .f32 ⟨.g, .acq, .team, 4⟩ (v 9) (v 7) 0
    ] = true := by decide +kernel
def w3 : VOp := ⟨3, 0xFF⟩
theorem test_wf_refuses_temporaries_and_zeros : refused [
    .ftupd h 0 w3, .ftdnd h 0 w3, .ftsolv h 0 w3 0, .ftldet h 0 w3, .mcomp h .b16 w3 (v 2) (v 3), .mcomp h .b16 (v 1) w3 (v 3),
    .mcomp h .b16 (v 1) (v 2) w3, .mma h .b16 0 w3 (v 8) 0, .mma h .b16 0 (v 8) w3 0, .mmas h .b16 0 (v 0) w3 (v 8) 0, .mmova h 0 w3 0 0,
    .siph h 9 w3 10 11 .s .g, .srd h (.vec w3) .laneid, .xlfs h w3, .xlsp h w3, .xv h w3 (v 2) ⟨0, 0, 0, 0, 0⟩, .xv h (v 2) w3 ⟨0, 0, 0, 0, 0⟩,
    .xvn h 1 w3 (v 2) ⟨0, 0, 0, 0, 0⟩, .xvn h 1 (v 2) w3 ⟨0, 0, 0, 0, 0⟩,
    .loopC h 1 2 0 5, .loopC h 1 2 9 1, .loopW h 1 2 0 5, .loopW h 1 2 9 (-1), .mma h .b16 0 (v 0) (v 8) 61,
    .mmas h .b16 0 (v 0) (v 1) (v 8) 61, .rsst h .s .team 4 0 0, .svst h .s .team 4 0 0, .runend 0 [.scal 1, .scal 2, .scal 3, .scal 4, .scal 5],
    .smov h (.sx 0 4), .smov h (.xs 4 0), .srd h (.scal 9) .laneid, .srd h (.vec (v 9)) .strokes, .srd h (.scal 9) (.teamid 3),
    .swr h 9 (.teamid 1), .vldt h .f32 (v 4) 0 12, .vstt h .f32 (v 4) 62 12, .xclr h 0
    ] = true := by decide +kernel
theorem test_wf_refuses_events : refused [
    .barrierComplete 0 16 false, .barrierComplete 0 4 true, .engineOpRun 384, .engineMemoryReturn 384 0, .engineMemoryReturn 0 4,
    .batchCommit 0 4, .pumpPieceDone 384 0 0 0, .pumpPieceDone 0 64 0 0, .semwaitRecheck 128, .siphonGatherDone 0 64 0, .tblldSwitch 384,
    .runFetch 385 0 0, .runFetch 0 64 0, .runFetch 384 128 0, .runFetch 0 0 8, .runStart 0 4, .runStart 384 128, .runStart 385 0,
    .spillFillReturn 0 0 8, .groupLoadDone 384 0, .groupFree 0 64, .linkageReturn 0 64, .scFenceGrant 385 0, .loadReturn 384 128 0 [],
    .storePerformed 0 64 0 0, .accessResolve 385 0 0, .scaleReadReturn 0 4 0, .teamPlace 4, .clusterPlace 4, .arbiterInterval 4 [],
    .powerWake 64, .activityEstimate 64 [], .preemptRequest 32 1, .preemptWithdraw 32, .partitionReset 32, .partitionResetDone 32,
    .streamStart 128 0, .acttime 23 0, .slotTableSwitch 23, .linkDownTimeout 23, .linkDown 23, .linkUp 23, .linkFlitResend 23, .slotBoundary 23,
    .errorLogClear 128, .registerWrite (2 ^ 40) 8 0, .registerWrite 0 3 0, .l1DirtyWriteback 384 0 true, .runBufferEviction 384 0,
    .firmwareResourceAssign 32 default, .attestationQuote []
    ] = true := by decide +kernel
/-- Words that R8 and R313 refuse: an unassigned major, an unlisted minor, a type that the map does not list, a reserved bit, a temporary
where none may stand. -/
theorem test_decode_refuses : List.all [0x0000000000000000, 0x4C00000000000000, 0xFC00000000000000, 0x0502880400002000, 0x0500180400002000,
    0x0500080400002001, 0x7800080000000000, 0xB1010AFE00000000] (fun w => (decode w).toOption == none) = true := by decide +kernel

/-! One step each; the expected values are those of the worked examples of the reference. -/

/-- The group with registers: vectors (register, lanes from 0 on) and scalars. -/
def regs (vs : List (Nat × List Lane)) (ss : List (BitVec 6 × Word)) : State := named.modArch fun a =>
  ss.foldl (fun b s => b.setS s.1 s.2) (vs.foldl (fun b r => r.2.zipIdx.foldl (fun b e => b.setV r.1 e.2 ⟨e.1, false⟩) b) a)
/-- The registers after one word: the first lanes of a vector register, a scalar register, and FLAGS. -/
def after (i : Instr) (s : State) : State := match exec i s with
  | .next t => t
  | _ => s
def lanesOf (i : Instr) (s : State) (r n : Nat) : List Lane := (List.range n).map fun l => ((after i s).cur.arch.getV r l).bits
def sregOf (i : Instr) (s : State) (r : BitVec 6) : Word := (after i s).cur.arch.valS r
def flagsOf (i : Instr) (s : State) : Flags := (after i s).cur.arch.flags

/-- R404, width, count and extension; the last row of its example is that of a shift by 4, and its rule is followed (log 79). -/
def shifts : State := regs [] [(4, 0xFFFFFFFF80000010), (5, 36), (6, 0x100000000)]
theorem test_shifts : sregOf (.sshl h .z32 8 4 (.reg 5)) shifts 8 = 0x100 ∧ sregOf (.sshr h .s32 8 4 (.reg 5)) shifts 8 = 0x8000001 ∧
    sregOf (.ssra h .s32 8 4 (.reg 5)) shifts 8 = 0xFFFFFFFFF8000001 ∧ sregOf (.ssra h .z32 8 4 (.reg 5)) shifts 8 = 0xF8000001 ∧
    sregOf (.sshl h .z64 8 4 (.imm 4)) shifts 8 = 0xFFFFFFF800000100 ∧ sregOf (.ssel h .s32 8 4 5 6) shifts 8 = 36 := by decide +kernel
/-- R116, a fixed tree; R442, a scan that rounds. -/
def tree : State := regs [(2, [0x4B800000, 0x3F800000, 0x3F800000, 0xCB800000])] [(7, 0xF)]
def four : Hdr := ⟨1, 1, 0⟩
def firstFour (s : State) : State := s.modArch fun a => a.setP 1 0xF
theorem test_fixed_tree : sregOf (.vred four .add .f32 5 (v 2) 7 .rne) (firstFour tree) 5 = 0x3F800000 ∧
    flagsOf (.vred four .add .f32 5 (v 2) 7 .rne) (firstFour tree) = fInx ∧
    lanesOf (.vscan four .add .f32 (v 3) (v 2) 7 .rne) (firstFour tree) 3 5 = [0x4B800000, 0x4B800000, 0x4B800000, 0x3F800000, 0] := by
  decide +kernel
/-- R121, EXP2(0.5). -/
theorem test_exp2 : lanesOf (.vexp2 hS (v 3) (v 2) .rne) (regs [(2, [0x3F000000])] []) 3 1 = [0x3FB504F3] ∧
    flagsOf (.vexp2 four (v 3) (v 2) .rne) (firstFour (regs [(2, List.replicate 4 0x3F000000)] [])) = fInx := by decide +kernel
/-- R425, borderline conversions. -/
def overflowing (t : BitVec 6) : State := (regs [(2, [0x4788B800, 0x477FF800, 0x33C00000, 0x322BCC77])] []).modCur fun g => { g with ovt := t }
theorem test_narrowing : lanesOf (.vcvt hN (v 3) (.narrow .h16 (v 2) (v 4)) .rne) (overflowing 5) 3 4 = [0x7C00, 0x7C00, 2, 0] ∧
    lanesOf (.vcvt hN (v 3) (.narrow .h16 (v 2) (v 4)) .rne) (overflowing 1) 3 1 = [0x7BFF] ∧
    flagsOf (.vcvt hN (v 3) (.narrow .h16 (v 2) (v 4)) .rne) (overflowing 5) = (fOvf ||| fInx ||| fNarrow ||| fUnf) := by decide +kernel
theorem test_to_integers : lanesOf (.vcvt hN (v 3) (.toInt .s32 (v 2)) .rne) (regs [(2, [0x4F32D05E, 0xC0200000])] []) 3 2 =
    [0x7FFFFFFF, 0xFFFFFFFE] ∧ flagsOf (.vcvt hN (v 3) (.toInt .s32 (v 2)) .rne) (regs [(2, [0x4F32D05E, 0xC0200000])] []) = (fInv ||| fInx) ∧
    lanesOf (.vcvt hN (v 3) (.toInt .z32 (v 2)) .rne) (regs [(2, [0xBECCCCCD])] []) 3 1 = [0] := by decide +kernel
/-- R438, four elements at PI4. -/
def scaled : State := regs [(2, [0x3E99999A, 0xBE800000, 0x3F800000, 0xBF800000]), (5, List.replicate 32 0x3F00)] []
theorem test_planes : lanesOf (.vpkn hN .pi4 (v 3) (v 2) (v 5) .rne) scaled 3 5 = [0xA, 7, 4, 5, 0] ∧
    flagsOf (.vpkn hN .pi4 (v 3) (v 2) (v 5) .rne) scaled = 0x30 ∧
    lanesOf (.vupn hN .pi4 (v 6) (v 3) (v 5) .rne) (after (.vpkn hN .pi4 (v 3) (v 2) (v 5) .rne) scaled) 6 5 =
      [0x3EA00000, 0xBE800000, 0x3EE00000, 0xBF000000, 0] := by decide +kernel
/-- R439, a shuffle with an exited source. -/
def shuffled : State := (regs [(2, [10, 11, 12]), (3, [3, 0, 9])] [(7, 0xF)]).modArch fun a =>
  (a.setSlice 0 { a.slice 0 with active := 7, exited := 8 }).setP 1 7
theorem test_shuffle : lanesOf (.vshfl ⟨0, 1, 0⟩ (v 4) (v 2) (v 3) 7 .rne) shuffled 4 3 = [0, 10, 12] ∧
    flagsOf (.vshfl ⟨0, 1, 0⟩ (v 4) (v 2) (v 3) 7 .rne) shuffled = fMemberx := by decide +kernel
/-- R230, two steps of lane code. -/
def coded : State := (regs [(0, [0x3F800000, 0x40000000, 0xC0400000, 0x3F000000]), (8, List.replicate 4 0x01100000),
  (9, [0x13000040, 0x10002040, 0x26000040, 0x11200040])] [(56, 0x3F800000)]).modArch fun a => a.setP 1 0xF
theorem test_lane_code : lanesOf (.xvn four 1 (v 2) (v 8) ⟨0, 0, 0, 0, 0⟩) coded 2 5 = [0x40000000, 0x40400000, 0, 0x3F000000, 0] ∧
    lanesOf (.xlsp h (v 3)) (after (.xvn four 1 (v 2) (v 8) ⟨0, 0, 0, 0, 0⟩) coded) 3 5 = [1, 1, 1, 1, 0] := by decide +kernel

/-! Witnesses: states and operands that meet the hypotheses of the obligations. -/

theorem witness_ScalarIntegerResults : Executes base hdr ∧ CleanTy base .s32 5 ∧ CleanSrc base .s32 (.reg 6) ∧
    CleanTy base .z64 5 ∧ CleanSrc base .z64 (.imm 0x80000) := by decide
theorem witness_ScalarMoveResults : Executes base hdr ∧ CleanTy base .s64 5 ∧ CleanS base 63 ∧ CleanLo base 5 ∧ CleanSrc base .z64 (.reg 6) ∧
    (1 : BitVec 2) ≠ 0 := by decide
theorem witness_FalseGuardDoesNothing : badGuard hdr1 = false ∧ base.execMask hdr1 = 0 ∧ Inside base ∧ base.inStream = false := by decide
theorem witness_VectorIntegerResults : VecReady base hdr (v 255) [v 2, v 3] ∧ VecReady base hdr (v 1) [v 2] ∧ VecReady base hdr (v 1) [] ∧
    CleanLo base 5 := by decide +kernel
theorem witness_VectorFloatResults : VecReady base hdr (v 1) [v 2, v 3] ∧ VecReady base hdr (v 1) [v 2, v 3, ⟨3, 248⟩] := by decide +kernel
theorem witness_VectorFloatResults_rounding : 0x3F800000 < 2 * fmtF32.sign ∧ ∃ m e, unpack fmtF32 0x3F800000 = .fin false m e :=
  ⟨by decide, 0x800000, -23, by decide⟩
theorem witness_VectorFunctionResults : VecReady base hdr (v 1) [v 2] ∧ VecReady base hdr (v 1) [v 1, v 2] := by decide +kernel
theorem witness_VectorCompare : Plain base hdr ∧ Held base (refOf base (v 0)) ∧ CleanIn base (base.execMask hdr) (refOf base (v 0)) := by
  decide +kernel
theorem witness_PlanePacking : Plain base hdr ∧ Whole base ∧ base.execMask hdr ≠ 0 ∧ Held base (refOf base (v 9)) ∧
    CleanIn base (base.execMask hdr) (refOf base (v 9)) ∧ CleanIn base (maskOf 32 (List.range 8)) (refOf base (v 9)) := by decide +kernel
theorem witness_PlanePacking_waits : Plain base hdr1 ∧ Whole base ∧ base.execMask hdr1 = 0 ∧ Held base (refOf base (v 9)) ∧ Plain parted hdr ∧
    ¬ Whole parted ∧ parted.curCand.has parted.curLow = true := by decide
theorem witness_ReductionResults : CrossReady named hdr 7 ∧ Held named (refOf named (v 2)) ∧ named.execMask hdr ≠ 0 ∧
    CleanIn named (liveBy named 7) (refOf named (v 2)) := by decide +kernel
theorem witness_ShuffleVoteRank : CrossReady named hdr 7 ∧ Held named (refOf named (v 2)) ∧ CleanLo named 5 ∧
    CleanIn named (named.execMask hdr) (refOf named (v 3)) ∧
    ∀ l, l < 32 → bit (namedBy named 7) l = true ∧ (named.cur.arch.getRef (refOf named (v 2)) l).poison = false := by decide +kernel
theorem witness_RowWords : CleanS named 5 ∧ CleanLo named 6 ∧ VecReady named hdr (v 1) [v 2] ∧ VecReady named hdr (v 1) [] :=
  by decide +kernel
/-- A table load of 256 entries whose data has been read. -/
def loaded : Access := { seq := 5, kind := .tblld, resolved := true, pieces := (List.range 256).map fun i => { addr := BitVec.ofNat 64 (4 * i), n := 4, done := true } }
def switching : State := (base.modCore 0 fun c => { c with lut := { c.lut with queue := [(0, 5, 9)] } }).modGroup 0 0 fun g => { g with aq := [loaded] }
theorem witness_TableWords : VecReady base hdr (v 1) [v 2] ∧
    (∀ i, i < 256 → (Store.get (base.core 0).lut.elts i).poison = false) ∧
    base.inStream = false ∧ Executes base hdr ∧ MemReady base 4 ∧ base.valveFits [(.g, addressOf base 4 (0 : BitVec 16))] = true ∧
    rangeChecks base .g .load (tablePieces (addressOf base 4 (0 : BitVec 16))) (alignFault .g .load 0 (addressOf base 4 (0 : BitVec 16)) 128) = none := by
  decide +kernel
theorem witness_TableWords_drops : (switching.at_ 0 0 0).dropsData = false ∧
    ((switching.modTeam 0 fun t => { t with ending := some (.killed, 0, 0, 0) }).at_ 0 0 0).dropsData = true := by decide
theorem witness_TableWords_switch : (switching.core 0).lut.queue = [(0, 5, 9)] ∧ 9 ≠ (switching.core 0).strokes ∧ (switching.group 0 0).aq = [loaded] ∧
    loaded.pieces.length = 256 ∧ loaded.read = true ∧ (∀ w ∈ (switching.core 0).windows, w.bank ≠ some (!(switching.core 0).lut.cur)) ∧
    (switching.launch (switching.team (switching.group 0 0).team).launch).info.det = false := by decide +kernel
def feeds : Feeds := ⟨0, 1, 2, 3, 4⟩
theorem witness_LaneCode : Plain base hdr ∧ effReg base.cur.arch (v 9) < base.cur.allot ∧
    effReg base.cur.arch (v 10) + 16 ≤ base.cur.allot ∧ (∀ q ∈ feedRegs base.cur.arch feeds, q < base.cur.allot) ∧
    (∀ l, l < 32 → (base.runLane feeds (effReg base.cur.arch (v 10)) 2 l).fault = none ∧
      (base.runLane feeds (effReg base.cur.arch (v 10)) 2 l).bad = none) ∧ Held base (refOf base (v 9)) := by decide +kernel

/-- A lane in the middle of its code, with three entries on its stack. -/
def inLane : LaneRun := { slots := List.replicate 8 {}, sp := 3, flags := 0, fault := none, bad := none }
theorem witness_LaneCode_step : inLane.fault = none ∧ inLane.bad = none ∧ inLane.slots.length = 8 ∧ inLane.sp ≤ 8 ∧
    (∀ k, k < 3 → (inLane.slots.getD (inLane.sp - 1 - k) {}).poison = false) ∧
    inLane.slots.getD (inLane.sp - 1 - 0) {} = ⟨0, false⟩ ∧ ((base.laneIn feeds 0).feeds.getD 0 (0, {})).2 = ⟨0, false⟩ ∧
    (∀ j, j < 8 → (base.laneIn feeds 0).consts.getD j {} = ⟨0, false⟩) ∧ (base.laneIn feeds 0).privd = false ∧
    ((base.laneIn feeds 0).core.table true (lutIndex 0)).poison = false ∧ ((base.laneIn feeds 0).core.table false 255).poison = false ∧
    inLane.sp - 2 < 8 ∧ unpack fmtF32 0x3F800000 = .fin false (2 ^ 23) (-23) := by decide +kernel

/-! Traps. -/

theorem witness_SoftwareTraps : TakesTraps handled ∧ Resolved handled ∧ badGuard hdr = false ∧ handled.execMask hdr ≠ 0 := by decide
/-- A VADD whose guard field names p0 with GNEG 1. -/
def oddGuard : Word := 0x0508080400002000
theorem witness_SoftwareTraps_guard : decode oddGuard = .ok (.vadd ⟨1, 0, 1⟩ .f32 (v 2) (v 0) (v 1) .rne) ∧
    encode (.vadd ⟨1, 0, 1⟩ .f32 (v 2) (v 0) (v 1) .rne) = some oddGuard ∧ badGuard (hdrOf oddGuard) = true ∧ Resolved base ∧
    base.inStream = false := by decide
/-- The group in a handler that it entered from a run at address 0. -/
def inHandler : State := handled.modCur fun g => { g with handler := some { slices := 0xFF, run := some base.curRun, started := true, depths := depthsOf g.arch 0xFF } }
theorem witness_TrapsWithoutAHandler : Cause.valve ≠ .fetch ∧ base.inStream = false ∧ base.curTeam.ending = none ∧ base.cur.handler = none ∧
    base.curLaunch.info.tbase = 0 ∧ inHandler.curTeam.ending = none ∧ inHandler.cur.handler ≠ none ∧
    streaming.agent = .stream 3 ∧ (streaming.stream 3).state ≠ 0 := by decide
theorem witness_TrapsWithoutAHandler_save : clustered.inStream = false ∧ clustered.curTeam.ending = none ∧ clustered.cur.handler = none ∧
    (clustered.cluster clustered.curTeam.cluster).decision ≠ some 2 ∧
    clustered.cur.team ∈ (clustered.cluster clustered.curTeam.cluster).teams ∧ clustered.curTeam.st = .resident ∧
    bit clustered.cur.trapen 16 = false := by decide
/-- The same with MEMH 1. -/
def memh : State := clustered.modCur fun g => { g with trapen := 0x10000 }
theorem witness_TrapsWithoutAHandler_memh : memh.inStream = false ∧ memh.curTeam.ending = none ∧ memh.cur.handler = none ∧
    bit memh.cur.trapen 16 = true ∧ memh.curLaunch.info.tbase = 0 ∧ (memh.cluster memh.curTeam.cluster).decision ≠ some 2 ∧
    memh.cur.team ∈ (memh.cluster memh.curTeam.cluster).teams ∧ memh.curTeam.st = .resident := by decide
/-- The group in a handler with another stack depth than at its entry. -/
def deeper : State := inHandler.modArch fun a => a.modSlice 0 fun x => { x with ret := [0] }
/-- In a PREEMPT handler, which was entered at a run start; and in one whose EPC has been changed. -/
def preempted : State := inHandler.modCur fun g => { g with handler := g.handler.map fun h => { h with cause := .preempt, started := false } }
def moved : State := inHandler.modCur fun g => { g with epc := 0x80 }
theorem witness_TretAndTfence_preempt :
    (∃ h, preempted.cur.handler = some h ∧ h.started = false ∧ h.cause = .preempt ∧ preempted.curCand.slices &&& h.slices ≠ 0 ∧
      sameDepths preempted.cur.arch h preempted.curCand.slices = true) ∧
    (∃ h, moved.cur.handler = some h ∧ h.run = some base.curRun ∧ moved.cur.epc ≠ h.epc ∧ moved.curCand.slices &&& h.slices ≠ 0 ∧
      sameDepths moved.cur.arch h moved.curCand.slices = true) := ⟨⟨_, rfl, by decide⟩, ⟨_, rfl, by decide⟩⟩
theorem witness_TretAndTfence : plainGuard hdr = true ∧ Resolved base ∧ base.cur.handler = none ∧
    (∃ h, inHandler.cur.handler = some h ∧ h.started = true ∧ inHandler.curCand.slices &&& h.slices ≠ 0 ∧
      sameDepths inHandler.cur.arch h inHandler.curCand.slices = true) ∧
    (∃ h, deeper.cur.handler = some h ∧ deeper.curCand.slices &&& h.slices ≠ 0 ∧
      sameDepths deeper.cur.arch h deeper.curCand.slices = false ∧ deeper.curTeam.ending = none) ∧
    Executes base hdr ∧ base.cur.arch.flags &&& base.cur.trapen.setWidth 10 = 0 :=
  ⟨by decide, by decide, by decide, ⟨_, rfl, by decide⟩, ⟨_, rfl, by decide⟩, by decide, by decide⟩
def flagged : State := base.modCur fun g => { g with trapen := 0x3FF, arch := { g.arch with flags := 1 } }
theorem witness_TretAndTfence_arith : Executes flagged hdr ∧ Resolved flagged ∧
    flagged.cur.arch.flags &&& flagged.cur.trapen.setWidth 10 ≠ 0 := by decide

/-! Control flow. -/

/-- p1 is true in lane 0 only. -/
def split : State := base.modArch fun a => a.setP 1 1
theorem witness_BranchesMoveSlices : badGuard hdr1 = false ∧ Inside split ∧
    InCode ((split.pc.toNat : Int) + 8 * (5 : BitVec 26).toInt) ∧ InCode ((split.pc.toNat : Int) + 8 * (2 : BitVec 16).toInt) ∧
    InCode ((split.pc.toNat : Int) + 16) ∧ CleanS split 4 ∧ (split.cur.arch.valS 4).extractLsb' 0 3 = 0 ∧
    (split.cur.arch.valS 4).extractLsb' 57 7 = 0 := by decide +kernel
theorem witness_BranchesMoveSlices_room : StackRoom split hdr1 true := by
  show ∀ sl, sl < 8 → _
  decide +kernel
theorem witness_BranchesMoveSlices_trap : Resolved split ∧ split.execMask hdr1 ≠ 0 ∧
    ¬ InCode ((split.pc.toNat : Int) + 8 * (-1 : BitVec 26).toInt) ∧ bit split.curCand.slices 0 = true ∧
    takenBy split hdr1 0 ≠ 0 ∧ takenBy split hdr1 0 ≠ (split.slice 0).active := by decide +kernel
/-- The same with s4 beyond the code space; and at the last run of the code space. -/
def farTarget : State := split.modArch fun a => a.setS 4 0x200000000000000
def atTop : State := split.modCur fun g => { g with arch := { g.arch with cands := g.arch.cands.map fun c =>
  { c with run := c.run.map fun r => { r with start := 0x1FFFFFFFFFFFFF0 } } } }
theorem witness_BranchesMoveSlices_far : InCode ((split.pc.toNat : Int) + 8 * (5 : BitVec 26).toInt) ∧
    ¬ InCode ((split.pc.toNat : Int) + 8 * (-1 : BitVec 16).toInt) ∧ CleanS farTarget 4 ∧ (farTarget.cur.arch.valS 4).extractLsb' 0 3 = 0 ∧
    (farTarget.cur.arch.valS 4).extractLsb' 57 7 ≠ 0 ∧ Resolved farTarget ∧ farTarget.execMask hdr1 ≠ 0 ∧
    Resolved atTop ∧ atTop.execMask hdr1 ≠ 0 ∧ ¬ InCode ((atTop.pc.toNat : Int) + 16) ∧
    InCode ((atTop.pc.toNat : Int) + 8 * (0 : BitVec 26).toInt) := by decide +kernel
/-- Every slice has a return address. -/
def called : State := base.modArch fun a => (List.range 8).foldl (fun b sl => b.modSlice sl fun x => { x with ret := [0x40] }) a
theorem witness_ReturnAndEnd : badGuard hdr = false ∧ Inside called ∧
    (∀ sl, sl < 8 → takenBy called hdr sl = (called.slice sl).active ∧ (called.slice sl).ret = [0x40] ∧ (called.slice sl).retSpill = 0) ∧
    base.inStream = false ∧ Resolved base := by decide +kernel
/-- The one candidate's slice 0 has one return address in its hardware stack and one spilled; the spill area is mapped, or is not. -/
def returning (m : Bool) : State := ((if m then mapped else base).modArch fun a => { a with cands := a.cands.map fun c => { c with slices := 1 } }).modArch
  fun a => a.modSlice 0 fun x => { x with ret := [0x40], retSpill := 1 }
theorem witness_ReturnAndEnd_fill : badGuard hdr = false ∧ ∀ m, Inside (returning m) ∧ Resolved (returning m) ∧
    (returning m).curCand.slices = onehot 8 0 ∧ takenBy (returning m) hdr 0 ≠ 0 ∧ takenBy (returning m) hdr 0 = ((returning m).slice 0).active ∧
    ((returning m).slice 0).ret = [0x40] ∧ ((returning m).slice 0).retSpill = 1 ∧
    (returning m).stackOpen .load ((returning m).retSpillAt 0 0) 8 = true ∧
    ((returning m).spillRead ((returning m).retSpillAt 0 0) 8).isOk = m := by decide +kernel
/-- Every slice of the group divides at a guard of p1; a stream whose one lane has no return address. -/
theorem witness_ReturnAndEnd_divides : badGuard hdr1 = false ∧ Inside split ∧ Resolved split ∧ bit split.curCand.slices 0 = true ∧
    takenBy split hdr1 0 ≠ 0 ∧ takenBy split hdr1 0 ≠ (split.slice 0).active := by decide +kernel
theorem witness_ReturnAndEnd_empty : Inside base ∧ Resolved base ∧ base.inStream = false ∧ ∀ sl, sl < 8 → bit base.curCand.slices sl = true ∧
    takenBy base hdr sl ≠ 0 ∧ takenBy base hdr sl = (base.slice sl).active ∧ (base.slice sl).ret = [] ∧ (base.slice sl).retSpill = 0 := by
  decide +kernel
/-- Every slice is in loop 3. -/
def looping : State := base.modArch fun a => (List.range 8).foldl (fun b sl => b.modSlice sl fun x =>
  { x with loops := [{ id := 3, counted := true, pk := 0, start := 0, stop := 0x40, limit := 2, trips := 0, dormant := 0, depth := 0 }] }) a
theorem witness_LoopWords : Inside base ∧ plainGuard hdr = true ∧ InCode ((base.pc.toNat : Int) + 8 * (4 : BitVec 15).toInt) ∧
    CleanS base 4 ∧ (base.cur.arch.valS 4).toNat ≤ (1 : BitVec 16).toNat ∧ (1 : BitVec 16) ≠ 0 ∧
    (∀ sl, sl < 8 → (base.slice sl).loops.length < 8) ∧
    ∀ sl, sl < 8 → (looping.slice sl).loops.head?.map (·.id) = some 3 := by decide +kernel

/-- Every slice is in eight loops, the innermost of them loop 3. -/
def crowded : State := looping.modArch fun a => (List.range 8).foldl (fun b sl => b.modSlice sl fun x =>
  { x with loops := List.replicate 8 (x.loops.headD default) }) a
theorem witness_LoopWords_max : Inside crowded ∧ Resolved crowded ∧ plainGuard hdr = true ∧ CleanS crowded 4 ∧
    (∀ sl, sl < 8 → bit crowded.curCand.slices sl = true ∧ (crowded.slice sl).active ≠ 0 ∧ (crowded.slice sl).loops.length = 8) ∧
    (1 : BitVec 16) ≠ 0 ∧ (farTarget.cur.arch.valS 4).toNat > (1 : BitVec 16).toNat ∧ CleanS farTarget 4 ∧ Resolved farTarget ∧
    ∀ sl, sl < 8 → (farTarget.slice sl).loops.length < 8 := by decide +kernel
theorem witness_LoopWords_lexit : Resolved looping ∧ badGuard hdr = false ∧ bit looping.curCand.slices 0 = true ∧ takenBy looping hdr 0 ≠ 0 ∧
    ((looping.slice 0).loops.map (·.id)).head? = some 3 ∧ (3 : BitVec 6) ≠ 4 := by decide +kernel

/-- At the last word of the code space the body would start at 2^57, or the end would lie below 0. -/
theorem witness_LoopWords_wraps : Resolved atTop ∧ (∀ sl, sl < 8 → (atTop.slice sl).loops.length < 8) ∧
    ¬ InCode ((atTop.pc.toNat : Int) + 16) ∧ CleanS atTop 4 ∧ (atTop.cur.arch.valS 4).toNat = 0 ∧ Resolved base ∧
    InCode ((base.pc.toNat : Int) + 16) ∧ ¬ InCode ((base.pc.toNat : Int) + 8 * (-1 : BitVec 15).toInt) := by decide +kernel

def linking : State := mapped.modCand fun c => { c with hold := .linkage 0xFFFFFFFF 1 0x100 }
theorem witness_LinkageCalls : Executes base hdr ∧ CleanS base 4 ∧ (base.cur.arch.valS 4).extractLsb' 57 7 = 0 ∧
    (base.cur.arch.valS 4).extractLsb' 0 3 = 0 ∧ InCode ((base.pc.toNat : Int) + 16) ∧ base.curCand.has base.curLow = true := by decide
def returned : State := (linking.modCand fun d => { d with hold := .none }).uncountWord
theorem witness_LinkageCalls_return : linking.cur.arch.cands.find? (fun d => match d.hold with | .linkage _ _ _ => true | _ => false) =
      some linking.curCand ∧ linking.curCand.hold = .linkage 0xFFFFFFFF 1 0x100 ∧ linking.cur.unresolved = false ∧
    linking.cur.aq = [] ∧ Inside returned ∧ returned.linkageOpen 0x100 = true ∧
    (translate returned 0 0 returned.privd .load 0x100).isOk = true ∧ valveFault returned .g .load 0 0x100 8 = none ∧
    ∀ sl, sl < 8 → (returned.slice sl).active = 0xF ∧ (returned.slice sl).ret.length < 8 := by decide +kernel
/-- The last run of the code space, where a handler stands. -/
def atEnd : State := atTop.setLaunch 0 { info := { tbase := 0x1000 } }
theorem witness_TrailerEndsTheRun : base.curCand.has base.curLow = true ∧ base.curRun.trailerAddr + 8 ≠ 0 ∧ TakesTraps atEnd ∧
    Resolved atEnd ∧ atEnd.curRun.trailerAddr + 8 = 0 ∧ atEnd.curRun.words ≠ [] ∧ bit atEnd.curCand.slices 0 = true ∧
    (atEnd.slice 0).active ≠ 0 ∧ (atEnd.slice 0).moved = false := by decide +kernel
theorem witness_SteeringAndWaitWords : Inside base ∧ badGuard hdr = false ∧ plainGuard hdr = true ∧ base.inStream = false ∧
    (0xFF : BitVec 8) &&& base.cur.arch.liveSlices &&& ~~~base.curCand.slices = 0 ∧
    (0xFF : BitVec 8) &&& parted.cur.arch.liveSlices &&& ~~~parted.curCand.slices ≠ 0 ∧ parted.curCand.has parted.curLow = true ∧
    base.det = false ∧ base.cur.reports = [] ∧ CleanS base 4 ∧ base.count .ld ≤ 0 := by decide
/-- The group holds context 2, in which batch 5 is still to commit. -/
def leasing : State := (base.modCtx 0 2 fun _ => { holder := some 0, count := 4, ntiles := 8, batches := [{ num := 5, close := 1 }] }).modCur
  fun g => { g with lease := some 2 }
theorem witness_SteeringAndWaitWords_mwait : Whole leasing ∧ leasing.execMask hdr ≠ 0 ∧ leasing.leased = some 2 ∧ CleanS leasing 4 ∧
    leasing.cur.reports = [] ∧ (∀ b ∈ (leasing.ctx leasing.curCore 2).batches, b.num ≠ (leasing.cur.arch.valS 4).setWidth 32) := by decide

/-! Special registers. -/

theorem witness_SpecialRegisterReads : base.inStream = false ∧ Executes base hdr ∧ VecReady base hdr (v 3) [] ∧ streaming.inStream = true ∧
    Executes streaming hdr := by decide +kernel
def handling : State := inHandler.modCur fun g => { g with handler := g.handler.map fun h => { h with privd := true } }
theorem witness_SpecialRegisterWrites : Executes handling hdr ∧ CleanS handling 4 ∧ Resolved handling ∧ handling.cur.handler ≠ none ∧
    handling.privd = true ∧ handling.cur.arch.valS 4 = 0 ∧ base.cur.handler = none ∧ base.privd = false ∧ Executes base hdr := by decide

/-! Memory words. -/

def memG : MemF := ⟨.g, .rlx, .group, 4⟩
def memS : MemF := ⟨.s, .rlx, .group, 4⟩
def lanePieces (w : Nat) : List Piece := (lanes (base.execMask hdr)).map fun l => { lane := l, addr := BitVec.ofNat 64 (w * l), n := w }
theorem witness_LoadsAndStoresQueue : memG.space ≠ .s ∧ MemReady base memG.sb ∧ Executes base hdr ∧ Plain base hdr ∧ CleanS base 63 ∧
    Held base (refOf base (v 7)) ∧ addressOf base 4 (0 : BitVec 16) = 0 ∧
    issueChecks base .g .load [{ addr := 0, n := 8 }] (alignFault .g .load 0 0 8) = none ∧
    issueChecks base .g .store [{ addr := 0, n := 8, val := 0 }] (alignFault .g .store 0 0 8) = none ∧
    rangeChecks base .g .load (lanePieces 4) (alignBase .g .load 0 (lanePieces 4)) = none ∧
    rangeChecks base .g .store (lanePieces 2) (alignBase .g .store 0 (lanePieces 2)) = none ∧
    rangeChecks base .g .load (lanePieces 4) (piecesAlign .g .load (lanePieces 4) 4) = none ∧
    CleanIn base (base.execMask hdr) (refOf base (v 7)) ∧ base.cur.arch.awaits 63 = false ∧
    (1, scalKey 5) ∈ (base.modArch fun a => { a with pend := [(1, scalKey 5)] }).cur.arch.pend := by decide +kernel
theorem witness_AtomicsQueue : MemReady base 4 ∧ base.det = false ∧ Executes base hdr ∧ CleanS base 5 ∧ CleanS base 6 ∧ Plain base hdr ∧
    issueChecks base .g .atomic [{ addr := 0, n := 8 }] (piecesAlign .g .atomic [{ addr := 0, n := 8 }] 8) = none ∧
    issueChecks base .g .atomic (lanePieces 4) (piecesAlign .g .atomic (lanePieces 4) 4) = none ∧
    Held base (nextRef (refOf base (v 7))) ∧ CleanIn base (base.execMask hdr) (nextRef (refOf base (v 7))) := by decide +kernel

/-- An unresolved load of 4 bytes into s5, at a mapped address and at one that is not. -/
def waiting (a : Word) : Access := { seq := 1, word := 1, dst := .scal 5, ty := .z32, pieces := [{ addr := a, n := 4 }] }
def fetching (a : Word) : State := (mapped.setLaunch 0 { info := { tbase := 0x1000 } }).modCur fun g => { g with aq := [waiting a], seq := 2 }
theorem witness_AccessesResolve : (fetching 0x100).cur.aq[0]? = some (waiting 0x100) ∧ (waiting 0x100).resolved = false ∧
    (fetching 0x100).piecesWalk (waiting 0x100).pieces = true ∧ (fetching 0x5000).piecesWalk (waiting 0x5000).pieces = true ∧
    (∀ ps, readyFence (modNth (fetching 0x100).cur.aq 0 fun y => { y with pieces := ps, resolved := true, ckpt := {} })
      (fun y => (fetching 0x100).scopeOpen y.scope) = none) ∧
    (∃ s2 ps, resolvePieces (fetching 0x100) (waiting 0x100) .load (waiting 0x100).pieces = .ok (s2, ps)) ∧
    (∃ e, resolvePieces (fetching 0x5000) (waiting 0x5000) .load (waiting 0x5000).pieces = .error e) ∧
    (fetching 0x5000).cur.handler = none ∧ ((fetching 0x5000).team 0).ending = none ∧
    (fetching 0x5000).curLaunch.info.tbase ≠ 0 :=
  ⟨by decide, by decide, by decide +kernel, by decide +kernel, fun _ => rfl,
   (isOk_some (x := resolvePieces (fetching 0x100) (waiting 0x100) .load (waiting 0x100).pieces) (by decide +kernel)).elim fun p h => ⟨p.1, p.2, h⟩,
   isOk_none (by decide +kernel), by decide, by decide, by decide⟩
/-- The same with the range entered in the Valve table by an older command. -/
def valved : State := (fetching 0x100).modCore 0 fun c => { c with valve := [{ lo := 0, hi := 0x1000, write := true, owner := groupKey 0 0, seq := 0 }] }
theorem witness_AccessesResolve_valve : valved.cur.aq[0]? = some (waiting 0x100) ∧
    valved.piecesWalk (waiting 0x100).pieces = true ∧ valved.cur.handler = none ∧ (valved.team 0).ending = none ∧
    valved.curLaunch.info.tbase ≠ 0 ∧ (match resolvePieces valved (waiting 0x100) .load (waiting 0x100).pieces with
      | .ok r => (piecesValveAt r.1 (waiting 0x100).word .g .load r.2).isSome
      | .error _ => false) = true := by decide +kernel
/-- A resolved access at the head of the queue. -/
def pending (x : Access) : State := mapped.modCur fun g =>
  { g with aq := [x], seq := 2, arch := { g.arch with pend := [(1, scalKey 5), (1, vecKey 9 31)] } }
def scalLoad : Access := { waiting 0x100 with resolved := true, pieces := [{ addr := 0x100, n := 4, place := 0x100 }] }
def vecLoad : Access := { scalLoad with dst := .vec 9, space := .c, pieces := [{ lane := 31, addr := 0x100, n := 4, place := 0x100 }] }
theorem witness_LoadsReturn_drops : ((pending scalLoad).at_ 0 0 0).dropsData = false ∧ ((pending vecLoad).at_ 0 0 0).dropsData = false ∧
    (((pending scalLoad).modTeam 0 fun t => { t with ending := some (.killed, 0, 0, 0) }).at_ 0 0 0).dropsData = true := by decide
theorem witness_LoadsReturn : (pending scalLoad).cur.aq[0]? = some scalLoad ∧ mayLoad [scalLoad] 0 scalLoad scalLoad.pieces = true ∧
    (∀ p ∈ scalLoad.pieces, p.done = false ∧ (pending scalLoad).deadLink (pending scalLoad).curPart p.place = none) ∧
    (pending scalLoad).entryTravels scalLoad scalLoad.pieces = true ∧ (pending vecLoad).entryTravels vecLoad vecLoad.pieces = true ∧
    (1, scalKey 5) ∈ (pending scalLoad).cur.arch.pend ∧ (pending vecLoad).cur.aq[0]? = some vecLoad ∧
    mayLoad [vecLoad] 0 vecLoad vecLoad.pieces = true ∧ (vecLoad.pieces.map (·.lane)).Nodup ∧
    ∀ p ∈ vecLoad.pieces, p.lane < 32 ∧ (1, vecKey 9 p.lane) ∈ (pending vecLoad).cur.arch.pend := by decide
def scalStore : Access := { scalLoad with kind := .store, scope := .dev, dst := .none }
def narrowStore : Access := { scalStore with scope := .team }
def scalAtomic : Access := { scalLoad with kind := .atomic .add, scope := .dev }
def scFence : Access := { seq := 1, kind := .fence, order := .sc, scope := .dev, resolved := true }
theorem witness_StoresArePerformed :
    (∀ x, x = scalStore ∨ x = narrowStore ∨ x = scalAtomic → (pending x).cur.aq[0]? = some x ∧
      mayStore [x] 0 x x.pieces = true ∧ x.kind ≠ .fence ∧ (pending x).entryTravels x x.pieces = true) ∧
    ((pending scalStore).core 0).l1 = [] ∧ isWide scalStore.scope = true ∧ isWide narrowStore.scope = false ∧
    (pending narrowStore).usesL1 .g false = true ∧ (1, scalKey 5) ∈ (pending scalAtomic).cur.arch.pend ∧
    (∀ y ∈ (pending scalStore).cur.aq, y.kind ≠ .fence) ∧ ((pending narrowStore).core 0).l1Lines.length < 1024 := by
  refine ⟨?_, by decide, by decide, by decide, by decide, by decide, by decide, by decide⟩
  rintro x (rfl | rfl | rfl) <;> decide
/-- A FENCE.sc alone in its queue, behind a store, and behind a load. -/
def fencing (l : List Access) : State := mapped.modCur fun g => { g with aq := l ++ [{ scFence with seq := 9 }], seq := 10 }
theorem witness_StoresArePerformed_fence : scFence.granted = false ∧ fenceRel (fencing []).cur.aq 0 .dev = true ∧
    fenceAcq (fencing []).cur.aq 0 = true ∧ ((fencing []).at_ 0 0 0).scopeOpen .dev = true ∧ ((fencing []).cur.aq.map (·.seq)).Nodup ∧
    (∀ y ∈ (fencing []).cur.aq.drop 1, y.seq ≠ 9) ∧ fenceRel (fencing [scalStore]).cur.aq 1 .dev = false ∧
    fenceAcq (fencing [scalLoad]).cur.aq 1 = false := by decide +kernel
/-- A wider store that has left its bytes in the L1, behind which a narrow release may be performed. -/
def restingStore : Access := { scalStore with pieces := [{ addr := 0x100, n := 4, place := 0x100, inL1 := true }] }
def resting : State := (pending restingStore).modCore 0 fun c => { c with l1 := [(0x100, { val := 7, dirty := 1 })] }
theorem witness_StoresArePerformed_resting : resting.cur.aq[0]? = some restingStore ∧ mayStore [restingStore] 0 restingStore restingStore.pieces = true ∧
    restingStore.releases = false ∧ ((resting.core 0).l1.map (·.1)).Nodup ∧ resting.entryTravels restingStore restingStore.pieces = true ∧
    (∀ e ∈ (resting.core 0).l1, resting.deadFrom 0 (resting.partOfCore 0) e.1 = none) := by decide
/-- A team with 4 KB of scratchpad. -/
def scratchy : State := base.setLaunch 0 { info := { spGranules := 1 } }
theorem witness_ScratchpadWords : Executes scratchy hdr ∧ scratchy.inStream = false ∧ scratchy.cur.aq = [] ∧ CleanS scratchy 4 ∧
    CleanS scratchy 5 ∧ scratchy.cur.arch.awaits 5 = false ∧ scratchy.scopeOpen .sys = true ∧ (scratchy.core scratchy.curCore).l1 = [] ∧ scratchy.det = false ∧ scratchy.curCand.fenced = false ∧
    (scratchy.modCand fun c => { c with fenced := true }).curCand.fenced = true ∧
    issueChecks scratchy .s .atomic [{ addr := 0, n := 8 }] (piecesAlign .s .atomic [{ addr := 0, n := 8 }] 8) = none ∧
    scratchy.deadLink scratchy.curPart (scratchy.placeOf .s 0) = none ∧
    issueChecks scratchy .s .load [{ addr := 0, n := 8 }] (alignFault .s .load 0 0 8) = none ∧
    issueChecks scratchy .s .store [{ addr := 0, n := 8, val := 0 }] (alignFault .s .store 0 0 8) = none := by decide +kernel

/-- Where the checks of R127 and ALIGN both fail, R430 puts every byte, and R402 the address, before ALIGN. -/
theorem test_checkOrder : rangeChecks scratchy .s .load [{ addr := 0xFFE, n := 4 }] (alignFault .s .load 0 0xFFE 4) = some (memTrap .spbound .load 0 .s 0x1000) ∧
    issueChecks scratchy .s .load [{ addr := 0xFFE, n := 4 }] (alignFault .s .load 0 0xFFE 4) = some (memTrap .align .load 0 .s 0xFFE) := by decide +kernel

/-- v7 holds a byte offset for each lane. -/
def spread : State := scratchy.modArch fun a => (List.range 32).foldl (fun b l => b.setV 7 l ⟨BitVec.ofNat 32 (32 * l), false⟩) a
def spreadPieces : List Piece := (lanes (spread.execMask hdr)).map fun l => { lane := l, addr := BitVec.ofNat 64 (32 * l), n := 4 }
theorem witness_ScratchpadWords_lanes : Plain spread hdr ∧ Held spread (refOf spread (v 9)) ∧ Held spread (refOf spread (v 7)) ∧
    CleanIn spread (spread.execMask hdr) (refOf spread (v 7)) ∧ CleanIn spread (spread.execMask hdr) (refOf spread (v 9)) ∧
    Held spread (nextRef (refOf spread (v 9))) ∧ CleanIn spread (spread.execMask hdr) (nextRef (refOf spread (v 9))) ∧
    rangeChecks spread .s .load (lanePieces 4) (alignBase .s .load 0 (lanePieces 4)) = none ∧
    rangeChecks spread .s .store (lanePieces 2) (alignBase .s .store 0 (lanePieces 2)) = none ∧ disjoint (lanePieces 2) = true ∧
    rangeChecks spread .s .load spreadPieces (piecesAlign .s .load spreadPieces 4) = none ∧
    rangeChecks spread .s .store spreadPieces (piecesAlign .s .store spreadPieces 4) = none ∧
    issueChecks spread .s .atomic spreadPieces (piecesAlign .s .atomic spreadPieces 4) = none ∧ disjoint spreadPieces = true ∧
    (spreadPieces.map fun p => poisonUnit (spread.placeOf .s p.addr)).Nodup ∧
    ∀ p ∈ spreadPieces, spread.deadLink spread.curPart (spread.placeOf .s p.addr) = none := by decide +kernel

/-- A tile layout in s9 to s11 with 4 bytes between neighbours. -/
def tiled : State := scratchy.modArch fun a => a.setS 10 0x400000
def tilePieces : List Piece := (lanes (tiled.execMask hdr)).map fun l => { lane := l, addr := BitVec.ofNat 64 (4 * l), n := 4 }
theorem witness_ScratchpadWords_tiles : Plain tiled hdr ∧ Held tiled (refOf tiled (v 7)) ∧ tiled.cur.aq = [] ∧
    (∀ l, l < 32 → (tileOffsets (layoutOf tiled.cur.arch 9) (tiled.cur.arch.valS 12) l).2 = 4 * l ∧
      tiled.deadLink tiled.curPart (tiled.placeOf .s (BitVec.ofNat 64 (4 * l))) = none) ∧
    CleanIn tiled (tiled.execMask hdr) (refOf tiled (v 7)) ∧ disjoint tilePieces = true ∧
    tileChecks tiled .load 9 12 (tiled.execMask hdr) none none tilePieces = none ∧
    tileChecks tiled .store 9 12 (tiled.execMask hdr) none none tilePieces = none := by decide +kernel
/-- A load behind a FENCE.sc. -/
def guarded : State := mapped.modCur fun g => { g with aq := [scFence, scalLoad], seq := 2 }
theorem witness_FenceWords : Executes base hdr ∧ QueueSettled base ∧ base.det = false ∧ base.cur.aq = [] ∧ base.inStream = false ∧
    base.scopeOpen .sys = true ∧ QueueSettled (pending scalStore) ∧ guarded.inStream = false ∧ guarded.curCore < 384 ∧
    guarded.cur.aq[0]? = some scFence ∧ scFence.kind = .fence ∧ scFence.done = false ∧ guarded.cur.aq[1]? = some scalLoad ∧ scalLoad.kind ≠ .fence ∧
    ∃ x ∈ (pending scalStore).cur.aq, x.done = false ∧ x.kind = .store ∧ isWide .dev = true := by decide +kernel
/-- The L1 of core 0 holds a byte that slot 0 has left dirty. -/
def dirty : State := base.modCore 0 fun c => { c with l1 := [(0x100, { val := 7, dirty := 1 })] }
theorem witness_CoherentReads : dirty.deadLink dirty.curPart 0x100 = none ∧
    ((dirty.core dirty.curCore).l1.map (·.1)).Pairwise (· < ·) ∧
    (dirty.core 0).l1.find? (fun e => e.1 == 0x100) = some (0x100, ⟨7, 1⟩) ∧ ((dirty.core 0).l1.map (·.1)).Nodup ∧
    lineOf 0x100 = 2 ∧ dirty.deadFrom 0 (dirty.partOfCore 0) 0x100 = none ∧ dirty.flushOpen 0 (fun c _ => lineOf c == 2) = true ∧
    ∀ k, k < 64 → (dirty.group 0 k).aq = [] := by decide +kernel

/-! Barriers. -/

/-- The group has arrived at barrier 15 of its team, and at cluster barrier 3. -/
def arrived : State := (base.modTeam 0 fun t => { t with barriers := Store.put [] 15 { arrived := 1 } }).modCur fun g => { g with cbars := 8 }
theorem witness_BarrierWords : base.inStream = false ∧ badGuard hdr = false ∧ Inside base ∧ base.det = false ∧
    base.curCand.has base.curLow = true ∧ base.execMask hdr ≠ 0 ∧ Whole base ∧ Resolved base ∧
    bit (Store.get (base.team base.cur.team).barriers 15).arrived base.cur.index = false ∧ QueueSettled base ∧
    bit (Store.get (arrived.team arrived.cur.team).barriers 15).arrived arrived.cur.index = true ∧ bit arrived.cur.cbars 3 = true ∧
    base.cur.aq = [] ∧ base.scopeOpen .sys = true ∧ badGuard hdr1 = false ∧ base.execMask hdr1 = 0 ∧ ¬ Whole parted := by decide +kernel
/-- Team 0, alone in its cluster, with its one group at barrier 15 and at cluster barrier 3. -/
def complete : State := (clustered.modTeam 0 fun t => { t with barriers := Store.put [] 15 { arrived := 1 } }).modCur fun g => { g with cbars := 8 }
theorem witness_BarriersComplete : (Store.get (complete.team 0).barriers 15).arrived ≠ 0 ∧
    (∀ j, j < (complete.groupsOf 0).length → bit (Store.get (complete.team 0).barriers 15).arrived j = true) ∧
    (Store.get (complete.team 0).barriers 15).pending = [] ∧ (complete.team 0).core < 384 ∧
    (∀ g ∈ complete.heldGroups 0, ∀ c ∈ (complete.group g.1 g.2.1).arch.cands, c.slices ≠ 0) ∧
    (complete.cluster (complete.team 0).cluster).teams = [0] ∧ (complete.team 0).inCluster = true ∧ (complete.team 0).slots ≠ [] ∧
    (∀ g ∈ complete.groupsOf 0, g.2.2.counts = true ∧ bit g.2.2.cbars 3 = true) ∧
    (Store.get (complete.cluster (complete.team 0).cluster).barriers 3).pending = [] := by decide +kernel

/-! State images. -/

theorem witness_StateImages : scratchy.inStream = false ∧ Executes scratchy hdr ∧ Whole scratchy ∧ MemReady scratchy 4 ∧
    scratchy.cur.aq = [] ∧
    rangeChecks scratchy .g .store (imagePieces 0 (sectionsOf 1) scratchy.imageWord) (alignFault .g .store 0 0 128) = none ∧
    rangeChecks scratchy .s .store (imagePieces 0 (sectionsOf 1) scratchy.imageWord) (alignFault .s .store 0 0 128) = none ∧
    rangeChecks scratchy .s .load (imagePieces 0 (sectionsOf 1) fun _ _ => (0, false)) (alignFault .s .load 0 0 128) = none ∧
    (∀ k ∈ (sectionsOf 0x7F).filter (· ≠ 6), sectionOk (fun _ _ => (0, false)) k = true ∧ sectionLost (fun _ _ => (0, false)) k = false) ∧
    sectionOk (fun _ _ => (0xFFFFFFFFFFFFFFFF, false)) 2 = false ∧
    mapped.piecesWalk (imagePieces 0 (sectionsOf 1) fun _ _ => (0, false)) = true ∧
    (resolvePieces mapped { mapped.newAccess with kind := .load, space := .g, scope := .team, pieces := imagePieces 0 (sectionsOf 1) fun _ _ => (0, false) }
      .load (imagePieces 0 (sectionsOf 1) fun _ _ => (0, false))).toOption.map
        (fun r => mapped.entryTravels { mapped.newAccess with kind := .load, space := .g, scope := .team } r.2) = some true ∧
    piecesValve mapped .g .load (imagePieces 0 (sectionsOf 1) fun _ _ => (0, false)) = none ∧
    ∀ sl, sl < 8 → (scratchy.slice sl).ret.length ≤ 8 ∧ (scratchy.slice sl).retSpill < 512 := by decide +kernel


/-! The matrix engine. -/

/-- The group holds context 2 with eight tiles, and what the context holds. -/
def leased (c : Ctx) : State := ((mapped.modCtx 0 2 fun _ => { c with holder := some 0, count := 4, ntiles := 8 }).modCur fun g =>
  { g with lease := some 2, seq := 5, arch := { g.arch with pend := [(1, vecKey 9 31)] } }).modArch fun a => a.setS 20 0x3F800000
theorem witness_LeaseWords : base.inStream = false ∧ Inside base ∧ Resolved base ∧ plainGuard hdr = true ∧ base.cur.lease = none ∧
    base.det = false ∧ base.leaseChoice = some 0 ∧ (leased {}).cur.lease.isSome = true ∧ badGuard hdr = false ∧
    base.execMask hdr ≠ 0 ∧ Whole base ∧ base.leased = none ∧ (leased {}).leased = some 2 ∧ Inside (leased {}) ∧
    ((leased {}).ctx 0 2).holder = some (leased {}).curSlot ∧ ((leased {}).ctx 0 2).ops = [] ∧ ((leased {}).ctx 0 2).part.count = 0 := by
  decide
/-- The context of a restored group whose partial batch is still open; and one with a closed batch. -/
theorem witness_LeaseWords_free : (leased { part := { count := 3 } }).leased = some 2 ∧ ((leased { part := { count := 3 } }).ctx 0 2).batches = [] ∧
    ((leased { part := { count := 3 } }).ctx 0 2).part.count ≠ 0 ∧ ((leased { batches := [{ num := 1, close := 4 }] }).ctx 0 2).batches ≠ [] ∧
    (∀ o ∈ ((leased { batches := [{ num := 1, close := 4 }] }).ctx 0 2).ops, o.batch ≠ none) ∧
    (∃ o ∈ ((leased { ops := [{}] }).ctx 0 2).ops, o.batch = none) := by
  refine ⟨by decide, by decide, by decide, by decide, by decide, {}, by decide, rfl⟩
/-- All four contexts are taken by another slot. -/
def taken : State := (List.range 4).foldl (fun (u : State) x => u.modCtx 0 x fun _ => { holder := some 1 }) base
/-- Under DETMODE 1 at its switch point, with no context that waits for its release. -/
def switched : State := (base.setLaunch 0 { info := { det := true } }).modCand fun c => { c with switched := true }
theorem witness_LeaseWords_det : switched.det = true ∧ switched.curCand.switched = true ∧ (switched.core switched.curCore).ctxPending = false ∧
    switched.leaseChoice = some 0 ∧ switched.cur.lease = none ∧ Inside switched ∧ Resolved switched := by decide
theorem witness_LeaseWords_none : taken.leaseChoice = none ∧ taken.cur.lease = none ∧ taken.det = false := by decide
theorem witness_MatrixWordsQueue : (leased {}).inStream = false ∧ Executes (leased {}) hdr ∧ Whole (leased {}) ∧ (leased {}).leased = some 2 ∧
    ((leased {}).ctx 0 2).full = false ∧ (7 : BitVec 3).toNat < ((leased {}).ctx 0 2).ntiles ∧ CleanLo (leased {}) 20 ∧
    posNormal (((leased {}).cur.arch.valS 20).toNat % 2 ^ 32) = true ∧
    effReg (leased {}).cur.arch (v 9) + 8 ≤ (leased {}).cur.allot ∧
    (∀ j, j < 8 → CleanIn (leased {}) 0xFFFFFFFF (.reg (9 + j))) ∧ CleanS (leased {}) 4 := by decide +kernel
theorem witness_MatrixWordsQueue_waits : base.inStream = false ∧ badGuard hdr = false ∧ badGuard hdr1 = false ∧ Inside parted ∧ ¬ Whole parted ∧
    parted.curCand.has parted.curLow = true ∧ Whole base ∧ base.execMask hdr1 = 0 := by decide
theorem witness_MatrixWordsQueue_memory : (leased {}).rangeWalk .g 0 0 4096 = true ∧ (leased {}).valveFits [(.g, 0)] = true ∧ engineValve (leased {}) .g .load 0 4096 = none ∧ engineValve (leased {}) .g .store 0 4096 = none ∧
    tileSpace (leased {}) .g .store 0 = none ∧ (tilePlaces (leased {}) .g .store 0).1 = none ∧ tileSpace (leased {}) .g .load 0 = none ∧
    (tilePlaces (leased {}) .g .load 0).1 = none := by decide +kernel
/-- A READ range over bytes 128 to 1,151, and a TBLLD of the group as the command that may own it (R155, R232, R371). -/
def ranged (table : Bool) : State := (leased {}).modCore 0 fun c =>
  { c with valve := [{ lo := 128, hi := 1152, owner := groupKey 0 0, seq := 3 }],
           lut := { c.lut with queue := if table then [(0, 3, 0)] else [] } }
theorem test_engineValve : (engineValve (ranged true) .g .store 0 4096).isSome = true ∧ engineValve (ranged true) .g .load 0 4096 = none ∧
    engineValve (ranged false) .g .store 0 4096 = none ∧ engineValve (ranged true) .g .store 0x480 128 = none := by decide +kernel
def scaleless : List Frag := [denseFrag (leased {}).cur.arch (tyFmt .b16) 8 none, denseFrag (leased {}).cur.arch (tyFmt .b16) 16 none]
theorem witness_MatrixWordsQueue_mma : formatBlock (leased {}).cur.arch (tyFmt .b16) 0 = some ((tyFmt .b16, none), (tyFmt .b16, none)) ∧
    poisonBlock (leased {}).cur.arch 0 = none ∧
    scaleAligned scaleless = none ∧
    firstTrap (scaleSpace (leased {}) scaleless ((leased {}).scaleAccess scaleless) ++
      scaleChecks (leased {}) ((leased {}).scaleAccess scaleless)) = none ∧ (leased {}).scalesOpen scaleless = true := by decide +kernel
theorem witness_CompressAndEngine_mcomp : base.inStream = false ∧ Executes base hdr ∧ Whole base ∧ effReg base.cur.arch (v 0) + 4 ≤ 16 ∧
    effReg base.cur.arch (v 8) + metaRegs .b16 ≤ 16 ∧ effReg base.cur.arch (v 16) = 16 ∧ 16 + denseRegs .b16 ≤ base.cur.allot ∧
    ∀ j, j < denseRegs .b16 → CleanIn base 0xFFFFFFFF (.reg (16 + j)) := by decide +kernel
/-- A closed batch of one operation that has not run. -/
def oneOp (o : MOp) : State := leased { ops := [{ o with batch := some 4, seq := 3 }], batches := [{ num := 1, close := 4 }] }
theorem witness_CompressAndEngine_run : ((oneOp {}).core 0).engBusy = 0 ∧ (∀ y, y < 4 → ((oneOp {}).ctx 0 y).checkFail = false) ∧
    (oneOp {}).engineChoice 0 = some 2 := by decide +kernel
theorem witness_CompressAndEngine_next : (oneOp {}).nextOp 0 2 = .op { batch := some 4, seq := 3 } := by rfl
def failed : State := (oneOp {}).modCtx 0 2 fun c => { c with checkFail := true }
theorem witness_CompressAndEngine_fail : (failed.core 0).engBusy = 0 ∧ (failed.ctx 0 2).checkFail = true ∧
    ∀ y, y < 2 → (failed.ctx 0 y).checkFail = false := by decide
def loadOp : MOp := { kind := .mlda .g 0, batch := some 4, seq := 3, places := (List.range 1024).map (4 * ·) }
theorem witness_CompressAndEngine_load : ((oneOp loadOp).ctx 0 2).doomed = false ∧
    ((oneOp loadOp).ctx 0 2).headOps.find? (fun o => !o.ran) = some loadOp ∧ loadOp.loads = true ∧ loadOp.loaded = none ∧
    (oneOp loadOp).olderOpen 0 2 loadOp = false ∧ ((oneOp loadOp).ctx 0 2).work.mem = [] ∧ ((oneOp loadOp).core 0).l1 = [] ∧
    loadOp.places.length = 1024 ∧
    ((oneOp loadOp).at_ 0 0 0).travels .g (loadOp.places.flatMap fun p => [p, p + 1, p + 2, p + 3]) = true ∧
    ∀ p ∈ loadOp.places, ∀ i, i < 4 → ((oneOp loadOp).at_ 0 0 0).deadLink ((oneOp loadOp).at_ 0 0 0).curPart (p + i) = none := by
  decide +kernel
def scaleRead : Access := { seq := 2, dst := .scale, resolved := true, pieces := [{ addr := 0x100, n := 2, place := 0x100, nc := true }] }
def scaling : State := (oneOp { scaleSeq := 2, scaleWait := true }).modCur fun g => { g with aq := [scaleRead] }
theorem witness_CompressAndEngine_scale : (scaling.ctx 0 2).ops[0]? = some { batch := some 4, seq := 3, scaleSeq := 2, scaleWait := true } ∧
    (scaling.group 0 (scaling.holderOf 0 2)).aq = [scaleRead] ∧ scaleRead.pieces[0]?.map (·.done) = some false ∧
    (scaling.at_ 0 (scaling.holderOf 0 2) 0).entryTravels scaleRead scaleRead.pieces = true := by decide
/-- Operands of a multiply on BF16 and on PI4, whose chunk is one block of one scale; a factor tile of dimension 3, the unit matrix; and
one that is lost. -/
def bfloat : Frag := { fmt := .b16, elts := List.replicate 64 0x3F80 }
def planed : Frag := { fmt := .pi 4, elts := List.replicate 4096 1, scale := some { base := 0x100, org := 0, pitch := 0, shift := 12 } }
def multiply (f : Frag) : MOp := { kind := .mma 16 f f .b16 false, scales := [(0x100, 0x3F80, false)] }
def unit3 : Tile := { mode := .factor 3, elts := [(0, ⟨0x3F800000, false⟩), (33, ⟨0x3F800000, false⟩), (66, ⟨0x3F800000, false⟩)] }
theorem witness_CompressAndEngine_values : bfloat.fmt.isPi = false ∧ planed.fmt.isPi = true ∧ ((default : Tile).elt 31 31).poison = false ∧
    unit3.mode = .factor 3 ∧ (∀ i, i < 3 → ∀ j, j ≤ i → (unit3.elt i j).poison = false) ∧
    (∀ i, i < planed.fmt.extent → (planed.scaleOf 0 i) = some 0x100) ∧
    (multiply planed).scales.find? (fun p => p.1 = 0x100) = some (0x100, 0x3F80, false) ∧
    (runOp unit3 { kind := .ftupd false (List.replicate 32 0x3F800000) }).loss = none ∧
    (runOp unit3 { kind := .ftupd true (List.replicate 32 0x40000000) }).loss = some (0, 0) ∧
    (runOp { unit3 with elts := [] } { kind := .ftupd false (List.replicate 32 0) }).loss = some (0, 1) ∧
    (List.replicate 32 (0x3F800000 : Lane)).length = 32 ∧ ({ mode := .lost 3 1 0 } : Tile).mode = .lost 3 1 0 := by decide +kernel
theorem witness_CompressAndEngine_positive : Positive32 0x3F800000 ∧ ¬ Positive32 0 := by
  refine ⟨⟨2 ^ 23, -23, by decide, by decide⟩, fun ⟨m, e, h, he⟩ => ?_⟩
  have : val32 0 = .fin false 0 (-149) := by decide
  simp_all
/-- The batch has run; and it has failed. -/
def ranOp : State := (oneOp { ran := true }).modCtx 0 2 fun c => { c with work := { c.work with regs := [(1, 9, 31, ⟨5, false⟩)] } }
theorem witness_BatchesCommit : (ranOp.ctx 0 2).batches = [{ num := 1, close := 4 }] ∧ (ranOp.ctx 0 2).holder = some 0 ∧
    ranOp.commitReady 0 2 = true ∧ ranOp.workTravels 0 2 = true ∧ (ranOp.group 0 0).st = .resident ∧ (ranOp.ctx 0 2).doomed = false ∧
    (∀ e ∈ (ranOp.ctx 0 2).work.regs, (e.1, vecKey e.2.1 e.2.2.1) ∈ (ranOp.group 0 0).arch.pend ∧ e.2.2.1 < 32) ∧
    ((ranOp.ctx 0 2).work.regs.map fun w => vecKey w.2.1 w.2.2.1).Nodup := by decide
def doomed : State := (oneOp {}).modCtx 0 2 fun c => { c with work := { c.work with attempt := 4 } }
/-- The batch stores a byte and has lost a tile. -/
def losing : State := ranOp.modCtx 0 2 fun c => { c with work := { c.work with mem := [(0x100, ⟨7, false⟩)], loss := some 3 } }
theorem witness_BatchesCommit_stores : (losing.ctx 0 2).doomed = false ∧ losing.commitReady 0 2 = true ∧ losing.workTravels 0 2 = true ∧
    (∀ p ∈ (losing.ctx 0 2).work.mem, (losing.at_ 0 0 0).deadLink (losing.at_ 0 0 0).curPart p.1 = none) ∧
    (losing.ctx 0 2).work.loss = some 3 ∧ (losing.team (losing.group 0 0).team).dropsWork = false := by decide
/-- The team of the batch is ending. -/
def dropping : State := losing.modTeam 0 fun t => { t with ending := some (.trap, 0, 0, 0) }
theorem witness_BatchesCommit_drops : (dropping.team (dropping.group 0 0).team).dropsWork = true ∧ dropping.commitReady 0 2 = true ∧
    dropping.workTravels 0 2 = true ∧ (dropping.ctx 0 2).batches = [{ num := 1, close := 4 }] ∧ (dropping.group 0 0).st = .resident := by decide
theorem witness_BatchesCommit_failed : doomed.workTravels 0 2 = true ∧ (doomed.ctx 0 2).doomed = true ∧ doomed.commitReady 0 2 = true ∧
    (doomed.team (doomed.group 0 0).team).dropsWork = false ∧ (doomed.group 0 0).st = .resident := by decide


/-! Engine commands. -/

theorem witness_CommandWords : base.inStream = false ∧ Executes base hdr ∧ (named.cur.arch.valS 8).extractLsb' 40 24 = 0 ∧ CleanS named 8 ∧
    CleanS named 4 ∧ CleanLo named 5 ∧ Executes named hdr ∧ Resolved named ∧ named.det = false ∧
    cmdRanges named { kind := .pcpy, dst := 0, src := 0x100, len := 128 } = none ∧
    named.valveFits ({ kind := .pcpy, dst := 0, src := 0x100, len := 128 } : Cmd).ranges = true ∧
    cmdRanges named { kind := .pfill, dst := 0, len := 0 } = none := by decide +kernel
/-- The ticket ring holds one command, which is done; s9 asks for a gather of rows of 64 bytes. -/
def ringed : State := (scratchy.modCur fun g => { g with ring := [(0, { state := .done, ticket := 128, done := 64, seq := 1, seen := true })] }).modArch
  fun a => (a.setS 8 128).setS 9 64
theorem witness_CommandWords_ring : CleanS ringed 8 ∧ ringed.cur.arch.valS 8 ≠ 0 ∧ Executes ringed hdr ∧
    ringed.cur.ring = [(0, { state := .done, ticket := (ringed.cur.arch.valS 8).toNat, done := 64, seq := 1, seen := true })] := by decide
/-- The same with the command that the ring names still running, and one that the ring no longer names. -/
def ringRuns : State := ringed.modCur fun g => { g with cmds := [{ seq := 1, ticket := 128, left := [0] }, { seq := 0, ticket := 128, left := [0] }] }
theorem witness_CommandWords_cancel : Resolved ringRuns ∧ Executes ringRuns hdr ∧ CleanS ringRuns 8 ∧ ringRuns.det = false ∧
    (ringRuns.cur.ring.find? fun p => p.2.ticket = (ringRuns.cur.arch.valS 8).toNat).map (·.2.seq) = some 1 ∧
    ringRuns.cur.cmds.map (fun c => (decide (c.kind = .siph), c.ended, c.seq)) = [(false, false, 1), (false, false, 0)] := by decide
theorem witness_CommandWords_gather : goodSiph (ringed.cur.arch.valS 9) = true ∧ Held ringed (refOf ringed (v 7)) ∧
    CleanIn ringed (ringed.execMask hdr) (refOf ringed (v 7)) ∧
    siphRows ringed (siphCmd ringed (ringed.execMask hdr) 4 (v 7) 5 9 .s .g) = none ∧ (ringed.cur.arch.valS 4).toNat % 4 = 0 ∧
    (let c := siphCmd ringed (ringed.execMask hdr) 4 (v 7) 5 9 .s .g
     ringed.valveFits [(.s, c.gatherTo.1), (.g, c.gatherFrom.1)] = true) := by
  decide +kernel
def fill : Cmd := { seq := 1, ticket := 1, kind := .pfill, dst := 0x100, len := 4, pat := 0x01020304, left := [0], ringAt := 0 }
def lostFill : Cmd := { fill with dst := 0x5000 }
def gather : Cmd := { seq := 1, kind := .siph, dsp := .g, ssp := .g, dst := 0x200, len := 4, rows := [(0, 0x100)] }
def pumping (c : Cmd) : State := mapped.modCur fun g => { g with cmds := [c], seq := 2 }
/-- The state in which the write of a fill is checked. -/
def checked (c : Cmd) : State := (((pumping c).at_ 0 0 0).rangeCount c.dsp c.dst 0)
theorem witness_CommandsRun : ∀ c, c = fill ∨ c = lostFill ∨ c = gather →
    (pumping c).cur.cmds[0]? = some c ∧ ((pumping c).at_ 0 0 0).mayRunCmd c = true ∧ ((pumping c).at_ 0 0 0).pieceTravels c 0 = true ∧ c.ended = false ∧ c.fail = none ∧
    ((pumping c).group 0 0).st = .resident ∧ ((pumping c).core 0).l1 = [] := by
  rintro c (rfl | rfl | rfl) <;> decide
def fillBytes : List Byte := [4, 3, 2, 1]
theorem witness_CommandsRun_piece : fill.span 0 = (0, 4) ∧ ((pumping fill).at_ 0 0 0).pumpQuad 0 = 0 ∧ (checked fill).withSource 0 fill = (checked fill, fill) ∧
    (checked lostFill).withSource 0 lostFill = (checked lostFill, lostFill) ∧
    ((checked fill).pieceData 0 fill 0 4).toOption.map (fun r => (decide (r.1 = checked fill), r.2)) =
      some (true, fillBytes.map fun b => ⟨b.setWidth 32, false⟩) ∧
    ((checked fill).rangeBytes false .store .g 0x100 0 4 fillBytes).toOption = some [0x100, 0x101, 0x102, 0x103] ∧
    ((checked lostFill).rangeBytes false .store .g 0x5000 0 4 fillBytes).isOk = false ∧
    ((pumping lostFill).group 0 0).reports.length < 16 ∧ ((pumping lostFill).team 0).dropsWork = false := by decide +kernel
theorem witness_CommandsRun_gather : ((pumping gather).at_ 0 0 0).travels .g [0x100, 0x101, 0x102, 0x103] = true ∧
    (((pumping gather).at_ 0 0 0).rangeBytes false .load .g 0x100 0 4 []).toOption = some [0x100, 0x101, 0x102, 0x103] ∧
    ((pumping gather).at_ 0 0 0).rangeWalk .g 0x100 0 4 = true ∧ ((pumping gather).team ((pumping gather).group 0 0).team).dropsWork = false ∧
    ((List.range 4).map fun i => ((pumping gather).at_ 0 0 0).placeOf .g (0x200 + BitVec.ofNat 64 i)).Nodup ∧ gather.rows.length = 1 := by
  decide +kernel
/-- The team of the gather is ending. -/
def unwanted : State := (pumping gather).modTeam 0 fun t => { t with ending := some (.trap, 0, 0, 0) }
theorem witness_CommandsRun_drops : unwanted.cur.cmds[0]? = some gather ∧ (unwanted.at_ 0 0 0).mayRunCmd gather = true ∧
    (unwanted.team (unwanted.group 0 0).team).dropsWork = true ∧ (unwanted.group 0 0).st = .resident ∧ (unwanted.core 0).l1 = [] := by decide

/-! Command streams. -/

def idle : State := mapped.setStream 127 { part := some 0 }
theorem witness_StreamsStart : (idle.stream 127).part = some 0 ∧ (idle.stream 127).state = 0 ∧ (idle.part 0).resetting = false ∧
    (streaming.stream 3).state = 1 ∧ (0x40 : Word).extractLsb' 57 7 = 0 ∧ (0x40 : Word).extractLsb' 0 3 = 0 ∧
    (0x41 : Word).extractLsb' 0 3 ≠ 0 := by decide
/-- Stream 3 of partition 0 at a word, its pages translated. -/
def stream3 : State := (mapped.setStream 3 { part := some 0, state := 1, grp := { st := .resident, arch := named.cur.arch } }).at_ 384 3 0
/-- The stream as it runs, with its one lane. -/
def oneLane : State := stream3.modCand fun c => { c with slices := 1 }
theorem witness_ReturnAndEnd_stream : oneLane.agent = .stream 3 ∧ badGuard hdr = false ∧ Inside oneLane ∧ Resolved oneLane ∧
    oneLane.execMask hdr ≠ 0 ∧ oneLane.curCand.slices = 1 ∧ takenBy oneLane hdr 0 = (oneLane.slice 0).active ∧ takenBy oneLane hdr 0 ≠ 0 ∧
    (oneLane.slice 0).ret = [] ∧ (oneLane.slice 0).retSpill = 0 := by decide +kernel
def held3 : State := stream3.modStream 3 fun w => { w with state := 2, hold := .sem .eq 0x100 1 }
def again : State := (held3.modStream 3 fun w => { w with state := 1, hold := .none }).at_ 384 3 0
theorem witness_StreamsGoOn : (held3.stream 3).hold = .sem .eq 0x100 1 ∧ (held3.stream 3).grp.aq = [] ∧
    (resolvePieces again (again.semAccess .load .acq 0x100 0) .load [{ addr := 0x100, n := 8, val := 0 }]).toOption.map
      (fun r => decide (r.1 = again) && r.2.length == 1 &&
        r.2.all (fun p => (again.deadLink again.curPart p.place).isNone && again.travels .g [p.place])) = some true ∧
    again.piecesWalk [{ addr := 0x100, n := 8 }] = true ∧
    Inside again := by decide +kernel
def held7 : State := mapped.setLaunch 7 { held := true }
theorem witness_StreamsGoOn_launch : (∀ k r t sd, (held7.stream k).hold ≠ .launch r t sd) ∧ (held7.launch 7).held = true ∧
    (held7.launch 7).time.toNat ≤ held7.time.wall.toNat := by
  refine ⟨fun k r t sd => ?_, by decide, by decide⟩
  show StreamHold.none ≠ .launch r t sd
  exact nofun
theorem witness_StreamWords : base.inStream = false ∧ Resolved base ∧ stream3.agent = .stream 3 ∧ Executes stream3 hdr ∧ CleanS stream3 4 ∧
    QueueSettled stream3 ∧ stream3.cur.aq = [] ∧
    issueChecks stream3 .g .atomic [{ addr := 0, n := 8, val := 0 }] (alignFault .g .atomic 0 0 8) = none ∧
    issueChecks stream3 .g .load [{ addr := 0, n := 8 }] (alignFault .g .load 0 0 8) = none ∧
    (resolvePieces stream3 (stream3.semAccess .load .acq 0 0) .load [{ addr := 0, n := 8, val := 0 }]).toOption.map
      (fun r => decide (r.1 = stream3) && r.2.length == 1 && r.2.all (fun p => stream3.travels .g [p.place])) = some true ∧
    stream3.piecesWalk [{ addr := 0, n := 8 }] = true ∧ stream3.gOpen stream3.curPart 128 128 = true ∧
    (readRecord stream3 128).toOption.map (fun r => decide (r.1 = stream3)) = some true := by decide +kernel

/-! Runs. -/

/-- The group before the fetch of its run, where the text is a NOP and a trailer. -/
def unfetched : State := (((mapped.modArch fun a => { a with cands := [{ slices := 0xFF, settled := true }] }).setByte 7 0x78).setByte 15 0xBF).modTeam 0
  fun t => { t with st := .resident }
theorem witness_RunsAreFetched : unfetched.curCand.has 0 = true ∧ unfetched.curCand.settled = true ∧ unfetched.curCand.run = none ∧
    unfetched.curCand.hold = .none ∧ unfetched.mayRun = true ∧ unfetched.inStream = false ∧
    (unfetched.core 0).textAt unfetched.curPart 0 0xFF unfetched.candPc = none ∧
    (readText unfetched 25 unfetched.candPc.toNat).toOption = some [0x7800000000000000, 0xBF00000000000000] ∧
    unfetched.textOpen unfetched.candPc.toNat 2 = true ∧
    fetchCheck unfetched.candPc [0x7800000000000000, 0xBF00000000000000] = none := by decide +kernel
/-- The same text in quadrant 1, to which the path is down. -/
def farText : State := away (unfetched.setByte (96 * 0x100000000 + 15) 0xBF)
theorem witness_RunsAreFetched_waits : (farText.core 0).textAt farText.curPart 0 0xFF farText.candPc = none ∧
    (readText farText 25 farText.candPc.toNat).isOk = true ∧ farText.textOpen farText.candPc.toNat 1 = false ∧ farText.mayRun = true := by
  decide +kernel
def lostText : State := unfetched.modArch fun a => (List.range 8).foldl (fun b sl => b.modSlice sl fun x => { x with pc := 0x5000 }) a
theorem witness_RunsAreFetched_fault : (readText lostText 25 lostText.candPc.toNat).isOk = false ∧ lostText.textOpen 0x5000 1 = true ∧ lostText.inTurn = true ∧
    lostText.mayRun = true ∧ (lostText.core 0).textAt lostText.curPart 0 0xFF lostText.candPc = none := by decide +kernel
def keeping (ws : List Word) : State := unfetched.modCore 0 fun c => { c with text := [{ start := 0, words := ws }] }
theorem witness_RunsAreFetched_held : ((keeping [0x7800000000000000, 0xBF00000000000000]).core 0).textAt 0 0 0xFF 0 = some [0x7800000000000000, 0xBF00000000000000] ∧
    ((keeping [0xBF00000000000000]).core 0).textAt 0 0 0xFF 0 = some [0xBF00000000000000] ∧
    fetchCheck 0 [0xBF00000000000000] ≠ none := by decide +kernel
/-- A slice of the group waits for an entry of its divergence stack, or of its return stack. -/
def filling (r : Bool) : State := (scratchy.modArch fun a => { a with cands := [{ slices := 0xFF, hold := .fill }] }).modArch fun a =>
  a.modSlice 2 fun x => if r then { x with retSpill := 1 } else { x with divSpill := 1 }
/-- A RET has read that return entry already. -/
def arriving : State := (filling true).modArch fun a => a.modSlice 2 fun x => { x with retIn := some 0x40 }
theorem witness_RunsAreFetched_fill_arrives : (arriving.at_ 0 0 2).curCand.has 2 = true ∧ (arriving.at_ 0 0 2).curCand.hold = .fill ∧
    (arriving.slice 2).ret = [] ∧ (arriving.slice 2).retSpill ≠ 0 ∧ (arriving.slice 2).divSpill = 0 ∧ (arriving.slice 2).retIn = some 0x40 ∧
    ((filling true).slice 2).retIn = none := by decide +kernel
theorem witness_RunsAreFetched_fill : ((filling true).at_ 0 0 2).curCand.has 2 = true ∧ ((filling true).at_ 0 0 2).curCand.hold = .fill ∧
    ((filling true).slice 2).ret = [] ∧ ((filling true).slice 2).retSpill ≠ 0 ∧ ((filling false).slice 2).div = [] ∧
    ((filling false).slice 2).divSpill ≠ 0 ∧ (∀ b, ((filling b).at_ 0 0 2).stackOpen .load (((filling b).at_ 0 0 2).divSpillAt 2 0) 16 = true ∧
      ((filling b).at_ 0 0 2).stackOpen .load (((filling b).at_ 0 0 2).retSpillAt 2 0) 8 = true) := by decide +kernel

/-- The port of slot 0 is free, its group's one candidate ready; once with its tests still to make, once with a request on its cluster. -/
def free (c : Cand) : State := (unfetched.modArch fun a => { a with cands := [c] }).modCore 0 fun k => k.setPort 0 { k.port 0 with cur := none }
def ready : Cand := { slices := 0xFF, settled := true, run := some base.curRun, readyAt := some 0 }
def fresh : Cand := { slices := 0xFF }
def due : State := ((((free ready).setCluster 0 { teams := [0], decision := some 1, pdeadline := 9 }).setLaunch 0 { info := { tbase := 0x1000 } }).modCur
  fun g => { g with trapen := 0x20000 })
theorem witness_RunsStart : ((free ready).at_ 0 0 0).curCand = ready ∧ (free ready).unsettled 0 0 = none ∧
    (((free ready).core 0).port 0).cur = none ∧ (free ready).detCore 0 = false ∧ (free ready).choose 0 0 = some (0, ready) ∧
    ((free ready).at_ 0 0 0).preemptDue = false ∧ ready.hold = .none := by decide +kernel
/-- A run that begins with an MLEASE. -/
def needing : Cand := { ready with run := some { start := 0, words := [0xB10001390C000000], trailer := 0xBF00000000000000 } }
theorem witness_RunsStart_lease : (free needing).choose 0 0 = some (0, needing) ∧ ((free needing).at_ 0 0 0).needsCtx = true ∧
    (free needing).unsettled 0 0 = none ∧ ((free needing).at_ 0 0 0).preemptDue = false := by decide +kernel
theorem witness_RunsStart_preempt : (due.at_ 0 0 0).curCand = ready ∧ due.unsettled 0 0 = none ∧ due.choose 0 0 = some (0, ready) ∧
    (due.at_ 0 0 0).preemptDue = true ∧ ready.started = false ∧ (due.team (due.at_ 0 0 0).cur.team).ending = none ∧
    (due.at_ 0 0 0).curLaunch.info.tbase ≠ 0 := by decide +kernel
theorem witness_RunsStart_tests : (free fresh).unsettled 0 0 = some (0, fresh) ∧ ((free fresh).at_ 0 0 0).settlesPlainly = true ∧
    ((free fresh).at_ 0 0 0).cur.arch.cands = [fresh] ∧
    ∀ sl, sl < 8 → ((free fresh).slice sl).pc = ((free fresh).at_ 0 0 0).candPc ∧ ((free fresh).slice sl).exited ≠ 0xF := by decide +kernel
/-- Every slice of the fresh candidate given a record: at the join of two branches, the inner one's other side gone; at the end of a loop
with a trip left; at that of a LOOP.w whose maximum is reached. -/
def atStart (x : Slice) : State := (free fresh).modArch fun a => (List.range 8).foldl (fun b sl => b.setSlice sl x) a
def entry (phase : Bool) (taken : BitVec 4) : DivEntry := { prior := 0xF, phase := phase, join := 0x40, taken := taken, target := 0x80 }
def rejoining : Slice := { pc := 0x40, active := 0xC, div := [entry true 3, entry false 8] }
def otherSide : Slice := { pc := 0x80, active := 8, div := [entry true 8] }
def trips (counted : Bool) (limit : Nat) : Slice :=
  { pc := 0x40, active := 0xF,
    loops := [{ id := 3, counted := counted, pk := 1, start := 0x20, stop := 0x40, limit := limit, trips := 1, dormant := 0, depth := 0 }] }
def again1 : Slice := { trips true 3 with pc := 0x20, loops := (trips true 3).loops.map fun l => { l with trips := 2 } }
theorem witness_RunsStart_joins : ((atStart rejoining).at_ 0 0 0).curCand = fresh ∧ (atStart rejoining).unsettled 0 0 = some (0, fresh) ∧
    (∀ sl, sl < 8 → (atStart rejoining).slice sl = rejoining) ∧ startTests (fun _ => 0) 2 rejoining = some otherSide ∧
    startTest (fun _ => 0) otherSide = .rests ∧ otherSide.needsFill = false := by decide +kernel
theorem witness_RunsStart_trips : (atStart (trips true 3)).unsettled 0 0 = some (0, fresh) ∧
    startTests (fun _ => 0) 1 (trips true 3) = some again1 ∧ startTest (fun _ => 0) again1 = .rests ∧ again1.needsFill = false := by
  decide +kernel
theorem witness_RunsStart_loopmax : let s := (atStart (trips false 2)).setLaunch 0 { info := { tbase := 0x1000 } }
    s.unsettled 0 0 = some (0, fresh) ∧ TakesTraps (s.at_ 0 0 0) ∧ (∀ sl, sl < 8 → s.slice sl = trips false 2 ∧
      startTest (fun q => sliceBits (s.cur.arch.getP q) sl) (trips false 2) = .maximum ((trips false 2).loops.headD default)) ∧
    (trips false 2).exited ≠ 0xF := by decide +kernel
def streamReady : State := stream3.modCand fun _ => { slices := 1, settled := true, run := some base.curRun }
theorem witness_RunsStart_stream : (streamReady.at_ 384 3 0).mayRun = true ∧ streamReady.curCand.slices ≠ 0 ∧
    streamReady.curCand.started = false ∧ streamReady.curCand.settled = true ∧ streamReady.ready = true ∧
    streamReady.curCand.hold = .none := by decide +kernel

/-! Launches and teams. -/

/-- A launch of two teams, none handed out, on a partition of one core. -/
def launched : State := (State.reset.setPart 0 { cores := [0], channels := [0] }).setLaunch 1 { info := { gx := 2, threads := 33 }, live := 2 }
theorem witness_TeamsArePlaced_batch : (launched.launch 1).held = false ∧ (launched.launch 1).next < (launched.launch 1).info.total ∧
    (launched.launch 1).live ≠ 0 ∧ launched.batchUnits 1 0 = 2 ∧
    (launched.rotationOrder.find? fun q => (launched.coresOf (launched.launch 1).part).any (fun n => quadOf n == q) &&
      launched.batchUnits 1 q != 0) = some 0 := by decide +kernel
/-- The first of its teams heads the queue of quadrant 0. -/
def queued : State := (launched.setTeam 1 { launch := 1, st := .queued }).setQueue 0 [{ team := 1 }]
theorem witness_TeamsArePlaced : queued.queue 0 = [{ team := 1 }] ∧ (queued.launch 1).info.cw = 0 ∧ queued.privRoom 1 [1] = true ∧
    (queued.coreSets (queued.launch 1)).findSome? (queued.coreFor 0 1) = some 0 ∧ (queued.team 1).record = none ∧
    (queued.team 1).saved = [] ∧ queued.pickSlots 0 (queued.launch 1).info.groups = some [0, 1] ∧
    queued.firstGranule 0 (queued.launch 1).info.spGranules = some 0 ∧ (queued.team 1).seq = none := by decide +kernel
/-- A work cluster of two teams. -/
def cluster2 : State := ((((State.reset.setPart 0 { cores := [0, 1], channels := [0] }).setLaunch 1
  { info := { gx := 2, cw := 2, ch := 1, privs := 2 }, live := 2, next := 2 }).setTeam 1 { launch := 1, cluster := 1, st := .queued }).setTeam 2
  { launch := 1, cluster := 1, rank := 1, st := .queued }).setCluster 1 { launch := 1, teams := [1, 2], cw := 2 }
def clusterQueued : State := cluster2.setQueue 0 [{ team := 1 }, { team := 2 }]
theorem witness_TeamsArePlaced_cluster : clusterQueued.queue 0 = [{ team := 1 }, { team := 2 }] ∧ (clusterQueued.launch 1).info.cw ≠ 0 ∧
    clusterQueued.privRoom 1 ([1, 2].filter fun x => (clusterQueued.team x).st != .ended) = true ∧
    (∀ x ∈ [1, 2], clusterQueued.recordOpen x = true) ∧ [1, 2].Nodup ∧ (clusterQueued.cluster (clusterQueued.team 1).cluster).teams = [1, 2] ∧
    (clusterQueued.coreSets (clusterQueued.launch 1)).findSome?
      (clusterQueued.rectFor 0 [1, 2] (clusterQueued.launch 1).info) = some [0, 1] := by decide +kernel
/-- Team 0 holds slot 0 with a group in some state. -/
def holding (st : GroupState) (t : TeamState) : State := (clustered.modCur fun g => { g with st := st }).modTeam 0 fun x => { x with st := t }
theorem witness_TeamsEnd_load : ((holding .loading .placing).group 0 0).st = .loading ∧ ((holding .loading .placing).team 0).wakeUntil = none ∧
    ((holding .loading .placing).team 0).ending = none ∧ ((holding .loading .placing).team 0).record = none ∧
    (∀ x ∈ (holding .loading .placing).alive 0, ((holding .loading .placing).team x).replay = false) ∧
    (holding .loading .placing).loadOpen 0 = true ∧
    ∀ h ∈ (holding .loading .placing).heldGroups 0, groupKey h.1 h.2.1 = groupKey 0 0 := by decide
/-- Beside it a team of its cluster is being saved. -/
def joining : State := ((holding .loading .placing).setCluster 0 { teams := [0, 1] }).setTeam 1 { st := .saving }
theorem witness_TeamsEnd_joins : (joining.group 0 0).st = .loading ∧ (joining.team 0).wakeUntil = none ∧ (joining.team 0).ending = none ∧
    (joining.team 0).record = none ∧ (∀ x ∈ joining.alive 0, (joining.team x).replay = false) ∧ joining.loadOpen 0 = true ∧
    (∀ h ∈ joining.heldGroups 0, groupKey h.1 h.2.1 = groupKey 0 0) ∧ (joining.cluster (joining.team 0).cluster).teams.filter (· ≠ 0) = [1] ∧
    (joining.team 1).st = .saving := by decide
theorem witness_TeamsEnd_free : ((holding .done .resident).group 0 0).st = .done ∧ ((holding .done .resident).group 0 0).lease = none ∧
    (holding .done .resident).drained 0 ((holding .done .resident).group 0 0) = true ∧ ((holding .done .resident).team 0).st = .resident ∧
    ((holding .done .resident).team 0).ending = none ∧ (holding .done .resident).ownOpen 0 0 = true := by decide
def ending : State := clustered.modTeam 0 fun t => { t with ending := some (.trap, 1, 2, 3) }
theorem witness_TeamsEnd : (ending.team 0).ending = some (.trap, 1, 2, 3) ∧ ∀ h ∈ ending.heldGroups 0, ending.drained h.1 h.2.2 = true ∧
    ending.ownOpen h.1 h.2.1 = true := by
  decide
/-- A launch whose teams have ended, with its record and its semaphore at mapped addresses. -/
def overL (r m : Word) : State := mapped.setLaunch 1 { info := { record := r, sema := m }, next := 1 }
theorem witness_TeamsEnd_launch : (∀ k r t sd, ((overL 0x100 0).stream k).hold ≠ .launch r t sd) ∧ ((overL 0x100 0).launch 1).complete = false ∧
    ((overL 0x100 0).launch 1).live = 0 ∧ ((overL 0x100 0).launch 1).info.total ≤ ((overL 0x100 0).launch 1).next ∧
    ((overL 0x100 0).gPlaces 384 0 true .store 0x100 32).toOption = some ((List.range 32).map (0x100 + ·)) ∧
    ((overL 0 0x100).gPlaces 384 0 true .atomic 0x100 8).toOption = some ((List.range 8).map (0x100 + ·)) ∧
    (∀ p ∈ (List.range 32).map (0x100 + ·), (overL 0x100 0).deadFrom 0 0 p = none) ∧
    (overL 0x100 0x200).completionOpen ((overL 0x100 0x200).launch 1) = true := by
  refine ⟨fun k r t sd => ?_, by decide, by decide, by decide, by decide +kernel, by decide +kernel, by decide, by decide +kernel⟩
  show StreamHold.none ≠ .launch r t sd
  exact nofun


/-! Pre-emption. -/

/-- A cluster of one team of launch 1 on core 0, which the partition may pre-empt. -/
def running (i : LaunchRec) : State := (((base.setPart 0 { cores := [0], channels := [0], prqCores := 1, sumpSize := 0x40000 }).setLaunch 1
  { info := i, live := 1 }).setCluster 1 { launch := 1, teams := [1] }).setTeam 1 { st := .resident, launch := 1, cluster := 1, slots := [0] }
theorem witness_PreemptionRequests : ∀ i : LaunchRec, i = { budget := 10 } ∨ i = {} ∨ i = { restart := true } →
    (running i).clustersOn 0 ((bitsOf ((running i).part 0).prqCores).filter ((running i).part 0).cores.contains) = [1] ∧
    ((running i).cluster 1).decision = none ∧ ((running i).cluster 1).teams = [1] := by
  rintro i (rfl | rfl | rfl) <;> decide +kernel
theorem witness_PreemptionRequests_drain : ((running { budget := 10 }).launch ((running { budget := 10 }).team 1).launch).info.budget ≠ 0 ∧
    (10 : BitVec 32).toNat - ((running { budget := 10 }).team 1).used ≤ 10 := by decide
theorem witness_PreemptionRequests_cost : 1 < (running {}).clusterCost 1 ∧ 1 < (running { restart := true }).clusterCost 1 ∧
    (running {}).clusterCost 1 ≤ 0x100000 ∧ ((running {}).launch ((running {}).cluster 1).launch).info.restart = false ∧
    ((running { restart := true }).launch ((running { restart := true }).cluster 1).launch).info.restart = true := by decide +kernel
def decided (k : Nat) : State := ((running {}).modCluster 1 fun c => { c with decision := some k, request := 1, yielded := true }).modPart 0
  fun p => { p with requests := [(1, [0])] }
def ended1 : State := (decided 1).modTeam 1 fun t => { t with st := .ended, slots := [] }
theorem witness_PreemptionRequests_withdraw : ((decided 1).part 0).requests ≠ [] ∧ 1 ∈ (decided 1).clusters.map (·.1) ∧
    ((decided 1).cluster 1).request ≠ 0 ∧ (∃ r ∈ ((decided 1).part 0).requests, r.1 = ((decided 1).cluster 1).request) ∧
    (∀ x ∈ ((decided 1).cluster 1).teams, ((decided 1).team x).st = .resident) ∧ (∀ x ∈ ((ended1).cluster 1).teams, ((ended1).team x).st = .ended) ∧
    ((ended1).part 0).requests ≠ [] := by decide
theorem witness_PreemptionRequests_deadlines : (∃ x ∈ ((decided 0).cluster 1).teams, ((decided 0).team x).st = .resident) ∧
    ((decided 0).cluster 1).decision = some 0 ∧ ((decided 0).cluster 1).deadline = 0 ∧ ((decided 1).cluster 1).decision = some 1 ∧
    ((decided 1).cluster 1).pdeadline = 0 ∧ ((decided 1).cluster 1).yielded = true ∧ (decided 1).heldGroups 1 = [] := by decide

/-! Saving. -/

/-- Team 0 in some state, its pool of the Sump at a mapped page or at no page, with room or without. -/
def pooled (b : Word) (n : Nat) : Partition := { channels := [0], cores := [0], sumpBase := b, sumpSize := BitVec.ofNat 64 n }
def pool (st : TeamState) (b : Word) (n : Nat) : State := ((mapped.setPart 0 (pooled b n)).setCluster 0 { teams := [0] }).modTeam 0 fun t => { t with st := st }
def leaving (b : Word) (n : Nat) : State := pool .saving b n
theorem witness_TeamsAreSaved : ∀ b n, (b = 0 ∨ b = 0x100000) ∧ (n = 0 ∨ n = 0x100000) →
    ((leaving b n).team 0).st = .saving ∧ ((leaving b n).team 0).ending = none ∧ (leaving b n).quiet 0 true = true ∧
      (leaving b n).saveOpen 0 = true := by
  rintro b n ⟨rfl | rfl, rfl | rfl⟩ <;> decide +kernel
theorem witness_TeamsAreSaved_room : recordSize {} ((leaving 0 0).savedGroups 0) ≤ 4096 ∧ ((leaving 0 0).part 0).firstFit 1 = none ∧
    ((leaving 0 0x1000).part 0).firstFit 1 = some 0 := by decide +kernel
def withGroup : State := ((pool .saving 0 0x100000).modTeam 0 fun t => { t with slots := [0] }).modCore 0 fun k => k.setPort 0 { k.port 0 with cur := none }
theorem witness_TeamsAreSaved_group : (withGroup.heldGroups 0).length = 1 ∧ withGroup.quiet 0 true = true ∧ withGroup.quiet 0 false = true := by
  decide +kernel
/-- What the first record of a team without groups writes, at a mapped page and at an unmapped one. -/
def written (b : Word) : Bool :=
  let s := leaving b 0x100000
  let s0 := s.setTeam 0 { s.team 0 with current := none, idle := (s.core 0).idle, spPoison := s.scratchPoison 0 }
  let img := s0.recordImage 0 0 []
  let body := s0.writeSectors 0 b img 127 32
  body.2 && (body.1.writeSectors 0 b img 1 0).2
theorem witness_TeamsAreSaved_sectors : written 0 = true ∧ written 0x100000 = false := by decide +kernel
/-- Places of the record's sectors and of the Sump-log entry, beside each other in one page. -/
def logged : State := (leaving 0 0x100000).modPart 0 fun p => { p with sumpLog := 0x2000 }
theorem witness_TeamsAreSaved_places : ((logged.part 0).firstFit (ceilDiv (recordSize {} (logged.savedGroups 0)) 4096)) = some 0 ∧
    (List.range 4096).all (fun o => (logged.gPlace 384 0 true .store o).toOption == some o) = true ∧
    (List.range 4096).all (fun o => (logged.deadFrom 0 0 o).isNone) = true := by decide +kernel
/-- The same team discarded, alone and beside a team that still runs; and saved, with RESUME or KILL in its record. -/
def beside (s : State) (st : TeamState) : State := (s.setCluster 0 { teams := [0, 1] }).setTeam 1 { st := st }
theorem witness_TeamsAreSaved_discard : ((pool .discarding 0 0).team 0).st = .discarding ∧ ((pool .discarding 0 0).team 0).ending = none ∧
    (pool .discarding 0 0).quiet 0 false = true ∧ 0 ∈ ((pool .discarding 0 0).cluster ((pool .discarding 0 0).team 0).cluster).teams ∧
    (∀ y ∈ (pool .discarding 0 0).alive 0, y = 0) ∧ (pool .discarding 0 0).returnQuad 0 = some 0 ∧
    (∀ h ∈ (pool .discarding 0 0).heldGroups 0, (pool .discarding 0 0).ownOpen h.1 h.2.1 = true) ∧
    (∀ y ∈ (pool .discarding 0 0).alive 0,
      ((pool .discarding 0 0).leaveCore 0 (discardedTeam ((pool .discarding 0 0).team 0))).recordOpen y = true) ∧
    1 ∈ (beside (pool .discarding 0 0) .resident).alive 0 ∧ ((beside (pool .discarding 0 0) .resident).team 1).st = .resident := by decide +kernel
def recorded (c : Byte) : State := ((pool .saved 0 0).modTeam 0 fun t => { t with record := some 0 }).setByte 8 c
/-- The header words that R256 checks. -/
def goodRecord : State := [(5, 1), (6, 0x51), (7, 0x5D)].foldl (fun (s : State) (p : Nat × Byte) => s.setByte p.1 p.2) (((recorded 1).setByte 0x3C
  (BitVec.ofNat 8 (((recorded 1).launch 0).info.allot % 256))).setByte 0x3D (BitVec.ofNat 8 ((recorded 1).launch 0).info.groups))
theorem witness_TeamsAreSaved_controls : (recorded 1).controlOf 0 = 1 ∧ ((recorded 1).team 0).requeued = false ∧ (recorded 1).recordGood 0 = false ∧
    (recorded 2).controlOf 0 = 2 ∧ (recorded 1).recordOpen 0 = true ∧ (recorded 2).recordOpen 0 = true ∧
    ((recorded 1).team 0).resumeDue = false ∧ (away (recorded 1)).recordOpen 0 = false := by decide +kernel
/-- A RESUME that could not be written for want of an open slot. -/
def owing : State := goodRecord.modTeam 0 fun t => { t with resumeDue := true }
theorem witness_TeamsAreSaved_owing : (owing.team 0).resumeDue = true ∧ owing.recordOpen 0 = true ∧ (owing.team 0).record = some 0 ∧
    owing.gOpen (owing.launch (owing.team 0).launch).part 8 8 = true := by decide +kernel
theorem witness_TeamsAreSaved_resume : goodRecord.recordOpen 0 = true ∧ (goodRecord.team 0).resumeDue = false ∧
    (∀ y ∈ goodRecord.alive 0, goodRecord.recordOpen y = true) ∧ goodRecord.controlOf 0 = 1 ∧ goodRecord.recordGood 0 = true ∧
    0 ∈ (goodRecord.cluster (goodRecord.team 0).cluster).teams ∧ (∀ y ∈ goodRecord.alive 0, y = 0) ∧ goodRecord.returnQuad 0 = some 0 ∧
    (beside goodRecord .resident).recordGood 0 = true ∧ 1 ∈ (beside goodRecord .resident).alive 0 := by decide +kernel

/-! Power, time and links. -/

/-- Team 3 of core 0 waits for the gated power cluster of that core. -/
def asleep : State := ({ State.reset with power := { clusters := [(0, { gated := true, waking := true })] } }).setTeam 3 { wakeUntil := some 0 }
theorem witness_PowerArbiter : (asleep.powerCluster 0).gated = true ∧ (asleep.powerCluster 0).waking = true ∧
    ∃ x ∈ asleep.teams, powerOf x.2.core = 0 ∧ ∃ w, x.2.wakeUntil = some w ∧ w ≤ asleep.power.nanos := by
  refine ⟨by decide, by decide, (3, { wakeUntil := some 0 }), by decide, by decide, 0, rfl, by decide⟩
/-- Core 0 runs for a team, once in the middle of its 128 strokes, once at the end of them, once with its counts closed; the 2 µs of the
intervals are over, or are not. -/
def clocked (c : Core) : State := { clustered.setCore 0 { c with ports := [(0, { busy := 1, word := some 2, work := [(21, 32)] })] } with agenda := [.stroke 0] }
theorem witness_PowerArbiter_strokes : ∀ c : Core, c = {} ∨ c = { since := 127, activity := [(2, 5)] } →
    (clocked c).agenda = [.stroke 0] ∧ (clocked c).coreEnabled 0 = true ∧ ((clocked c).core 0).due = false ∧ (clocked c).clockRuns 0 = true ∧
    (((clocked c).core 0).activity.map (·.1)).Nodup := by
  rintro c (rfl | rfl) <;> decide
theorem witness_PowerArbiter_estimates : ((clocked { due := true, tally := [(2, 9)] }).core 0).due = true ∧
    ((clocked { due := true, tally := [(2, 9)] }).cores.filter fun e => powerOf e.1 = 0 ∧ e.2.due = true) ≠ [] ∧
    (base.cores.filter fun e => powerOf e.1 = 0 ∧ e.2.due = true) = [] := by decide
def passing (n : Nat) : State := { State.reset with power := { nanos := n }, agenda := [.time] }
theorem witness_PowerArbiter_intervals : (∀ q, q < 4 → ¬ Store.get (passing 1999).power.began q + 2000 ≤ (passing 1999).power.nanos) ∧
    Store.get (passing 2000).power.began 0 + 2000 ≤ (passing 2000).power.nanos ∧
    (passing 2000).power.nanos < Store.get (passing 2000).power.began 0 + 4000 ∧ (passing 2000).agenda = [.time] := by decide
def set : State := { State.reset with time := { wall := 0, set := true } }
def linked (v : Link) : State := State.reset.setLink 22 v
def armed : State := linked { armed := true, offsetNext := some 5, downSince := some 0, up := false }
theorem witness_TimeAndLinks : State.reset.time.set = false ∧ set.time.set = true ∧ (armed.link 22).armed = true ∧
    (((armed.time.wall.toNat : Int) + (armed.link 22).offset.toInt) % 25600).toNat = 0 ∧ (armed.link 22).acttime.toNat ≤ armed.time.wall.toNat ∧
    (armed.link 22).offsetNext = some 5 ∧ (armed.link 22).up = false ∧ (State.reset.link 22).up = true ∧ ¬ (6 - 6) ∈ State.reset.fuses.noPorts ∧
    (armed.link 22).downSince = some 0 ∧ (armed.link 22).dead = false := by decide
def slewing (n : Int) : State := { State.reset with time := { slew := n, since := 9999 }, agenda := [.time] }
theorem witness_TimeAndLinks_slew : ∀ n : Int, n = -5 ∨ n = 5 → (slewing n).agenda = [.time] ∧ (slewing n).time.slew ≠ 0 ∧
    ¬ (slewing n).time.since < 9999 := by
  rintro n (rfl | rfl) <;> decide
def late : State := { armed with power := { nanos := 1000000 } }
theorem witness_TimeAndLinks_timeout : (late.link 22).downSince = some 0 ∧ 0 + 1000000 ≤ late.power.nanos ∧
    (armed.link 22).downSince = some 0 ∧ armed.power.nanos < 0 + 1000000 ∧
    (late.link 22).dead = false := by decide

/-! The device. -/

def reseting : State := State.reset.setPart 0 { resetting := true, cores := [0], cacheSlices := [3], bufSlices := [4] }
theorem witness_ResetsAndStarts : (reseting.part 0).resetting = true ∧ reseting.liveTeams 0 = [] ∧
    (∀ e ∈ reseting.launches, e.2.part = 0 → e.2.complete = true) ∧ ((running {}).part 0).resetting = false ∧
    ((running {}).launches.map (·.1)).Nodup ∧ ((running {}).streams.map (·.1)).Nodup ∧ ((running {}).teams.map (·.1)).Nodup := by decide
def tenanted : State := { State.reset with tenants := [7] }
def grant : Assignment := { ident := 1, tenant := 7, cores := [0, 1], channels := [0, 5], cacheSlices := [0], bufSlices := [255],
                            pumps := 1, ports := [0], dests := [], peers := [], streams := [0, 127] }
theorem witness_ResetsAndStarts_assign : tenanted.mayAssign 0 grant = true ∧ tenanted.mayAssign 31 { grant with tenant := 7, streams := [] } = true := by
  decide
theorem witness_ResetsAndStarts_tenants : 7 ∈ tenanted.tenants ∧ 7 ∉ State.reset.tenants ∧ (List.replicate 32 (0 : Byte)).length = 32 := by decide
theorem witness_OutsideAccesses : base.coreEnabled 383 = true ∧ ((decided 0).part 0).requests ≠ [] ∧ xlinvSize ((0x1F : Word).extractLsb' 0 4).toNat = some (2 ^ 57) ∧
    xlinvSize ((0x1001 : Word).extractLsb' 0 4).toNat = some 0x10000 := by decide
def local8 : PeerTarget := .loc 0 0x100
theorem witness_OutsideAccesses_peer : mapped.targetOk local8 8 = true ∧ ((List.range 8).map (mapped.targetPlace local8)).Nodup ∧
    base.targetOk (.host (2 ^ 52 - 8)) 8 = true ∧ ((List.range 8).map (base.targetPlace (.host (2 ^ 52 - 8)))).Nodup ∧
    base.targetOk (.peer 5 0) 4 = true ∧ (mapped.targetAtomic local8 8 (fun _ => none) false) = mapped := by decide +kernel
def working : State := (named.modCore 0 fun c => { c with engBusy := 1, engCur := 2, l1 := [(0x80, {})] }).modCtx 0 2 fun c => { c with work := { count := 1 } }
theorem witness_OutsideAccesses_upsets : named.upsetOk (.vreg 0 0 1 31) = true ∧ named.upsetOk (.hbm 12345) = true ∧
    named.upsetOk (.control 0 0) = true ∧ (named.team (named.group 0 0).team).ending = none ∧ named.upsetOk .engineData = true ∧
    named.upsetOk (.sreg 0 0 63 true) = true ∧ named.upsetOk (.temp 0 0 7 31) = true ∧ named.upsetOk (.stack 0 0 31 7) = true ∧
    named.upsetOk (.scratch 0 0x17FFF) = true ∧ named.upsetOk (.accum 0 3 7 1023) = true ∧ named.upsetOk (.table 0 1 255) = true ∧
    named.upsetOk (.cistern 0) = true ∧ working.upsetOk (.engineCheck 0 2) = true ∧ working.upsetOk (.l1 0 1) = true ∧
    named.upsetOk (.control 0 0) = true := by decide
/-- Port 0 of core 0 is in the passes of a VADD into v2, pass 0 of which has failed its check so many times. -/
def inPass (m : Nat) : State := (base.modCand fun c => { c with run := c.run.map fun r => { r with words := [0x0500080400002000], pos := 1 } }).modCore 0
  fun c => { c.setPort 0 { c.port 0 with busy := 1, word := some 1, passes := 2, misses := (0, m), lanes := 0xFFFFFFFF } with
    windows := [{ cls := 1, left := 5, port := 3 }, { cls := 1, left := 4 }] }
theorem witness_OutsideAccesses_passes : (∀ m, m < 3 → (inPass m).upsetOk (.portPass 0 0 0) = true ∧
      ((inPass m).core 0).windows = [{ cls := 1, left := 5, port := 3 }] ++ { cls := 1, left := 4 } :: []) ∧
    ((inPass 2).core 0).port (0 % 4) = { ((base.core 0).port 0) with
      cur := some (0, 0), busy := 1, word := some 1, passes := 2, misses := (0, 2), lanes := 0xFFFFFFFF } ∧
    ((inPass 2).at_ 0 0 0).curRun.words[((inPass 2).at_ 0 0 0).curRun.pos - 1]? = some 0x0500080400002000 := by decide +kernel

/-- A descriptor at 0x40 of a text of n words at 0x200, with the rewriter busy. -/
def rewriting (n : Byte) (descr : Word) (hi : Byte) : State :=
  { [(0x41, 2), (0x49, 3), (0x50, n), (0x207, hi)].foldl (fun (s : State) (p : Nat × Byte) => s.setByte p.1 p.2)
      (mapped.setPart 0 { channels := [0], cores := [0] }) with rewriter := { descr := descr, status := 0 } }
theorem witness_RewriterRuns : (rewriting 1 0x40 0x78).rewriter.status = 0 ∧ named.rewriter.status ≠ 0 ∧
    (rewriting 1 0x40 0x78).rewriteJob.1 = rewriting 1 0x40 0x78 ∧ (rewriting 1 0x40 0x78).rewriteJob.2.toOption.map (fun j => (j.part, j.src, j.dst, j.len, j.rels.length)) = some (0, 0x200, 0x300, 1, 0) ∧
    (rewriting 0 0x40 0x78).rewriteJob.2.toOption.map (·.len) = some 0 ∧ (rewriting 1 0x40000 0x78).rewriteJob.2.isOk = false ∧
    (rewriting 1 0x40 0x78).gLost 0 0x200 8 = none ∧ (rewriting 1 0x40 0x78).rewriteOpen = true ∧ (rewriting 0 0x40 0x78).rewriteOpen = true ∧
    (rewriting 1 0x40000 0x78).rewriteOpen = true ∧ (away (rewriting 1 0x40 0x78)).rewriteOpen = false := by decide +kernel
theorem witness_RewriterRuns_word : ((rewriting 1 0x40 0x78).gWord 0 0x200).toOption = some 0x7800000000000000 ∧
    ((rewriting 1 0x40 0x78).gPlaces 384 0 true .store 0x300 8).toOption = some ((List.range 8).map (0x300 + ·)) ∧
    ∀ p ∈ (List.range 8).map (0x300 + ·), (rewriting 1 0x40 0x78).deadFrom 0 0 p = none := by decide +kernel
/-- A text of a NOP and a trailer. -/
def text2 : State := (rewriting 2 0x40 0x78).setByte 0x20F 0xBF
theorem witness_RewriterRuns_text : text2.rewriter.status = 0 ∧ text2.rewriteOpen = true ∧ text2.rewriteJob.1 = text2 ∧
    text2.rewriteJob.2.toOption.map (fun j => (j.part, j.src, j.dst, j.len, j.rels.length)) = some (0, 0x200, 0x300, 2, 0) ∧
    text2.rewriteJob.2.toOption.map (fun j => ((rewriteWord j.map j.base [] 0 0x7800000000000000).isSome,
      (rewriteWord j.map j.base [] 0 0xBF00000000000000).isSome)) = some (true, true) := by decide +kernel
/-- Translations that the Wellhead holds do not read memory. -/
theorem gPlaces_held (u : State) (m : Memory) (q : Store Bool) (acc : Acc) (va len : Nat)
    (h : ∀ k, k < len → (u.cached 384 0 (va + k)).isSome = true) :
    State.gPlaces { u with mem := m, poison := q } 384 0 true acc va len = u.gPlaces 384 0 true acc va len := by
  induction len with
  | zero => rfl
  | succ n ih =>
    obtain ⟨e, he⟩ := Option.isSome_iff_exists.mp (h n (by omega))
    have hc : State.cached { u with mem := m, poison := q } 384 0 (va + n) = some e := he
    simp only [State.gPlaces, ih fun k hk => h k (by omega), State.gPlace, Machine.translate, State.lookup, hc, he]
    rfl
theorem ok_of {ε α : Type} : ∀ {x : Except ε α} {a : α}, x.toOption = some a → x = .ok a
  | .ok _, _, rfl => rfl
/-- The places of words at 0x200 and 0x300, and what stands at the first while only the second are written. -/
def wordPlaces (a : Nat) : List Nat := (List.range 8).map (a + ·)
theorem witness_RewriterRuns_words2 (t : State) (i : Nat) (hi : i < 2) (h : t = { text2 with mem := t.mem, poison := t.poison })
    (hb : ∀ b, (∀ k, k < i → b ∉ wordPlaces (0x300 + 8 * k)) → t.byteAt b = text2.byteAt b) :
    t.gWord 0 (0x200 + 8 * i) = .ok (if i = 0 then 0x7800000000000000 else 0xBF00000000000000) ∧ t.gLost 0 (0x200 + 8 * i) 8 = none ∧
    t.gPlaces 384 0 true .store (0x300 + 8 * i) 8 = .ok (wordPlaces (0x300 + 8 * i)) ∧ (wordPlaces (0x300 + 8 * i)).Nodup ∧
    ∀ a ∈ wordPlaces (0x300 + 8 * i), text2.deadFrom 0 0 a = none ∧ ∀ k, k < i → a ∉ wordPlaces (0x300 + 8 * k) := by
  have held : ∀ i, i < 2 → ∀ b ∈ [0x200, 0x300], (∀ k, k < 8 → (text2.cached 384 0 (b + 8 * i + k)).isSome = true) ∧
      (text2.gPlaces 384 0 true (if b = 0x200 then .load else .store) (b + 8 * i) 8).toOption = some (wordPlaces (b + 8 * i)) ∧
      (wordPlaces (b + 8 * i)).filterMap (text2.deadFrom 0 0) = [] ∧ (wordPlaces (b + 8 * i)).Nodup := by decide +kernel
  have src := held i hi 0x200 (by simp)
  have dst := held i hi 0x300 (by simp)
  have lost : ∀ a, t.deadFrom 0 0 a = text2.deadFrom 0 0 a := fun a => by rw [h]; rfl
  have ls : t.gPlaces 384 0 true .load (0x200 + 8 * i) 8 = .ok (wordPlaces (0x200 + 8 * i)) := by
    rw [h, gPlaces_held _ _ _ _ _ _ src.1]; exact ok_of src.2.1
  have ld : t.gPlaces 384 0 true .store (0x300 + 8 * i) 8 = .ok (wordPlaces (0x300 + 8 * i)) := by
    rw [h, gPlaces_held _ _ _ _ _ _ dst.1]; exact ok_of dst.2.1
  have e : (wordPlaces (0x200 + 8 * i)).map t.byteAt = (wordPlaces (0x200 + 8 * i)).map text2.byteAt :=
    List.map_congr_left fun a ha => hb a fun k hk hm => by
      simp only [wordPlaces, List.mem_map, List.mem_range] at ha hm
      omega
  have none' : (wordPlaces (0x200 + 8 * i)).filterMap (t.deadFrom 0 0) = [] := by rw [funext lost]; exact src.2.2.1
  refine ⟨?_, ?_, ld, dst.2.2.2, fun a ha => ⟨?_, fun k hk hm => ?_⟩⟩
  · simp only [State.gWord, State.gLoad, ls, none', List.isEmpty_nil, if_true, e]
    interval_cases i <;> exact congrArg Except.ok (by decide +kernel)
  · simp only [State.gLost, ls, none', List.head?_nil]
  · exact List.filterMap_eq_nil_iff.mp dst.2.2.1 a ha
  · simp only [wordPlaces, List.mem_map, List.mem_range] at ha hm
    omega
def plainMap : RegMap := ⟨(List.range 256).map (BitVec.ofNat 8), (List.range 64).map (BitVec.ofNat 8)⟩
theorem witness_RewriterRuns_words : 0x30 ≤ majorOf 0xC000000000000000 ∧ majorOf 0x7800000000000000 < 0x30 ∧
    (rewriteWord plainMap 0 [] 0 0x7800000000000000).isSome = true ∧
    decode 0x0500080400002000 = .ok (.vadd ⟨1, 0, 0⟩ .f32 (v 2) (v 0) (v 1) .rne) ∧
    decode 0x600038C205000000 = .ok (.sadd hdr .z64 6 4 (.reg 5)) ∧
    decode 0x800003FFFFFD0000 = .ok (.bra hdr (-3) 0) ∧ -(2 ^ 25) ≤ (-3 : BitVec 26).toInt + ((0 : Word).toNat / 8 : Nat) ∧
    (2 : Int) ^ 25 ≤ (5 : BitVec 26).toInt + ((0x10000000 : Word).toNat / 8 : Nat) := by decide +kernel

/-! Decoding and steps. -/

theorem witness_RoundTrip : (Instr.sadd hdr .z64 6 4 (.reg 5)).wf = true ∧ encode (.sadd hdr .z64 6 4 (.reg 5)) = some 0x600038C205000000 := by decide
theorem witness_StepRunsTheWord : base.agenda = [.issue 0 0] ∧ ((base.core 0).port 0).cur = some (0, 0) ∧ ((base.core 0).port 0).busy = 0 ∧
    (base.group 0 0).st = .resident ∧ (base.team (base.group 0 0).team).ending = none ∧
    (base.at_ 0 0 0).curCand.started = true ∧ (base.at_ 0 0 0).curCand.hold = .none ∧ base.turn 0 0 = true ∧
    majorOf (base.at_ 0 0 0).curWord ≠ 0x2F ∧ (base.at_ 0 0 0).wordOk (base.at_ 0 0 0).curWord = true := by decide +kernel
/-- The next word, SADD, reads s4, which the load of an earlier run still owes. -/
def owed : State := (State.reset.withFetchWord 64 0x600038C205000000).modArch fun a => { a with pend := [(1, scalKey 4)], exports := [(1, exportScal 4)] }
theorem witness_StepRunsTheWord_waits : owed.agenda = [.issue 0 0] ∧ majorOf (owed.at_ 0 0 0).curWord ≠ 0x2F ∧
    (owed.at_ 0 0 0).wordOk (owed.at_ 0 0 0).curWord = false := by decide +kernel
def atTrailer : State := State.reset.withFetchWord 64 0xBF00000000000000
theorem witness_StepRunsTheWord_trailer : majorOf (atTrailer.at_ 0 0 0).curWord = 0x2F ∧ ((atTrailer.core 0).port 0).cur = some (0, 0) ∧
    ((atTrailer.core 0).port 0).busy = 0 ∧ (atTrailer.at_ 0 0 0).curCand.started = true := by decide
def streamWord : State := State.reset.withFetchWord 64 0xB800000000000000
theorem witness_StepRunsTheWord_stream : streamWord.agenda = [.stream 0] ∧ (streamWord.stream 0).state = 1 ∧ (streamWord.stream 0).hold = .none ∧
    (streamWord.at_ 384 0 0).curCand.started = true ∧ (streamWord.at_ 384 0 0).curCand.hold = .none := by decide
def eventNext (i : Instr) : State := { State.reset with agenda := [.event i] }
theorem witness_StepRunsTheWord_event : (eventNext .timeLockLoss).agenda = [.event .timeLockLoss] ∧ encode .timeLockLoss = none ∧
    encode (.nop hdr) = some 0x7800000000000000 := by decide
theorem witness_StepsGoOn : goesOn (step (eventNext (.warmStart false))) = false ∧ goesOn (step State.reset) = true := by decide +kernel
theorem witness_StepsKeepMemoryCanonical : MemOk State.reset ∧ MemOk (rewriting 1 0x40 0x78) ∧ goesOn (step State.reset) = true := by decide +kernel

end Sys2Proof.Tests
end

section
/-! PROOF. The words that combine bits or integers lane by lane, and those that copy bits (R419, R422, R423, R427). -/

namespace Sys2Proof.Machine

open Sys2Proof

/-! Format V (R294, R299): what the fields of a word read as that is put together from its parts. -/

theorem extractLsb'_mkWord {start len : Nat} (maj : BitVec 6) (h : Hdr) (m : BitVec 8) (op : BitVec 43)
    (hl : start + len ≤ 43) : (mkWord maj h m op).extractLsb' start len = op.extractLsb' start len :=
  BitVec.extractLsb'_append_eq_of_add_le hl

@[simp] theorem majorOf_mkWord (maj : BitVec 6) (h : Hdr) (m : BitVec 8) (op : BitVec 43) :
    majorOf (mkWord maj h m op) = maj := by
  change BitVec.extractLsb' 58 6 (maj ++ h.cls ++ h.guard ++ h.gneg ++ m ++ op) = maj
  simp (disch := decide) only [BitVec.extractLsb'_append_eq_of_le, Nat.reduceSub, BitVec.extractLsb'_eq_self]

@[simp] theorem selector_mkWord (maj : BitVec 6) (h : Hdr) (hi : BitVec 4) (t : Ty) (op : BitVec 43) :
    (mkWord maj h (mnr hi t) op).extractLsb' 47 4 = hi := by
  change BitVec.extractLsb' 47 4 (maj ++ h.cls ++ h.guard ++ h.gneg ++ (hi ++ t.code) ++ op) = hi
  simp (disch := decide) only [BitVec.extractLsb'_append_eq_of_le, BitVec.extractLsb'_append_eq_of_add_le,
    Nat.reduceSub, BitVec.extractLsb'_eq_self]

@[simp] theorem type_mkWord (maj : BitVec 6) (h : Hdr) (hi : BitVec 4) (t : Ty) (op : BitVec 43) :
    (mkWord maj h (mnr hi t) op).extractLsb' 43 4 = t.code := by
  change BitVec.extractLsb' 43 4 (maj ++ h.cls ++ h.guard ++ h.gneg ++ (hi ++ t.code) ++ op) = t.code
  simp (disch := decide) only [BitVec.extractLsb'_append_eq_of_le, BitVec.extractLsb'_append_eq_of_add_le,
    Nat.reduceSub, BitVec.extractLsb'_eq_self]

theorem extractLsb'_opV (vd va vb vc : BitVec 10) (rm : RMode) :
    (opV vd va vb vc rm).extractLsb' 33 10 = vd ∧ (opV vd va vb vc rm).extractLsb' 23 10 = va ∧
      (opV vd va vb vc rm).extractLsb' 13 10 = vb ∧ (opV vd va vb vc rm).extractLsb' 3 10 = vc := by
  have whole (start : Nat) : (opV vd va vb vc rm).extractLsb' start 10 =
      BitVec.extractLsb' start 10 (vd ++ va ++ vb ++ vc ++ rm.code ++ (0 : BitVec 1)) := rfl
  simp (disch := decide) only [whole, BitVec.extractLsb'_append_eq_of_le, BitVec.extractLsb'_append_eq_of_add_le,
    Nat.reduceSub, BitVec.extractLsb'_eq_self, and_self]

/-- What each field of a format V word reads as. -/
theorem formatV_fields (maj : BitVec 6) (h : Hdr) (hi : BitVec 4) (t : Ty) (vd va vb vc : BitVec 10) (rm : RMode) :
    let w := mkWord maj h (mnr hi t) (opV vd va vb vc rm)
    majorOf w = maj ∧ w.extractLsb' 47 4 = hi ∧ w.extractLsb' 43 4 = t.code ∧ w.extractLsb' 33 10 = vd ∧
      w.extractLsb' 23 10 = va ∧ w.extractLsb' 13 10 = vb ∧ w.extractLsb' 3 10 = vc := by
  refine ⟨majorOf_mkWord .., selector_mkWord .., type_mkWord .., ?_⟩
  simpa (disch := decide) only [extractLsb'_mkWord] using extractLsb'_opV vd va vb vc rm

/-- A word of class F that is encoded in format V with VC zero. -/
theorem encoded_formatV {i : Instr} {maj : BitVec 6} {h : Hdr} {hi : BitVec 4} {t : Ty} {vd va vb : BitVec 10} {rm : RMode}
    {m n : Nat} {c : BitVec 4} (he : encode i = some (mkWord maj h (mnr hi t) (opV vd va vb 0 rm)))
    (hc : minClass i = 0 := by rfl) (hm : maj.toNat = m := by rfl) (hn : hi.toNat = n := by rfl) (ht : t.code = c := by rfl) :
    ∃ w, encode i = some w ∧ minClass i = 0 ∧ (majorOf w).toNat = m ∧ (w.extractLsb' 47 4).toNat = n ∧
      w.extractLsb' 43 4 = c ∧ w.extractLsb' 33 10 = vd ∧ w.extractLsb' 23 10 = va ∧ w.extractLsb' 13 10 = vb ∧
      w.extractLsb' 3 10 = 0 := by
  obtain ⟨hmaj, hsel, htype, hops⟩ := formatV_fields maj h hi t vd va vb 0 rm
  exact ⟨_, he, hc, by rw [hmaj, hm], by rw [hsel, hn], htype.trans ht, hops⟩

theorem posS_eq_setWidth (r : BitVec 6) : posS r = r.setWidth 10 := (BitVec.setWidth_eq_append (by decide)).symm

theorem posP_eq_setWidth (p : BitVec 4) : posP p = p.setWidth 10 := (BitVec.setWidth_eq_append (by decide)).symm

/-! Integer lanes (R422). -/

/-- The number that a lane holds under one of the two integer types of R422. -/
def laneInt (ty : Ty) (a : Lane) : Int := if ty = .s32 then a.toInt else a.toNat

@[simp] theorem ofInt_laneInt (ty : Ty) (a : Lane) : BitVec.ofInt 32 (laneInt ty a) = a := by
  unfold laneInt
  split <;> simp

/-- No two lanes hold the same number. -/
theorem laneInt_inj {ty : Ty} {a b : Lane} : laneInt ty a = laneInt ty b ↔ a = b :=
  ⟨fun h => by rw [← ofInt_laneInt ty a, h, ofInt_laneInt], fun h => by rw [h]⟩

/-- Under an integer type the lanes are integers and raise nothing. -/
theorem arith2_int {ty : Ty} (ht : ty = .s32 ∨ ty = .z32) (ff : FFmt → Nat → Nat → FRes) (fi : Lane → Lane → Lane)
    (x y : Lane) : arith2 ty ff fi x y = (fi x y, fNone) := by
  rcases ht with rfl | rfl <;> rfl

theorem add_eq_ofInt (ty : Ty) (x y : Lane) : x + y = BitVec.ofInt 32 (laneInt ty x + laneInt ty y) := by
  rw [BitVec.ofInt_add, ofInt_laneInt, ofInt_laneInt]

theorem sub_eq_ofInt (ty : Ty) (x y : Lane) : x - y = BitVec.ofInt 32 (laneInt ty x - laneInt ty y) := by
  rw [Int.sub_eq_add_neg, BitVec.ofInt_add, BitVec.ofInt_neg, ofInt_laneInt, ofInt_laneInt, BitVec.sub_eq_add_neg]

theorem mul_eq_ofInt (ty : Ty) (x y : Lane) : x * y = BitVec.ofInt 32 (laneInt ty x * laneInt ty y) := by
  rw [BitVec.ofInt_mul, ofInt_laneInt, ofInt_laneInt]

/-- The comparison that every integer comparison is made of. -/
theorem compareInt_lt {ty : Ty} (ht : ty = .s32 ∨ ty = .z32) (x y : Lane) :
    compareInt (signedTy ty) .lt x y = decide (laneInt ty x < laneInt ty y) := by
  rcases ht with rfl | rfl
  · exact BitVec.slt_eq_decide
  · simp [compareInt, signedTy, laneInt, BitVec.ult]

theorem maxInt_eq_ofInt {ty : Ty} (ht : ty = .s32 ∨ ty = .z32) (x y : Lane) :
    maxInt (signedTy ty) x y = BitVec.ofInt 32 (max (laneInt ty x) (laneInt ty y)) := by
  rw [maxInt, compareInt_lt ht, max_def_lt, apply_ite (BitVec.ofInt 32), ofInt_laneInt, ofInt_laneInt]
  simp only [decide_eq_true_eq]

theorem minInt_eq_ofInt {ty : Ty} (ht : ty = .s32 ∨ ty = .z32) (x y : Lane) :
    minInt (signedTy ty) x y = BitVec.ofInt 32 (min (laneInt ty x) (laneInt ty y)) := by
  rw [minInt, compareInt_lt ht, min_comm, min_def_lt, apply_ite (BitVec.ofInt 32), ofInt_laneInt, ofInt_laneInt]
  simp only [decide_eq_true_eq]

/-- The count by which a lane shifts: bits 4:0 of vB (R423). -/
def shiftCount (y : Lane) : Nat := (y.extractLsb' 0 5).toNat

theorem shiftCount_eq (y : Lane) : shiftCount y = y.toNat % 32 := by
  simp [shiftCount, BitVec.extractLsb'_toNat]

/-! Words that raise nothing. -/

/-- An element-wise word whose lanes raise no flag (R420). -/
theorem vecWord_writes_unflagged {i : Instr} {s : State} {h : Hdr} {vd : VOp} {vs : List VOp} {sr : Option (BitVec 6)}
    {f : Arch → Nat → List Lane → Lane × Flags} {g : Nat → Lane} (hi : exec i s = finish s (vecWord s h vd vs sr f))
    (hv : VecReady s h vd vs) (hs : ∀ r, sr = some r → CleanLo s r)
    (hf : ∀ l, f s.cur.arch l (vs.map fun v => (s.cur.arch.getRef (refOf s v) l).bits) = (g l, fNone)) :
    WritesV i s (refOf s vd) (s.execMask h) g 0 := by
  have hd := vecWord_done f hv hs
  simp only [hf] at hd
  rw [orFlags_none (by simp)] at hd
  exact writesV_of_done (hi.trans hd)

/-- The mould of one source, where its lane function raises nothing. -/
theorem vec1_writes_unflagged {i : Instr} {s : State} {h : Hdr} {vd va : VOp} {f : Lane → Lane × Flags} {g : Lane → Lane}
    (hi : exec i s = finish s (vec1 s h vd va f)) (hv : VecReady s h vd [va]) (hf : ∀ x, f x = (g x, fNone)) :
    WritesV i s (refOf s vd) (s.execMask h) (fun l => g (s.cur.arch.getRef (refOf s va) l).bits) 0 :=
  vecWord_writes_unflagged hi hv nofun fun _ => hf _

/-- The mould of two sources, where its lane function raises nothing. -/
theorem vec2_writes_unflagged {i : Instr} {s : State} {h : Hdr} {vd va vb : VOp} {f : Lane → Lane → Lane × Flags}
    {g : Lane → Lane → Lane} (hi : exec i s = finish s (vec2 s h vd va vb f)) (hv : VecReady s h vd [va, vb])
    (hf : ∀ x y, f x y = (g x y, fNone)) :
    WritesV i s (refOf s vd) (s.execMask h)
      (fun l => g (s.cur.arch.getRef (refOf s va) l).bits (s.cur.arch.getRef (refOf s vb) l).bits) 0 :=
  vecWord_writes_unflagged hi hv nofun fun _ => hf _ _

/-- The mould of VADD and its like under an integer type: each lane holds the exact result modulo 2^32. -/
theorem arith2_writes_int {i : Instr} {s : State} {h : Hdr} {vd va vb : VOp} {ty : Ty} {ff : FFmt → Nat → Nat → FRes}
    {fi : Lane → Lane → Lane} {op : Int → Int → Int} (ht : ty = .s32 ∨ ty = .z32)
    (hi : exec i s = finish s (vec2 s h vd va vb (arith2 ty ff fi))) (hv : VecReady s h vd [va, vb])
    (hop : ∀ x y, fi x y = BitVec.ofInt 32 (op (laneInt ty x) (laneInt ty y))) :
    WritesV i s (refOf s vd) (s.execMask h)
      (fun l => BitVec.ofInt 32 (op (laneInt ty (s.cur.arch.getRef (refOf s va) l).bits)
        (laneInt ty (s.cur.arch.getRef (refOf s vb) l).bits))) 0 :=
  vec2_writes_unflagged (g := fun x y => BitVec.ofInt 32 (op (laneInt ty x) (laneInt ty y))) hi hv fun x y => by
    rw [arith2_int ht, hop]

/-- Settles O4: each word is an element-wise word whose lanes raise nothing, so its mould gives the result and the frame; the integer
results are those of `laneInt`, and the encodings are of format V. -/
theorem vectorIntegerResults : Obligations.VectorIntegerResults := by
  refine ⟨fun s h vd va vb rm hv => ?_, fun s h vd va rm => ⟨fun hv => ?_, fun sa hv hs => ?_⟩, fun h vd va vb sa rm => ?_⟩
  · refine ⟨vec2_writes_unflagged rfl hv fun _ _ => rfl, vec2_writes_unflagged rfl hv fun _ _ => rfl,
      vec2_writes_unflagged rfl hv fun _ _ => rfl, ?shl, ?shr, ?sra,
      fun pc => vecWord_writes_unflagged rfl hv nofun fun _ => rfl, fun ty ht => ⟨?add, ?sub, ?mul, ?max, ?min⟩⟩
    case shl => exact vec2_writes_unflagged (g := fun x y => x <<< shiftCount y) rfl hv fun x y => by rw [shiftCount_eq]
    case shr => exact vec2_writes_unflagged (g := fun x y => x >>> shiftCount y) rfl hv fun x y => by rw [shiftCount_eq]
    case sra => exact vec2_writes_unflagged (g := fun x y => x.sshiftRight (shiftCount y)) rfl hv fun x y => by rw [shiftCount_eq]
    case add => exact arith2_writes_int ht rfl hv (add_eq_ofInt ty)
    case sub => exact arith2_writes_int ht rfl hv (sub_eq_ofInt ty)
    case mul => exact arith2_writes_int ht rfl hv (mul_eq_ofInt ty)
    case max => exact arith2_writes_int ht rfl hv (maxInt_eq_ofInt ht)
    case min => exact arith2_writes_int ht rfl hv (minInt_eq_ofInt ht)
  · exact ⟨vec1_writes_unflagged (g := id) rfl hv fun _ => rfl,
      vec1_writes_unflagged (g := (· &&& 0x7FFFFFFF)) rfl hv fun _ => rfl,
      vec1_writes_unflagged (g := (· &&& 0x7FFF7FFF)) rfl hv fun _ => rfl,
      vec1_writes_unflagged (g := (· ^^^ 0x80000000)) rfl hv fun _ => rfl,
      vec1_writes_unflagged (g := (· ^^^ 0x80008000)) rfl hv fun _ => rfl⟩
  · refine vecWord_writes_unflagged rfl hv (fun r hr => ?_) fun _ => rfl
    cases hr
    exact hs
  · rw [← posS_eq_setWidth]
    exact ⟨encoded_formatV rfl, encoded_formatV rfl, encoded_formatV rfl, encoded_formatV rfl, encoded_formatV rfl,
      encoded_formatV rfl, encoded_formatV rfl, encoded_formatV rfl, encoded_formatV rfl, encoded_formatV rfl,
      encoded_formatV rfl, encoded_formatV rfl⟩

end Sys2Proof.Machine
end

section
/-! PROOF. VCMP (R324, R424): what its comparison answers in a lane, the predicate and the flags it leaves, and its encoding. -/

namespace Sys2Proof.Machine

open Sys2Proof

/-! The encodings of an FP32 lane (R95, R97). -/

/-- Whether the magnitude of an FP32 lane lies above that of ∞. -/
def nanBits (a : Lane) : Bool := decide ((a &&& 0x7FFFFFFF).toNat > 0x7F800000)

/-- The number an FP32 lane is ordered by: its magnitude with its sign, −0 equal to +0. -/
def magnitude (a : Lane) : Int := if a.toNat < 2 ^ 31 then a.toNat else -((a.toNat - 2 ^ 31 : Nat) : Int)

theorem nanBits_eq (a : Lane) : nanBits a = decide (0x7F800000 < a.toNat % 2 ^ 31) := by
  have hmod : (a &&& 0x7FFFFFFF).toNat = a.toNat % 2 ^ 31 := by
    rw [BitVec.toNat_and]
    exact Nat.and_two_pow_sub_one_eq_mod a.toNat 31
  rw [nanBits, hmod]

theorem bit22_eq (a : Lane) : bit a 22 = decide (a.toNat / 2 ^ 22 % 2 = 1) := by
  rw [bit, BitVec.getLsbD, Nat.testBit_eq_decide_div_mod_eq]

/-- A NaN has an exponent of all ones and a fraction that is not zero. -/
theorem isNan_unpack (f : FFmt) (b : Nat) :
    (unpack f b).isNan = decide (b / 2 ^ f.fw % 2 ^ f.ew = f.emax ∧ b % 2 ^ f.fw ≠ 0) := by
  simp only [unpack, apply_ite FVal.isNan]
  by_cases hmax : b / 2 ^ f.fw % 2 ^ f.ew = f.emax <;> simp [FVal.isNan, hmax]

/-- It signals when the first bit of the fraction is 0. -/
theorem isSig_unpack (f : FFmt) (b : Nat) :
    (unpack f b).isSig = ((unpack f b).isNan && decide (b % 2 ^ f.fw < 2 ^ (f.fw - 1))) := by
  rw [isNan_unpack]
  simp only [unpack, apply_ite FVal.isSig]
  by_cases hmax : b / 2 ^ f.fw % 2 ^ f.ew = f.emax <;> simp [FVal.isSig, hmax]

theorem isNan_unpack_f32 (a : Lane) : (unpack fmtF32 (f32 a)).isNan = nanBits a := by
  rw [isNan_unpack, nanBits_eq, Bool.eq_iff_iff, decide_eq_true_eq, decide_eq_true_eq]
  simp only [f32, fmtF32, FFmt.emax]
  omega

theorem isSig_unpack_f32 (a : Lane) : (unpack fmtF32 (f32 a)).isSig = (nanBits a && !bit a 22) := by
  rw [isSig_unpack, isNan_unpack_f32, bit22_eq, ← decide_not]
  simp only [f32, fmtF32]
  congr 2
  rw [eq_iff_iff]
  omega

theorem numKey_f32 (a : Lane) : numKey fmtF32 (f32 a) = magnitude a := by
  have hlt := a.isLt
  have hsign : fmtF32.sign = 2 ^ 31 := rfl
  rw [numKey, magnitude, f32, hsign]
  by_cases hpos : a.toNat < 2 ^ 31
  · rw [if_neg (by omega), if_pos hpos]
    omega
  · rw [if_pos (by omega), if_neg hpos]
    omega

/-! Conditions of two lanes. -/

/-- A condition of two numbers, where `un` says that one of them is none: then `ne` and `un` alone hold (R424). -/
def condHolds (c : Cond) (un : Bool) (x y : Int) : Bool :=
  match c with
  | .eq => !un && decide (x = y)
  | .ne => un || decide (x ≠ y)
  | .lt => !un && decide (x < y)
  | .le => !un && decide (x ≤ y)
  | .gt => !un && decide (y < x)
  | .ge => !un && decide (y ≤ x)
  | .un => un

theorem fCompare_f32 (c : Cond) (x y : Lane) :
    fCompare fmtF32 c (f32 x) (f32 y) = condHolds c (nanBits x || nanBits y) (magnitude x) (magnitude y) := by
  simp only [fCompare, isNan_unpack_f32, numKey_f32]
  cases c <;> rfl

theorem compareInt_laneInt {ty : Ty} (ht : ty = .s32 ∨ ty = .z32) {c : Cond} (hc : c ≠ .un) (x y : Lane) :
    compareInt (signedTy ty) c x y = condHolds c false (laneInt ty x) (laneInt ty y) := by
  have hlt := compareInt_lt ht x y
  have heq : (x == y) = decide (laneInt ty x = laneInt ty y) := by
    rw [Bool.eq_iff_iff, beq_iff_eq, decide_eq_true_eq, laneInt_inj]
  simp only [compareInt] at hlt ⊢
  rw [hlt]
  cases c with
  | un => exact absurd rfl hc
  | eq => simp [condHolds, heq]
  | ne => simp [condHolds, bne, heq]
  | lt => simp [condHolds]
  | le => simp [condHolds, heq, le_iff_lt_or_eq]
  | gt =>
    rw [Bool.eq_iff_iff]
    simp [condHolds, heq]
    omega
  | ge =>
    rw [Bool.eq_iff_iff]
    simp [condHolds]

/-! A lane of VCMP. -/

/-- The number that VCMP compares a lane by. -/
def cmpNum (ty : Ty) (a : Lane) : Int := if ty = .s32 then a.toInt else if ty = .z32 then a.toNat else magnitude a

/-- Whether a lane is no number under a type. -/
def cmpNan (ty : Ty) (a : Lane) : Bool := ty == .f32 && nanBits a

/-- Whether a lane is a signalling NaN under a type (R97). -/
def cmpSignals (ty : Ty) (a : Lane) : Bool := cmpNan ty a && !bit a 22

theorem cmpLane_f32 (c : Cond) (x y : Lane) :
    cmpLane c .f32 x y = (fCompare fmtF32 c (f32 x) (f32 y), compareFlags fmtF32 (f32 x) (f32 y)) := if_pos rfl

theorem cmpNum_f32 (a : Lane) : cmpNum .f32 a = magnitude a := by simp [cmpNum]

theorem cmpNan_f32 (a : Lane) : cmpNan .f32 a = nanBits a := by simp [cmpNan]

theorem cmpLane_int {ty : Ty} (ht : ty = .s32 ∨ ty = .z32) (c : Cond) (x y : Lane) :
    cmpLane c ty x y = (compareInt (signedTy ty) c x y, fNone) := by
  rcases ht with rfl | rfl <;> rfl

theorem cmpNum_int {ty : Ty} (ht : ty = .s32 ∨ ty = .z32) (a : Lane) : cmpNum ty a = laneInt ty a := by
  rcases ht with rfl | rfl <;> rfl

theorem cmpNan_int {ty : Ty} (ht : ty = .s32 ∨ ty = .z32) (a : Lane) : cmpNan ty a = false := by
  rcases ht with rfl | rfl <;> rfl

theorem cmpLane_holds {c : Cond} {ty : Ty} (ht : ty = .f32 ∨ ty = .s32 ∨ ty = .z32) (hc : c = .un → ty = .f32) (x y : Lane) :
    (cmpLane c ty x y).1 = condHolds c (cmpNan ty x || cmpNan ty y) (cmpNum ty x) (cmpNum ty y) := by
  rcases ht with rfl | ht
  · rw [cmpLane_f32, fCompare_f32, cmpNan_f32, cmpNan_f32, cmpNum_f32, cmpNum_f32]
  · have hun : c ≠ .un := fun h => by rcases ht with rfl | rfl <;> exact nomatch hc h
    rw [cmpLane_int ht, compareInt_laneInt ht hun, cmpNan_int ht, cmpNan_int ht, cmpNum_int ht, cmpNum_int ht]
    rfl

theorem cmpLane_flags {ty : Ty} (ht : ty = .f32 ∨ ty = .s32 ∨ ty = .z32) (c : Cond) (x y : Lane) :
    (cmpLane c ty x y).2 = flagIf (cmpSignals ty x || cmpSignals ty y) fInv := by
  rcases ht with rfl | ht
  · rw [cmpLane_f32]
    simp [compareFlags, sigFlag, isSig_unpack_f32, cmpSignals, cmpNan_f32]
  · rw [cmpLane_int ht, cmpSignals, cmpSignals, cmpNan_int ht, cmpNan_int ht]
    rfl

/-! Masks and flags of several lanes. -/

theorem bit_maskOf {w : Nat} (l : List Nat) {j : Nat} (hj : j < w) : bit (maskOf w l) j = decide (j ∈ l) := by
  suffices h : ∀ m : BitVec w, bit (l.foldl (fun m i => m ||| onehot w i) m) j = (bit m j || decide (j ∈ l)) by
    simpa [maskOf, bit] using h 0
  induction l with
  | nil => simp
  | cons i l ih =>
    intro m
    rw [List.foldl_cons, ih]
    simp [bit, onehot, hj, Bool.or_assoc]

/-- New bits in the lanes of a mask, the old ones in the others (R324). -/
theorem bit_merge (m p : Mask) (q : Nat → Bool) {l : Nat} (hl : l < 32) :
    bit ((p &&& ~~~m) ||| maskOf 32 ((lanes m).filter q)) l = if bit m l then q l else bit p l := by
  have hset : bit (maskOf 32 ((lanes m).filter q)) l = (bit m l && q l) := by
    rw [bit_maskOf _ hl, Bool.eq_iff_iff]
    simp [mem_lanes, hl]
  have hor : bit ((p &&& ~~~m) ||| maskOf 32 ((lanes m).filter q)) l =
      ((bit p l && !bit m l) || bit (maskOf 32 ((lanes m).filter q)) l) := by simp [bit, hl]
  rw [hor, hset]
  cases bit m l <;> simp

/-- A flag that some of several places raise. -/
theorem orFlags_flagIf {α : Type} (l : List α) (c : α → Bool) (f : Flags) :
    orFlags (l.map fun a => flagIf (c a) f) = flagIf (l.any c) f := by
  suffices h : ∀ g : Flags, (l.map fun a => flagIf (c a) f).foldl (· ||| ·) g = g ||| flagIf (l.any c) f by
    simpa [orFlags, fNone] using h fNone
  induction l with
  | nil => simp [flagIf, fNone]
  | cons a l ih =>
    intro g
    rw [List.map_cons, List.foldl_cons, ih, List.any_cons, BitVec.or_assoc]
    cases c a <;> cases l.any c <;> simp [flagIf, fNone]

/-! The word at issue. -/

/-- A write of a predicate touches the predicates alone. -/
theorem Arch.setP_eq (a : Arch) (k : BitVec 4) (v : Mask) : ∃ p, a.setP k v = { a with preds := p } := by
  unfold Arch.setP
  split
  · exact ⟨_, rfl⟩
  · exact ⟨_, rfl⟩

/-- A word that is done by a write of one predicate, and flags. -/
theorem done_setP (s : State) (pd : BitVec 4) (v : Mask) (fl : Flags) :
    let t := (s.modArch fun a => (a.setP pd v).raise fl).retire
    ArchOnly s t ∧ Advanced s t ∧ (∀ k, t.cur.arch.getP k = (s.cur.arch.setP pd v).getP k) ∧
      t.cur.arch.flags = s.cur.arch.flags ||| fl ∧
      t.cur.arch = { s.cur.arch with preds := t.cur.arch.preds, flags := t.cur.arch.flags, retired := t.cur.arch.retired,
                                     cands := t.cur.arch.cands } := by
  obtain ⟨p, hp⟩ := s.cur.arch.setP_eq pd v
  have ha := arch_retire_modArch s fun a => (a.setP pd v).raise fl
  obtain ⟨honly, hadv⟩ := done_modArch s (fun a => (a.setP pd v).raise fl) (by rw [hp]; rfl) (by rw [hp]; rfl)
  refine ⟨honly, hadv, fun k => ?_, ?_, ?_⟩
  · rw [ha]
    rfl
  · rw [ha, hp]
    rfl
  · rw [ha, hp]
    rfl

/-- What VCMP answers in a lane. -/
def vcmpAt (s : State) (c : Cond) (ty : Ty) (va vb : VOp) (l : Nat) : Bool × Flags :=
  cmpLane c ty (s.cur.arch.getRef (refOf s va) l).bits (s.cur.arch.getRef (refOf s vb) l).bits

/-- The predicate that VCMP leaves, and the flags that it raises. -/
def vcmpPred (s : State) (h : Hdr) (c : Cond) (ty : Ty) (pd : BitVec 4) (va vb : VOp) : Mask :=
  (s.cur.arch.getP pd &&& ~~~s.execMask h) ||| maskOf 32 ((lanes (s.execMask h)).filter fun l => (vcmpAt s c ty va vb l).1)
def vcmpFlags (s : State) (h : Hdr) (c : Cond) (ty : Ty) (va vb : VOp) : Flags :=
  orFlags ((lanes (s.execMask h)).map fun l => (vcmpAt s c ty va vb l).2)

theorem vcmpFlags_eq {s : State} {h : Hdr} {c : Cond} {ty : Ty} {va vb : VOp} (ht : ty = .f32 ∨ ty = .s32 ∨ ty = .z32) :
    vcmpFlags s h c ty va vb = flagIf ((List.range 32).any fun l => bit (s.execMask h) l &&
      (cmpSignals ty (s.cur.arch.getRef (refOf s va) l).bits || cmpSignals ty (s.cur.arch.getRef (refOf s vb) l).bits)) fInv := by
  simp only [vcmpFlags, vcmpAt, cmpLane_flags ht, orFlags_flagIf, lanes, bitsOf, List.any_filter]
  rfl

theorem exec_vcmp {s : State} {h : Hdr} (c : Cond) (ty : Ty) (pd : BitVec 4) {va vb : VOp} (rm : RMode) (hp : Plain s h)
    (hha : Held s (refOf s va)) (hhb : Held s (refOf s vb)) (hca : CleanIn s (s.execMask h) (refOf s va))
    (hcb : CleanIn s (s.execMask h) (refOf s vb)) :
    exec (.vcmp h c ty pd va vb rm) s =
      .next (s.modArch fun a => (a.setP pd (vcmpPred s h c ty pd va vb)).raise (vcmpFlags s h c ty va vb)).retire := by
  obtain ⟨hg, hb, hi⟩ := hp
  have hbound : boundAll s.cur.allot [refOf s va, refOf s vb] 1 = none := boundAll_none 1 fun r hr => by
    rcases List.mem_pair.1 hr with rfl | rfl
    · exact hha
    · exact hhb
  have hchecks : firstTrap [boundAll s.cur.allot [refOf s va, refOf s vb] 1, poisonRef s.cur.arch (refOf s va) (s.execMask h),
      poisonRef s.cur.arch (refOf s vb) (s.execMask h)] = none := by
    rw [hbound, poisonRef_none hca, poisonRef_none hcb]
    rfl
  change execVcmp h c ty pd va vb rm s = _
  unfold execVcmp
  rw [groupWord_runs _ hg hb]
  simp only [hchecks, guardTrap]
  rw [finish, settle_done _ hi]
  simp only [List.filter_map, List.map_map, Function.comp_def, List.map_id']
  rfl

/-! Words that encode no VCMP (R313, R424). -/

theorem refuse_error (f : Instr → DecodeError) (k : Except DecodeError Instr) : ∃ e, refuse f k = .error e := by
  cases k with
  | ok i => exact ⟨f i, rfl⟩
  | error e => exact ⟨e, rfl⟩

/-- A refusal stands whatever reserved fields hold. -/
theorem zero_error {b : Bool} {k : Except DecodeError Instr} (hk : ∃ e, k = .error e) : ∃ e, zero b k = .error e := by
  cases b with
  | true => exact hk
  | false => exact refuse_error _ k

theorem chk_error {i : Instr} (h : i.wf = false) : ∃ e, chk i = .error e := ⟨.illFormed i, by simp [chk, h]⟩

/-- Major 0x05 holds VCMP alone; its selector is the condition and its type code the type. -/
theorem decode_major5 {w : Word} (hw : majorOf w = 5) :
    let f := fmtV (fld w 0 43)
    decode w = code (Cond.ofCode (w.extractLsb' 47 4)) fun c => zero (hiP f.vd && f.vc == 0 && f.z)
      (chk (.vcmp (hdrOf w) c (Ty.ofCode (w.extractLsb' 43 4)) (loP f.vd) (VOp.ofCode f.va) (VOp.ofCode f.vb) f.rm)) := by
  have hsel : (fld (fld w 43 8 : BitVec 8) 4 4 : BitVec 4) = w.extractLsb' 47 4 := by
    ext i hi
    simp [fld, show 4 + i < 8 by omega, ← Nat.add_assoc]
  have htype : (fld (fld w 43 8 : BitVec 8) 0 4 : BitVec 4) = w.extractLsb' 43 4 := by
    ext i hi
    simp [fld, show i < 8 by omega]
  rw [← hsel, ← htype, decode, hw]
  rfl

theorem condOfCode_none : ∀ c : BitVec 4, 7 ≤ c.toNat → Cond.ofCode c = none := by decide

theorem tyOfCode_ne_f32 : ∀ c : BitVec 4, c ≠ 1 → Ty.ofCode c ≠ .f32 := by decide

/-- Settles O7: VCMP is done by a write of pD and flags; a lane's bit is the condition of the numbers that the two lanes hold, its flag INV
where one of them signals. A word of major 0x05 with another condition or type meets a refusal of the decoder. -/
theorem vectorCompare : Obligations.VectorCompare := by
  refine ⟨fun s h c ty pd va vb rm hp hha hhb hca hcb => ?_, fun h c ty pd va vb rm => ?_, fun w hw hcode => ?_⟩
  · intro x y num nan un signals holds ht hc
    obtain ⟨honly, hadv, hpreds, hflags, hframe⟩ :=
      done_setP s pd (vcmpPred s h c ty pd va vb) (vcmpFlags s h c ty va vb)
    refine ⟨_, exec_vcmp c ty pd rm hp hha hhb hca hcb, honly, hadv, fun hpd l hl => ?_, fun k hk => ?_, ?_, hframe⟩
    · have hholds : (vcmpAt s c ty va vb l).1 = holds l := by
        rw [vcmpAt, cmpLane_holds ht hc]
        cases c <;> rfl
      rw [hpreds, Arch.getP_setP, if_pos ⟨rfl, hpd⟩, vcmpPred, bit_merge _ _ _ hl, hholds]
    · rw [hpreds, Arch.getP_setP, if_neg]
      rintro ⟨rfl, h0⟩
      exact hk.elim (fun hne => hne rfl) h0
    · rw [hflags, vcmpFlags_eq ht]
      rfl
  · obtain ⟨hmaj, hsel, htype, hops⟩ := formatV_fields 5 h c.code ty (posP pd) va.code vb.code 0 rm
    rw [← posP_eq_setWidth]
    refine ⟨_, rfl, rfl, hmaj, hsel.trans (by cases c <;> rfl), ?_, ?_, ?_, hops⟩
    all_goals
      rintro rfl
      exact htype
  · rw [decode_major5 hw]
    rcases hcode with hcond | ⟨hun, hty⟩
    · rw [condOfCode_none _ hcond]
      exact refuse_error _ _
    · rw [hun]
      exact zero_error (chk_error (by simp [Instr.wf, tyOfCode_ne_f32 _ hty]))

end Sys2Proof.Machine
end
